-- ==== Sys2Proof/Word.lean ====
section
/-! DEFINITION. The word types of the machine and their plainest arithmetic. -/
namespace Sys2Proof

/-- A 64-bit general register, address or record word (spec/02_core_state.md R25). -/
abbrev Word := BitVec 64

/-- One byte of memory. -/
abbrev Byte := BitVec 8

/-- A vector register of 256 bits (R25). -/
abbrev VReg := BitVec 256

/-- A predicate register of 32 bits (R25). -/
abbrev QReg := BitVec 32

/-- One encoded instruction (spec/03_encoding.md R40). -/
abbrev Slot := BitVec 96

end Sys2Proof
end

