-- ==== Sys2Proof/Syntax.lean ====
section
/-! DEFINITION. The syntax of the machine's steps: the operand forms of the Ngaric instructions
(spec/03_encoding.md R48 to R56), the parameters of the part's events, and `Instr`, one constructor
per row of spec/opcode_table.json. -/
namespace Sys2Proof

/-- TY codes of R55, in code order. -/
inductive Ty where
  | i8 | i16 | i32 | i64 | n8 | n16 | n32 | n64 | fp64 | fp32 | fp16 | bf16
  | e4m3 | e5m2 | e2m3 | e3m2 | e2m1 | dx8 | dx4 | mxint8 | e8m0 | i4 | n4
  deriving DecidableEq, Repr, Inhabited

/-- RM codes of R56; 6 and 7 are reserved. -/
inductive Rm where
  | rne | rtz | rup | rdn | rna | dyn
  deriving DecidableEq, Repr, Inhabited

/-- Routing classes of R51 and R179. -/
inductive Cls where
  | o | a | v
  deriving DecidableEq, Repr, Inhabited

/-- ORD codes of R51: relaxed, acquire, release, engine-drain. -/
inductive Ord where
  | rlx | acq | rel | drain
  deriving DecidableEq, Repr, Inhabited

/-- One operand named by an 8-bit specifier (R54). -/
inductive Opnd where
  /-- g0 to g63 -/
  | g (n : Fin 64)
  /-- v0 to v31 -/
  | v (n : Fin 32)
  /-- q0 to q7 -/
  | q (n : Fin 8)
  /-- e0 to e15 -/
  | e (n : Fin 16)
  /-- lw, ln, le, ls, with the forward flag F -/
  | port (p : Fin 4) (fwd : Bool)
  /-- tl0 to tl3 -/
  | tl (n : Fin 4)
  /-- 0xFF, no operand -/
  | none
  deriving DecidableEq, Repr, Inhabited

/-- The endpoint a channel instruction names (R52): e0 to e15, or a lattice port when FW is 1. -/
inductive Ep where
  | e (n : Fin 16)
  | port (p : Fin 4)
  deriving DecidableEq, Repr, Inhabited

/-- The fields of formats A and B (R49, R50). In format B, `imm` holds DISP in 31:3 and SLOT in 2:0. -/
structure OpA where
  /-- predicate register -/
  pg : Fin 8 := 0
  /-- predicate negate -/
  pn : Bool := false
  /-- sub-operation -/
  sub : BitVec 7 := 0
  /-- element or operand type; code 0 where the instruction takes none (R53) -/
  ty : Ty := .i8
  sat : Bool := false
  rm : Rm := .rne
  d : Opnd := .none
  s1 : Opnd := .none
  s2 : Opnd := .none
  s3 : Opnd := .none
  l1 : Bool := false
  l2 : Bool := false
  l3 : Bool := false
  imm : BitVec 32 := 0
  deriving DecidableEq, Repr, Inhabited

/-- The fields of format M (R51). -/
structure OpM where
  pg : Fin 8 := 0
  pn : Bool := false
  sub : BitVec 4 := 0
  cls : Cls := .o
  ty : Ty := .i8
  ctx : Fin 4 := 0
  ord : Ord := .rlx
  d : Opnd := .none
  s1 : Opnd := .none
  s2 : Opnd := .none
  s3 : Opnd := .none
  l1 : Bool := false
  l2 : Bool := false
  l3 : Bool := false
  imm : BitVec 32 := 0
  deriving DecidableEq, Repr, Inhabited

/-- The fields of format C (R52). SUB is zero in every channel instruction (R154) and is not kept. -/
structure OpC where
  pg : Fin 8 := 0
  pn : Bool := false
  ep : Ep := .e 0
  mt : Fin 16 := 0
  cls : Cls := .o
  d : Opnd := .none
  s1 : Opnd := .none
  s2 : Opnd := .none
  s3 : Opnd := .none
  l1 : Bool := false
  l2 : Bool := false
  l3 : Bool := false
  imm : BitVec 32 := 0
  deriving DecidableEq, Repr, Inhabited

/-- An item of an engine or matrix command: the core (physical index), the context, the timeline
number and the item number (R187, R189). -/
structure ItemRef where
  core : Nat
  ctx : Fin 4
  tl : Nat
  item : Nat
  deriving DecidableEq, Repr, Inhabited

/-- What an arriving remote access is: an access of the in-flight list by its number, the remote
side of an engine item, or an access that another package sent, by its number here. -/
inductive AccessRef where
  | flight (id : Nat)
  | item (r : ItemRef)
  | inbound (id : Nat)
  deriving DecidableEq, Repr, Inhabited

/-- What another package answers to an access that left this package (R129): a status and the bytes read.
`none` when the access stayed in this package, whose own memory answers. -/
abbrev Reply := Option (Nat × List Byte)

/-! ## What other packages send (R129, R358, R374) -/

/-- An endpoint that a message from another package carries (R149): the four words of its descriptor, the package that
holds its peer, the carried encoding, and the old holder's package, node identifier and endpoint. -/
structure FarDeleg where
  desc : List Word
  peerPkg : Nat
  enc : List Byte
  pkg : Nat
  node : Nat
  ep : Nat
  /-- the channel: the package that formed it and its number there -/
  chan : Nat × Nat
  deriving DecidableEq, Repr, Inhabited

/-- A message that a node of another package sends over a channel, or about one. -/
inductive FarBody where
  /-- a channel message: number, type, bytes, poisoned, an endpoint it carries (R145) -/
  | msg (seq mt : Nat) (bytes : List Byte) (poison : Bool) (deleg : Option FarDeleg)
  /-- a credit return (R142) -/
  | credit
  /-- a close notice (R152) -/
  | close (final : Nat) (w : Word)
  /-- nobody adopted the endpoint that a message to here carried (R151) -/
  | unadopted (cause : Nat) (failed : Bool)
  /-- hold and release notices (R174) -/
  | hold | release
  /-- a connection request: the connector's endpoint and slot, and its canonical encoding (R160) -/
  | request (ep slot : Nat) (enc : List Byte)
  /-- an acceptor's answer: status, and its node identifier and endpoint (R160) -/
  | answer (status node ep : Nat)
  | confirm | withdraw
  /-- handover: the sender has adopted, at this endpoint (R149) -/
  | adopted (ep : Nat)
  /-- handover: send to this package, node and endpoint from now on (R149) -/
  | redirect (pkg node ep : Nat)
  /-- handover: the last number sent to the old holder (R149); from an old holder, that every buffered message has gone -/
  | redirected (last : Nat)
  deriving DecidableEq, Repr, Inhabited

/-- What an access from another package asks (R129). -/
inductive FarReq where
  | read (n : Nat) (fetch : Bool)
  /-- bytes at offsets from the address -/
  | write (bytes : List (Nat × Byte))
  /-- SUB, TY, operand, expected value (R225) -/
  | atomic (sub : Nat) (ty : Ty) (b e : Nat)
  /-- R341 -/
  | join
  /-- an MCAST write of a group, which the switches bring to every member (R379): the offset address and the bytes -/
  | mcast (group : Nat) (bytes : List Byte)
  /-- an arrival on an object of the core that the address names (R202): object address and count -/
  | arrival (obj : Word) (count : Nat)
  deriving DecidableEq, Repr, Inhabited

/-- What a transfer is. -/
inductive FarWhat where
  /-- for a node and an endpoint of the partition, on a channel: the package that formed it and its number there -/
  | message (node ep : Nat) (chan : Nat × Nat) (b : FarBody)
  /-- an access to a global address, or an arrival with its target word -/
  | access (addr : Word) (req : FarReq)
  /-- the outcome of an access: a status and the bytes returned -/
  | reply (status : Nat) (bytes : List Byte)
  /-- a shoot-down: the address and the shoot word (R386) -/
  | shoot (addr w : Word)
  deriving DecidableEq, Repr, Inhabited

/-- A transfer from another package: the package and the node that send it, the tenant's tag (R374), its class. -/
structure Transfer where
  pkg : Nat
  node : Nat
  ttag : Nat
  cls : Cls
  what : FarWhat
  deriving DecidableEq, Repr, Inhabited

/-- A management command entry of 64 bytes, as eight 64-bit words (R434). -/
structure CmdEntry where
  w : List Word
  deriving DecidableEq, Repr, Inhabited

/-- The host-visible register blocks (R434, R438, R442, R448). -/
inductive RegBlock where
  /-- a register of the physical function -/
  | pf
  /-- a register of virtual function n -/
  | vf (n : Nat)
  /-- a register of the I3C management bus -/
  | i3c
  deriving DecidableEq, Repr, Inhabited

/-- The flit kinds of R440. -/
inductive FlitKind where
  | idle | data | ack | nak | mgmt
  deriving DecidableEq, Repr, Inhabited

/-- A Kalfa flit (R380, R440). -/
structure Flit where
  kind : FlitKind
  /-- 12-bit retry sequence of the header -/
  seq : Nat
  /-- payload bytes -/
  payload : List Byte
  /-- credits of the header (R380) -/
  credits : Nat := 0
  /-- the GCM tag (R380) -/
  tag : BitVec 128 := 0
  /-- the transfer that a data flit's payload carries, where it ends one: the spec gives no layout of it (log 15) -/
  carries : Option Transfer := none
  /-- the group-table entry that a management flit brings to a switch, or acknowledges (R435; log 119) -/
  group : Option (Nat × List Byte) := none
  deriving DecidableEq, Repr, Inhabited

/-- The loops of the package that can lose lock without resetting a die (spec/31_physical.md, Clocks). -/
inductive IfLoop where
  | cxl
  | kalfa (port : Nat)
  | lpddr (controller : Nat)
  deriving DecidableEq, Repr, Inhabited

/-- What the private debug instruction reads (R449). -/
inductive DebugSel where
  | reg (o : Opnd)
  | cr (n : Nat)
  | tcm (offset : Nat)
  deriving DecidableEq, Repr, Inhabited

/-- Where a stored bit flips (R398, R401). -/
inductive ErrPlace where
  /-- one bit of an aligned 8-byte part of memory, named by its storage key -/
  | mem (part : Nat)
  /-- one bit of a 64-bit word of an accumulator column of a core -/
  | acc (core column word : Nat)
  /-- an uncorrectable error of a core's register state (R401) -/
  | coreState (core : Nat)
  /-- a 64-bit word of an instruction-cache line -/
  | icache (core : Nat) (line : Word) (word : Nat)
  /-- a 64-bit word of a message or of a LINK word in the network, or of a LINK queue (R398) -/
  | packet (id : Nat) (word : Nat)
  | linkQueue (core ep : Nat) (word : Nat)
  deriving DecidableEq, Repr, Inhabited

/-- One step of the part: a Ngaric instruction or an event, one constructor per row of
spec/opcode_table.json. -/
inductive Instr where
  /-- ADD (R80). Adds two integers of TY, wrapping or saturating. -/
  | add (o : OpA)
  /-- SUB (R80). Subtracts the second integer operand from the first. -/
  | sub (o : OpA)
  /-- ADDI (R80). Adds two operands and a sign-extended immediate. -/
  | addi (o : OpA)
  /-- MUL (R80). Multiplies two integers of TY. -/
  | mul (o : OpA)
  /-- MULH (R80). Returns the high half of a signed product. -/
  | mulh (o : OpA)
  /-- MULHN (R80). Returns the high half of an unsigned product. -/
  | mulhn (o : OpA)
  /-- DIV (R81). Signed division truncating toward zero, never trapping. -/
  | div (o : OpA)
  /-- DIVN (R81). Unsigned division, never trapping. -/
  | divn (o : OpA)
  /-- REM (R81). Signed remainder with the sign of the dividend. -/
  | rem (o : OpA)
  /-- REMN (R81). Unsigned remainder. -/
  | remn (o : OpA)
  /-- AND (R82). Bitwise AND of two w-bit patterns. -/
  | and (o : OpA)
  /-- OR (R82). Bitwise OR of two w-bit patterns. -/
  | or (o : OpA)
  /-- XOR (R82). Bitwise XOR of two w-bit patterns. -/
  | xor (o : OpA)
  /-- ANDN (R82). AND with the complement of the second operand. -/
  | andn (o : OpA)
  /-- ORN (R82). OR with the complement of the second operand. -/
  | orn (o : OpA)
  /-- SHL (R82). Shifts left, optionally saturating. -/
  | shl (o : OpA)
  /-- SHR (R82). Shifts right filling with zeros. -/
  | shr (o : OpA)
  /-- SHRA (R82). Shifts right arithmetically. -/
  | shra (o : OpA)
  /-- ROTL (R82). Rotates left by n mod w. -/
  | rotl (o : OpA)
  /-- ROTR (R82). Rotates right by n mod w. -/
  | rotr (o : OpA)
  /-- CLZ (R82). Counts leading zeros. -/
  | clz (o : OpA)
  /-- CTZ (R82). Counts trailing zeros. -/
  | ctz (o : OpA)
  /-- POPC (R82). Counts one bits. -/
  | popc (o : OpA)
  /-- MIN (R83). Signed minimum. -/
  | min (o : OpA)
  /-- MAX (R83). Signed maximum. -/
  | max (o : OpA)
  /-- MINN (R83). Unsigned minimum. -/
  | minn (o : OpA)
  /-- MAXN (R83). Unsigned maximum. -/
  | maxn (o : OpA)
  /-- SEL (R83). Selects one of two operands by bit 0 of a predicate. -/
  | sel (o : OpA)
  /-- MOV (R86). Copies a g, q, tl register or popped port word. -/
  | mov (o : OpA)
  /-- MOVI (R87). Places an extended immediate in a g or q register. -/
  | movi (o : OpA)
  /-- MOVHI (R87). Places an immediate in the high 32 bits over a low half. -/
  | movhi (o : OpA)
  /-- LEA (R80). Computes base plus scaled index plus offset at 64 bits. -/
  | lea (o : OpA)
  /-- CMP (R88). Compares two values and writes all ones or zeros to a q register. -/
  | cmp (o : OpA)
  /-- QAND (R89). ANDs two predicate registers. -/
  | qand (o : OpA)
  /-- QOR (R89). ORs two predicate registers. -/
  | qor (o : OpA)
  /-- QXOR (R89). XORs two predicate registers. -/
  | qxor (o : OpA)
  /-- QNOT (R89). Complements a predicate register. -/
  | qnot (o : OpA)
  /-- BFX (R84). Extracts a bit field with sign or zero extension. -/
  | bfx (o : OpA)
  /-- BFI (R84). Inserts a bit field into a register value. -/
  | bfi (o : OpA)
  /-- EXTS (R85). Sign-extends a narrow value to 64 bits. -/
  | exts (o : OpA)
  /-- EXTZ (R85). Zero-extends a narrow value to 64 bits. -/
  | extz (o : OpA)
  /-- CRD (R90). Reads a control register into a g register. -/
  | crd (o : OpA)
  /-- CWR (R91). Writes a control register, checking number, level and value. -/
  | cwr (o : OpA)
  /-- BR (R104). Branches unconditionally to a checked target. -/
  | br (o : OpA)
  /-- BRC (R104). Branches when an integer condition holds. -/
  | brc (o : OpA)
  /-- JMP (R104). Jumps to the address in a register. -/
  | jmp (o : OpA)
  /-- CALL_DIRECT (R104). Format-B call that writes the link and branches to a displacement. -/
  | callDirect (o : OpA)
  /-- CALL_INDIRECT (R104). Format-A call that writes the link and branches to a register address. -/
  | callIndirect (o : OpA)
  /-- RET (R105). Returns to a register address, using the return stack for timing. -/
  | ret (o : OpA)
  /-- LOOP (R104). Decrements a counter and branches while it is not zero. -/
  | loop (o : OpA)
  /-- NOP (R106). Has no effect. -/
  | nop (o : OpA)
  /-- EXIT (R330). Ends the core's thread, draining entries and closing endpoints as failures. -/
  | exit (o : OpA)
  /-- SYSCALL (R107). Enters P1 with the system-call class. -/
  | syscall (o : OpA)
  /-- STAIR (R113). Checks and claims a span of the row to form a stair, waiting for attachments. -/
  | stair (o : OpA)
  /-- FOLLOW (R114). Gates off fetch and waits to be claimed as a stair follower. -/
  | follow (o : OpA)
  /-- LEAVE (R121). Leaves the stair, or dissolves it when the head executes it. -/
  | leave (o : OpA)
  /-- LAND (R119). Arrives at a landing of the stair. -/
  | land (o : OpA)
  /-- IFENCE (R109). Discards the instruction cache and refetches. -/
  | ifence (o : OpA)
  /-- LAUNCH (R325). Checks a launch record and posts it to the partition queue. -/
  | launch (o : OpA)
  /-- SPAWN (R339). Releases and pushes a task record to the segment or ring. -/
  | spawn (o : OpA)
  /-- TAKE (R340). Waits for and pops a task or notice record, branching to a task. -/
  | take (o : OpA)
  /-- JOIN (R341). Releases and decrements a join counter indivisibly. -/
  | join (o : OpA)
  /-- DONE (R342). Ends a task with a release, closes endpoints and continues at a target. -/
  | done (o : OpA)
  /-- SSTEP (R344). Arrives at and waits for the domain's next superstep. -/
  | sstep (o : OpA)
  /-- YIELD (R351). Accepts a pending pre-emption request at its boundary. -/
  | yield (o : OpA)
  /-- WDOG (R350). Reads and arms or disarms the watchdog. -/
  | wdog (o : OpA)
  /-- LD (R94). Loads one element from a local window. -/
  | ld (o : OpA)
  /-- ST (R94). Stores one element to a local window. -/
  | st (o : OpA)
  /-- LDP (R95). Loads two elements into an even register pair. -/
  | ldp (o : OpA)
  /-- STP (R95). Stores two elements with one check. -/
  | stp (o : OpA)
  /-- VLD (R96). Loads the active elements of a v register. -/
  | vld (o : OpA)
  /-- VST (R96). Stores the active elements of a v register. -/
  | vst (o : OpA)
  /-- LATOM (R99). Performs an indivisible read-modify-write on a local word. -/
  | latom (o : OpA)
  /-- PARK (R100). Moves a register to a free column, bank entry or stack slot. -/
  | park (o : OpA)
  /-- UNPARK (R101). Restores a parked register and frees its place. -/
  | unpark (o : OpA)
  /-- CONNECT (R160). Sends a connection request and waits to bind an endpoint. -/
  | connect (o : OpC)
  /-- ACCEPT (R160). Takes a held connection request and binds on confirmation. -/
  | accept (o : OpC)
  /-- SEND (R162). Sends one word message on an endpoint. -/
  | send (o : OpC)
  /-- SENDV (R162). Sends one vector message. -/
  | sendv (o : OpC)
  /-- SENDT (R163). Reads and sends one tile message. -/
  | sendt (o : OpC)
  /-- RECV (R164). Receives one word delivery or the close word. -/
  | recv (o : OpC)
  /-- RECVV (R164). Receives one vector delivery. -/
  | recvv (o : OpC)
  /-- RECVT (R164). Receives one tile delivery into local memory. -/
  | recvt (o : OpC)
  /-- OFFER (R164). Receives a label and returns its type number. -/
  | offer (o : OpC)
  /-- SELECT (R162). Sends a label message. -/
  | select (o : OpC)
  /-- PROBE (R165). Reports an endpoint's readiness without acting. -/
  | probe (o : OpC)
  /-- DELEG (R166). Sends an open endpoint over a carrier and starts its handover. -/
  | deleg (o : OpC)
  /-- ADOPT (R168). Receives a delegated endpoint and binds it. -/
  | adopt (o : OpC)
  /-- CLOSE (R169). Takes an end transition and sends the orderly close notice. -/
  | close (o : OpC)
  /-- ABORT (R170). Closes a channel abruptly at its current state. -/
  | abort (o : OpC)
  /-- EPSTAT (R171). Reads one word of an endpoint descriptor. -/
  | epstat (o : OpC)
  /-- PLOAD (R172). Checks and installs a protocol in a slot. -/
  | pload (o : OpC)
  /-- GET (R197). Engine command copying remote bytes to local memory. -/
  | get (o : OpM)
  /-- PUT (R197). Engine command copying local bytes to remote memory. -/
  | put (o : OpM)
  /-- RST (R184). Posts a remote store, optionally as a release. -/
  | rst (o : OpM)
  /-- RSTV (R184). Posts a masked vector remote store. -/
  | rstv (o : OpM)
  /-- COPY (R199). Engine command moving elements between two walks. -/
  | copy (o : OpM)
  /-- GATHER (R200). Engine command gathering indexed remote elements. -/
  | gather (o : OpM)
  /-- SCATTER (R200). Engine command scattering local elements to indexed remote places. -/
  | scatter (o : OpM)
  /-- MCAST (R201). Engine command writing bytes to every member of a multicast group. -/
  | mcast (o : OpM)
  /-- RFLUSH (R185). Drains the core's combining-buffer entries for a line or all. -/
  | rflush (o : OpM)
  /-- BINIT (R194). Initialises a barrier object whole. -/
  | binit (o : OpM)
  /-- ARRIVE (R202). Counts arrivals on a local or remote barrier object. -/
  | arrive (o : OpM)
  /-- BWAIT (R203). Waits for a barrier phase to complete. -/
  | bwait (o : OpM)
  /-- BTEST (R203). Tests a barrier phase without waiting. -/
  | btest (o : OpM)
  /-- TLWAIT (R204). Waits until a timeline reaches a value. -/
  | tlwait (o : OpM)
  /-- TLREAD (R205). Reads timeline state or pops a fault-queue record. -/
  | tlread (o : OpM)
  /-- FENCE (R213). Drains and waits for ordinary accesses in its classes and scope. -/
  | fence (o : OpM)
  /-- FENCEX (R213). Fences as FENCE and waits for every earlier engine command. -/
  | fencex (o : OpM)
  /-- RATOM (R228). Engine atomic on a remote word returning the old value. -/
  | ratom (o : OpM)
  /-- RATOMP (R230). Posted remote atomic in the ordinary stream. -/
  | ratomp (o : OpM)
  /-- WAITA (R233). Waits on the cluster monitor until a scratchpad word changes. -/
  | waita (o : OpM)
  /-- VADD (R256). Lane-wise addition. -/
  | vadd (o : OpA)
  /-- VSUB (R256). Lane-wise subtraction. -/
  | vsub (o : OpA)
  /-- VMUL (R256). Lane-wise multiplication. -/
  | vmul (o : OpA)
  /-- VFMA (R256). Lane-wise fused multiply-add. -/
  | vfma (o : OpA)
  /-- VFMS (R256). Lane-wise fused multiply-subtract. -/
  | vfms (o : OpA)
  /-- VFNMA (R256). Lane-wise negated fused multiply-add. -/
  | vfnma (o : OpA)
  /-- VMIN (R257). Lane-wise minimum. -/
  | vmin (o : OpA)
  /-- VMAX (R257). Lane-wise maximum. -/
  | vmax (o : OpA)
  /-- VABS (R256). Lane-wise absolute value. -/
  | vabs (o : OpA)
  /-- VNEG (R256). Lane-wise negation. -/
  | vneg (o : OpA)
  /-- VDIV (R258). Lane-wise correctly rounded division. -/
  | vdiv (o : OpA)
  /-- VSQRT (R258). Lane-wise square root. -/
  | vsqrt (o : OpA)
  /-- VRCP (R258). Lane-wise reciprocal. -/
  | vrcp (o : OpA)
  /-- VRSQ (R258). Lane-wise reciprocal square root. -/
  | vrsq (o : OpA)
  /-- VEXP2 (R258). Lane-wise power of two. -/
  | vexp2 (o : OpA)
  /-- VLOG2 (R258). Lane-wise base-2 logarithm. -/
  | vlog2 (o : OpA)
  /-- VAND (R259). Lane-wise AND. -/
  | vand (o : OpA)
  /-- VOR (R259). Lane-wise OR. -/
  | vor (o : OpA)
  /-- VXOR (R259). Lane-wise XOR. -/
  | vxor (o : OpA)
  /-- VSHL (R259). Lane-wise left shift. -/
  | vshl (o : OpA)
  /-- VSHR (R259). Lane-wise logical right shift. -/
  | vshr (o : OpA)
  /-- VSHRA (R259). Lane-wise arithmetic right shift. -/
  | vshra (o : OpA)
  /-- VCMP (R260). Lane-wise comparison into predicate bits. -/
  | vcmp (o : OpA)
  /-- VSEL (R261). Lane-wise selection by a mask. -/
  | vsel (o : OpA)
  /-- VPERM (R261). Permutes elements by index bytes. -/
  | vperm (o : OpA)
  /-- VBCAST (R262). Broadcasts a scalar or element to active lanes. -/
  | vbcast (o : OpA)
  /-- VEXT (R262). Extracts one element to a g register. -/
  | vext (o : OpA)
  /-- VINS (R262). Inserts a scalar into one element. -/
  | vins (o : OpA)
  /-- VRED (R263). Reduces active lanes in a fixed pairwise tree. -/
  | vred (o : OpA)
  /-- VDOT (R264). Dot products of narrow groups with one rounding. -/
  | vdot (o : OpA)
  /-- VCVT (R265). Converts elements between types. -/
  | vcvt (o : OpA)
  /-- VQUANT (R267). Quantises a block of 32 values to an MX or DX block. -/
  | vquant (o : OpA)
  /-- VDEQ (R268). Decodes a block with its scale. -/
  | vdeq (o : OpA)
  /-- VPACK (R266). Narrows integers from two registers. -/
  | vpack (o : OpA)
  /-- VUNPK (R266). Widens integers from one part of a register. -/
  | vunpk (o : OpA)
  /-- VMOV (R262). Copies active elements. -/
  | vmov (o : OpA)
  /-- VMOVI (R262). Writes an immediate to active elements. -/
  | vmovi (o : OpA)
  /-- CEVRD (R269). Copies and optionally clears event counters into lanes. -/
  | cevrd (o : OpA)
  /-- MLOADW (R293). Matrix command latching a weight block. -/
  | mloadw (o : OpM)
  /-- MSTREAM (R294). Matrix command streaming activation rows into accumulator columns. -/
  | mstream (o : OpM)
  /-- MFMT (R295). Matrix command converting columns between i32 and fp32. -/
  | mfmt (o : OpM)
  /-- MCLR (R296). Matrix command freeing accumulator columns. -/
  | mclr (o : OpM)
  /-- MDRAIN (R297). Matrix command converting columns out to local memory. -/
  | mdrain (o : OpM)
  /-- AMOV_READ (R299). Moves an accumulator column into a v register. -/
  | amovRead (o : OpM)
  /-- AMOV_WRITE (R299). Writes a v register into an accumulator column as ACC. -/
  | amovWrite (o : OpM)
  /-- MSTAT (R298). Matrix command writing a snapshot of the unit. -/
  | mstat (o : OpM)
  /-- MCMD (R301). Sends a command vector over MATCMD and waits for its status. -/
  | mcmd (o : OpM)
  /-- MCAP (R302). Mints a matrix capability under the partition key. -/
  | mcap (o : OpM)
  /-- RED (R308). Contributes a vector to a network reduction. -/
  | red (o : OpM)
  /-- REDW (R310). Waits for and takes a reduction result. -/
  | redw (o : OpM)
  /-- CSUM (R312). Sums event counters over a domain and waits for the result. -/
  | csum (o : OpM)
  /-- VOTE (R345). Combines a vote across a domain. -/
  | vote (o : OpM)
  /-- GUARD (R384). Replaces a guard region, narrowing only at P0. -/
  | guard (o : OpA)
  /-- BUDGET (R385). Reads a budget counter and optionally sends a new CAP. -/
  | budget (o : OpA)
  /-- TRET (R396). Returns from a trap to kepc at the saved level. -/
  | tret (o : OpA)
  /-- BRK (R396). Raises the debug trap or halts on break. -/
  | brk (o : OpA)
  /-- CSAVE (R414). Fences and writes selected parts of the core record. -/
  | csave (o : OpA)
  /-- CSAVE_RECT (R414). Sends pre-emption requests to the cores of a rectangle. -/
  | csaveRect (o : OpA)
  /-- CREST (R415). Restores selected parts of a core record. -/
  | crest (o : OpA)
  /-- CREST_RECT (R415). Resumes every pre-empted core in a rectangle from its save area. -/
  | crestRect (o : OpA)
  /-- SHOOT (R386). Issues a stage-1 shoot-down and waits for completion. -/
  | shoot (o : OpA)
  /-- STAIR_FORMATION (R113). The last claimed core attaches and the stair forms. -/
  | stairFormation (head : Nat)
  /-- LANDING (R119). The last member arrives and the landing completes, reattaching members. -/
  | landing (head : Nat)
  /-- LINE_FILL (R108). An instruction-cache line fill completes or is marked failed. -/
  | lineFill (core : Nat) (line : Word)
  /-- ENTRY_DRAIN (R133). A combining-buffer entry that has stood 32 cycles drains as one write. -/
  | entryDrain (cluster : Nat) (entry : Nat)
  /-- REMOTE_ACCESS_ARRIVAL (R361). A serving interface translates and performs an arriving access. -/
  | remoteAccessArrival (access : AccessRef)
  /-- PAGE_REQUEST_POST (R438). A waiting page request enters its ring once space appears. -/
  | pageRequestPost (iface : Nat)
  /-- PAGE_REPLY (R367). A reply is taken and its held items fail or are walked again. -/
  | pageReply (pnum : Nat) (stage : Nat)
  /-- ACKNOWLEDGEMENT (R181). An access's acknowledgement returns to its source, releasing holds. -/
  | acknowledgement (access : Nat) (outside : Reply)
  /-- ENGINE_ITEM_END (R189). An engine or matrix item completes or fails. -/
  | engineItemEnd (item : ItemRef) (outside : Reply)
  /-- COMBINED_ACKNOWLEDGEMENT (R201). The aggregated multicast acknowledgement arrives at the issuer. -/
  | combinedAcknowledgement (item : ItemRef) (outside : List (Nat × Nat))
  /-- MESSAGE_ARRIVAL (R145). A channel message reaches the receiver and is placed in its slot. -/
  | messageArrival (packet : Nat)
  /-- CREDIT_RETURN (R142). A delivery's credit returns to the sender. -/
  | creditReturn (packet : Nat)
  /-- CLOSE_NOTICE (R153). A close notice reaches an endpoint, which enters CLOSED-AT. -/
  | closeNotice (packet : Nat)
  /-- HOLD_NOTICE (R174). A hold notice marks the peer held and stops dependent counts. -/
  | holdNotice (packet : Nat)
  /-- RELEASE_NOTICE (R174). A release notice resumes the stopped counts. -/
  | releaseNotice (packet : Nat)
  /-- CONNECTION_REQUEST (R160). A connection request arrives and is held at the named endpoint. -/
  | connectionRequest (packet : Nat)
  /-- ACCEPTOR_ANSWER (R160). The acceptor's answer reaches the connector, which binds or withdraws. -/
  | acceptorAnswer (packet : Nat)
  /-- CONFIRMATION (R160). The connector's confirmation reaches the acceptor, which binds. -/
  | confirmation (packet : Nat)
  /-- WITHDRAWAL (R160). A withdrawal reaches the acceptor, which frees its reservation. -/
  | withdrawal (packet : Nat)
  /-- MEMORY_PEER_REQUEST (R148). A memory peer checks a request and sends or writes its items. -/
  | memoryPeerRequest (chan : Nat)
  /-- ADOPTED_NOTICE (R149). The new holder tells the old holder it has adopted the endpoint. -/
  | adoptedNotice (packet : Nat)
  /-- REDIRECT (R149). The peer receives a redirect and sends later messages to the new holder. -/
  | redirect (packet : Nat)
  /-- REDIRECT_ANSWER (R149). The old holder learns the last number sent to it. -/
  | redirectAnswer (packet : Nat)
  /-- REMOTE_ARRIVAL (R202). A remote arrival reaches its target core and updates the object. -/
  | remoteArrival (packet : Nat)
  /-- CONTRIBUTION (R309). A contribution or partial reaches a tree node. -/
  | contribution (packet : Nat)
  /-- NODE_TIMER_EXPIRY (R309). A tree node's timer expires and it passes an incomplete value up. -/
  | nodeTimerExpiry (node : Nat)
  /-- RESULT_ARRIVAL (R310). A reduction result reaches a member core and is held. -/
  | resultArrival (packet : Nat)
  /-- SUPERSTEP_COMPLETE (R344). Every member has arrived and the superstep completes. -/
  | superstepComplete (tree : Nat)
  /-- VOTE_COMPLETE (R345). Every vote is combined and the result returns. -/
  | voteComplete (tree : Nat)
  /-- WAITA_WAKE (R233). A served write changes a monitored word and wakes its waiters. -/
  | waitaWake (core : Nat)
  /-- CAP_WORD (R288). A matrix unit checks a capability word over MATCMD. -/
  | capWord (chan : Nat)
  /-- COMMAND_VECTOR (R300). A matrix unit checks and accepts or refuses a carried command. -/
  | commandVector (chan : Nat)
  /-- MATRIX_QUEUE_RUN (R275). The matrix unit starts the next accepted command of its queue. -/
  | matrixQueueRun (core : Nat)
  /-- SCHEDULER_TURN (R327). The partition scheduler serves pending launches in a turn. -/
  | schedulerTurn (pnum : Nat)
  /-- KERNEL_ENTRY (R322). A placed and loaded core enters its kernel with its initial state. -/
  | kernelEntry (core : Nat)
  /-- GROUP_FREED (R331). A draining group's work ends and its cores are freed. -/
  | groupFreed (pnum : Nat) (group : Nat)
  /-- QUIESCENCE_SWEEP (R332). The tree sweeps a launch's counts and idle flags. -/
  | quiescenceSweep (pnum : Nat) (launch : Nat)
  /-- WAIT_EXPIRY (R348). A wait's limit runs out and the wait-expiry trap is raised. -/
  | waitExpiry (core : Nat)
  /-- WATCHDOG_EXPIRY (R349). kwdog reaches zero and the watchdog trap is raised. -/
  | watchdogExpiry (core : Nat)
  /-- MESH_INTERRUPT (R403). A pre-emption request reaches a core and becomes pending. -/
  | meshInterrupt (core : Nat)
  /-- PRE_EMPTION (R404). A core accepts a request, drains and saves its record. -/
  | preEmption (core : Nat)
  /-- BUDGET_PERIOD (R376). A new budget period starts and stalled units are served. -/
  | budgetPeriod
  /-- SHOOT_DOWN (R370). A shoot-down message reaches a translation cache. -/
  | shootDown (shoot : Nat) (cache : Nat)
  /-- SHOOT_DOWN_COMPLETE (R370). All acknowledgements arrive and the shoot-down completes. -/
  | shootDownComplete (shoot : Nat)
  /-- SCRUB (R398). The scrubber reads, corrects or poisons a stored word. -/
  | scrub (part : Nat)
  /-- REFRESH (R443). A far-memory controller issues refresh to its LPDDR6. -/
  | refresh (controller : Nat)
  /-- CREATE (R435). Management command creating a partition record. -/
  | create (entry : CmdEntry)
  /-- DESTROY (R435). Management command releasing a partition without groups. -/
  | destroy (entry : CmdEntry)
  /-- SETROOT (R435). Management command writing a translation root with a shoot-down. -/
  | setroot (entry : CmdEntry)
  /-- SHOOT2 (R435). Management command issuing a stage-2 shoot-down. -/
  | shoot2 (entry : CmdEntry)
  /-- SETLIMIT (R435). Management command writing a budget LIMIT. -/
  | setlimit (entry : CmdEntry)
  /-- PEERMAP (R435). Management command writing the partition's PEERMAP. -/
  | peermap (entry : CmdEntry)
  /-- GROUPTAB (R435). Management command writing a multicast group entry everywhere. -/
  | grouptab (entry : CmdEntry)
  /-- LOADIMG (R435). Management command checking and loading a JIF image. -/
  | loadimg (entry : CmdEntry)
  /-- START (R435). Management command posting a root kernel launch. -/
  | start (entry : CmdEntry)
  /-- HALT (R417). Management command holding and pre-empting a whole partition. -/
  | halt (entry : CmdEntry)
  /-- SAVE (R417). Management command writing a halted partition's context image. -/
  | save (entry : CmdEntry)
  /-- RESTORE (R418). Management command loading a context image into a halted partition. -/
  | restore (entry : CmdEntry)
  /-- RESUME (R417). Management command releasing the hold and resuming every core. -/
  | resume (entry : CmdEntry)
  /-- RDCOUNT (R435). Management command returning a correctable-error count. -/
  | rdcount (entry : CmdEntry)
  /-- SETPEER (R435). Management command setting the package peer number. -/
  | setpeer (entry : CmdEntry)
  /-- EVENT_POST (R437). A held event is posted to the event ring once space appears. -/
  | eventPost
  /-- REGISTER_WRITE (R434). A host write to a PF, VF or I3C register with no row of its own. -/
  | registerWrite (block : RegBlock) (offset : Nat) (value : Word)
  /-- TRIP_READ (R448). Reading TRIP returns and clears the die-reset bits. -/
  | tripRead
  /-- HOST_MEM_READ (R432). A host CXL.mem read is served at the owning interface. -/
  | hostMemRead (dpa : Nat) (len : Nat)
  /-- HOST_MEM_WRITE (R432). A host CXL.mem write is performed at the owning interface. -/
  | hostMemWrite (dpa : Nat) (bytes : List Byte)
  /-- HOST_SNOOP (R433). A host snoop makes the host interface write back a cached line. -/
  | hostSnoop (line : Nat)
  /-- GET_VERSION (R439). SPDM request for the supported version. -/
  | getVersion (fn : Nat)
  /-- GET_CAPABILITIES (R439). SPDM request for capabilities. -/
  | getCapabilities (fn : Nat)
  /-- NEGOTIATE_ALGORITHMS (R439). SPDM algorithm negotiation. -/
  | negotiateAlgorithms (fn : Nat) (asym hash : List Nat)
  /-- GET_DIGESTS (R439). SPDM request for certificate digests. -/
  | getDigests (fn : Nat)
  /-- GET_CERTIFICATE (R439). SPDM request for the certificate chain. -/
  | getCertificate (fn : Nat) (offset len : Nat)
  /-- CHALLENGE (R439). SPDM challenge signed with the identity key. -/
  | challenge (fn : Nat) (nonce : BitVec 256)
  /-- GET_MEASUREMENTS (R439). SPDM request for signed measurements allowed to the function. -/
  | getMeasurements (fn : Nat) (index : Nat) (nonce : BitVec 256)
  /-- FLIT_RECEIVE (R440). A Kalfa flit is received, checked and delivered or negatively acknowledged. -/
  | flitReceive (port : Nat) (flit : Flit) (intact : Bool)
  /-- NEGATIVE_ACKNOWLEDGEMENT (R440). A negative acknowledgement makes the transmitter replay. -/
  | negativeAcknowledgement (port : Nat) (seq : Nat)
  /-- RETRAIN (R441). A port at its retry limit retrains and installs new keys. -/
  | retrain (port : Nat) (trained : Bool)
  /-- PWRGD_RISE (R447). PWRGD rises and the cold bring-up sequence runs. -/
  | pwrgdRise (firmware : Option (List Byte)) (selfCheck : Bool)
  /-- PERST_ASSERT (R447). PERST# asserted with power good reruns clearing and ends every partition. -/
  | perstAssert
  /-- PERST_DEASSERT (R447). PERST# deasserted lets the CXL link train and the part become READY. -/
  | perstDeassert
  /-- POWER_WINDOW_END (R445). A power window ends and the limiter decides throttling. -/
  | powerWindowEnd (watts : Nat)
  /-- THERMAL_THROTTLE (R446). A die reaches 100 C or cools below 95 C, changing its effective PLIM. -/
  | thermalThrottle (die : Nat) (eighths : Nat)
  /-- DIE_RESET (R446). A die reaching 115 C, or losing core clock lock, is reset. -/
  | dieReset (die : Nat)
  /-- DIE_RECOVER (R446). A reset die cools and passes its checks and accepts groups again. -/
  | dieRecover (die : Nat) (eighths : Nat) (selfCheck : Bool)
  /-- INTERFACE_LOCK_LOSS (R446). An interface loop loses lock and that interface retrains. -/
  | interfaceLockLoss (loop : IfLoop)
  /-- IDCODE (R449). JTAG instruction returning the device identifier. -/
  | idcode
  /-- BYPASS (R449). JTAG bypass instruction. -/
  | bypass (bit : Bool)
  /-- SAMPLE_PRELOAD (R449). JTAG sample and preload of the boundary cells. -/
  | samplePreload (pins : List Bool) (preload : List Bool)
  /-- EXTEST (R449). JTAG external test over the boundary cells. -/
  | extest (pins : List Bool)
  /-- DEBUG_HALT (R449). The private debug instruction halts a core of a debug-enabled partition. -/
  | debugHalt (core : Nat)
  /-- DEBUG_STEP (R449). The private debug instruction single-steps a halted core. -/
  | debugStep (core : Nat)
  /-- HALT_ON_BREAK (R449). The private debug instruction arms halting on BRK. -/
  | haltOnBreak (core : Nat)
  /-- DEBUG_READ (R449). The private debug instruction reads registers or TCM of a core. -/
  | debugRead (core : Nat) (what : DebugSel)
  /-- SOFT_ERROR (R398). A stored bit of SRAM, DRAM, a queue or a register flips of itself, to be corrected or poisoned when next read or scrubbed. -/
  | softError (place : ErrPlace)
  /-- HALT_END (R394). A debug halt of a core, or the halt after a monitor event, ends when the host resumes the core, sending release notices. -/
  | haltEnd (core : Nat)
  /-- SUPERVISOR_ENDS_GROUP (R152). The partition supervisor ends a group, failing its cores' endpoints and freeing the group. -/
  | supervisorEndsGroup (pnum : Nat) (group : Nat)
  /-- HALL_RESET (R402). A hall is reset, closing its channels with RESET and failing items that target it. -/
  | hallReset (hall : Nat)
  /-- INTERFACE_POWER_DOWN (R370). A translating interface is powered down and is then skipped by shoot-downs. -/
  | interfacePowerDown (node : Nat)
  /-- INTERFACE_WAKE (R370). A powered-down interface wakes and empties its whole translation cache. -/
  | interfaceWake (node : Nat)
  /-- PWRGD_DEASSERT (R447). PWRGD falls, the supply is lost and the part returns to STATE RESET until PWRGD rises again. -/
  | pwrgdDeassert
  deriving DecidableEq, Repr

end Sys2Proof
end

