-- ==== Sys2Proof/Machine/Forms.lean ====
section
/-! DEFINITION. The encoding tables of the spec: specifier, type and mode codes (R54 to R56), the
fields of the formats (R48 to R52), the forms every instruction accepts (R57 to R59 and the form
tables of the instruction chapters), and the conditions of R60 with their DETAIL codes. -/
namespace Sys2Proof.Machine

/-- Every TY in the order of its code (R55). -/
def tyList : List Ty :=
  [.i8, .i16, .i32, .i64, .n8, .n16, .n32, .n64, .fp64, .fp32, .fp16, .bf16,
   .e4m3, .e5m2, .e2m3, .e3m2, .e2m1, .dx8, .dx4, .mxint8, .e8m0, .i4, .n4]

/-- The code of a TY (R55). -/
def tyCode : Ty → Nat
  | .i8 => 0 | .i16 => 1 | .i32 => 2 | .i64 => 3 | .n8 => 4 | .n16 => 5 | .n32 => 6 | .n64 => 7
  | .fp64 => 8 | .fp32 => 9 | .fp16 => 10 | .bf16 => 11 | .e4m3 => 12 | .e5m2 => 13 | .e2m3 => 14
  | .e3m2 => 15 | .e2m1 => 16 | .dx8 => 17 | .dx4 => 18 | .mxint8 => 19 | .e8m0 => 20 | .i4 => 21
  | .n4 => 22

/-- The TY of a code; 23 to 31 are reserved (R55). -/
def tyOfCode (n : Nat) : Option Ty := tyList[n]?

/-- The code of a rounding mode (R56). -/
def rmCode : Rm → Nat
  | .rne => 0 | .rtz => 1 | .rup => 2 | .rdn => 3 | .rna => 4 | .dyn => 5

/-- The rounding mode of a code; 6 and 7 are reserved (R56). -/
def rmOfCode : Nat → Option Rm
  | 0 => some .rne | 1 => some .rtz | 2 => some .rup | 3 => some .rdn | 4 => some .rna
  | 5 => some .dyn | _ => none

/-- The code of a routing class (R51). -/
def clsCode : Cls → Nat
  | .o => 0 | .a => 1 | .v => 2

/-- The class of a code; 3 is illegal (R51). -/
def clsOfCode : Nat → Option Cls
  | 0 => some .o | 1 => some .a | 2 => some .v | _ => none

/-- The code of an order (R51). -/
def ordCode : Ord → Nat
  | .rlx => 0 | .acq => 1 | .rel => 2 | .drain => 3

/-- The order of a code; 4 to 7 are reserved (R51). -/
def ordOfCode : Nat → Option Ord
  | 0 => some .rlx | 1 => some .acq | 2 => some .rel | 3 => some .drain | _ => none

/-- The 8-bit specifier of an operand (R54). -/
def opndCode : Opnd → Nat
  | .g n => n.val
  | .v n => 0x40 + n.val
  | .q n => 0x80 + n.val
  | .e n => 0x90 + n.val
  | .port p f => 0xA0 + (if f then 8 else 0) + p.val
  | .tl n => 0xB0 + n.val
  | .none => 0xFF

/-- The operand of a specifier; the reserved ranges of R54 name nothing. -/
def opndOfCode (n : Nat) : Option Opnd :=
  if h : n < 0x40 then some (.g ⟨n, h⟩)
  else if n < 0x60 then some (.v (Fin.ofNat 32 (n - 0x40)))
  else if n < 0x80 then none
  else if n < 0x88 then some (.q (Fin.ofNat 8 (n - 0x80)))
  else if n < 0x90 then none
  else if n < 0xA0 then some (.e (Fin.ofNat 16 (n - 0x90)))
  else if n < 0xA4 then some (.port (Fin.ofNat 4 (n - 0xA0)) false)
  else if n < 0xA8 then none
  else if n < 0xAC then some (.port (Fin.ofNat 4 (n - 0xA8)) true)
  else if n < 0xB0 then none
  else if n < 0xB4 then some (.tl (Fin.ofNat 4 (n - 0xB0)))
  else if n = 0xFF then some .none
  else none

/-- Storage width of a type in bits (R236, R237, item 5 of R238). -/
def tyBits : Ty → Nat
  | .i8 | .n8 | .e4m3 | .e5m2 | .e2m3 | .e3m2 | .dx8 | .mxint8 | .e8m0 => 8
  | .i16 | .n16 | .fp16 | .bf16 => 16
  | .i32 | .n32 | .fp32 => 32
  | .i64 | .n64 | .fp64 => 64
  | .e2m1 | .dx4 | .i4 | .n4 => 4

/-- The formats of R48 to R52. Format B has format A's positions (R50). -/
inductive Fmt where
  | a | m | c
  deriving DecidableEq, Repr

/-- The raw fields of a 96-bit word, before any of them is judged. `sub` is the field of the word's format. -/
structure Raw where
  op : Nat
  pg : Nat
  pn : Nat
  sub : Nat
  ty : Nat
  sat : Nat
  rm : Nat
  cls : Nat
  ctx : Nat
  ord : Nat
  ep : Nat
  mt : Nat
  fw : Nat
  d : Nat
  s1 : Nat
  s2 : Nat
  s3 : Nat
  l1 : Nat
  l2 : Nat
  l3 : Nat
  imm : Nat
  deriving DecidableEq, Repr

/-- Bits lo+n−1:lo of a number. -/
def field (w lo n : Nat) : Nat := (w / 2 ^ lo) % 2 ^ n

/-- The format of an OP's family, OP 8:6 (R58). -/
def fmtOfOp (op : Nat) : Fmt :=
  match op / 64 with
  | 3 => .c
  | 4 | 6 => .m
  | _ => .a

/-- The fields of a word at the positions of R48 to R52. -/
def rawOf (w : Nat) : Raw :=
  let op := field w 87 9
  let b : Raw :=
    { op := op, pg := field w 84 3, pn := field w 83 1, sub := 0, ty := 0, sat := 0, rm := 0, cls := 0,
      ctx := 0, ord := 0, ep := 0, mt := 0, fw := 0,
      d := field w 59 8, s1 := field w 51 8, s2 := field w 43 8, s3 := field w 35 8,
      l1 := field w 34 1, l2 := field w 33 1, l3 := field w 32 1, imm := field w 0 32 }
  match fmtOfOp op with
  | .a => { b with sub := field w 76 7, ty := field w 71 5, sat := field w 70 1, rm := field w 67 3 }
  | .m => { b with sub := field w 79 4, cls := field w 77 2, ty := field w 72 5, ctx := field w 70 2,
                   ord := field w 67 3 }
  | .c => { b with sub := field w 79 4, ep := field w 75 4, mt := field w 70 5, cls := field w 68 2,
                   fw := field w 67 1 }

/-- The word of raw fields, each at its position of R48 to R52. -/
def wordOf (r : Raw) : Nat :=
  let tail := r.d * 2 ^ 59 + r.s1 * 2 ^ 51 + r.s2 * 2 ^ 43 + r.s3 * 2 ^ 35 + r.l1 * 2 ^ 34
    + r.l2 * 2 ^ 33 + r.l3 * 2 ^ 32 + r.imm
  let mid := match fmtOfOp r.op with
    | .a => r.sub * 2 ^ 76 + r.ty * 2 ^ 71 + r.sat * 2 ^ 70 + r.rm * 2 ^ 67
    | .m => r.sub * 2 ^ 79 + r.cls * 2 ^ 77 + r.ty * 2 ^ 72 + r.ctx * 2 ^ 70 + r.ord * 2 ^ 67
    | .c => r.sub * 2 ^ 79 + r.ep * 2 ^ 75 + r.mt * 2 ^ 70 + r.cls * 2 ^ 68 + r.fw * 2 ^ 67
  r.op * 2 ^ 87 + r.pg * 2 ^ 84 + r.pn * 2 ^ 83 + mid + tail

/-- What a specifier field accepts: an operand class, with or without the forward flag. -/
inductive Acc where
  | g | v | q | e
  /-- a lattice port that the field lets pop; the forward flag is allowed -/
  | pop
  /-- a lattice port named as an endpoint; no forward flag -/
  | port
  | tl
  /-- 0xFF -/
  | no
  deriving DecidableEq, Repr

/-- How an instruction uses a specifier field: what it accepts, and whether the field is written and
never read (its last-use bit must then be zero). An empty list is an unused field (R53). -/
structure Role where
  acc : List Acc := []
  written : Bool := false
  deriving DecidableEq, Repr

/-- How IMM32 is used. -/
inductive ImmUse where
  /-- unused: zero -/
  | zero
  /-- any value -/
  | any
  /-- operand B of R77 and R252: zero when S2 names a register -/
  | b
  deriving DecidableEq, Repr

/-- The form of one OP: what each field accepts. -/
structure Form where
  tys : List Nat := [0]
  subs : List Nat := [0]
  sat : Bool := false
  rms : List Nat := [0]
  clss : List Nat := [0]
  ords : List Nat := [0]
  ctxs : List Nat := [0]
  /-- format C: EP is used -/
  ep : Bool := true
  /-- format C: MT is used -/
  mt : Bool := false
  d : Role := {}
  s1 : Role := {}
  s2 : Role := {}
  s3 : Role := {}
  imm : ImmUse := .zero
  deriving DecidableEq, Repr

/-- The codes a, a+1, …, b. -/
def upTo (a b : Nat) : List Nat := (List.range (b + 1 - a)).map (· + a)

/-- A field that is read. -/
def rd (l : List Acc) : Role := { acc := l }

/-- A field that is written and not read. -/
def wr (l : List Acc) : Role := { acc := l, written := true }

/-- Shared shapes of family 0 (R78, R80 to R83): g or a popped port. -/
def gp : Role := rd [.g, .pop]

/-- Operand B of R77: g, a popped port, or 0xFF for an immediate. -/
def gpo : Role := rd [.g, .pop, .no]

/-- Operand B of R252: v, g, a popped port, or 0xFF for an immediate. -/
def vb : Role := rd [.v, .g, .pop, .no]

/-- The two-operand integer form of R80, R82 and R83. -/
def intForm (tys : List Nat) (sat : Bool) : Form :=
  { tys := tys, sat := sat, d := rd [.g], s1 := gp, s2 := gpo, imm := .b }

/-- Forms of family 0 (spec/05_scalar_local.md). -/
def form0 (op : Nat) : Option Form :=
  match op with
  | 0x001 | 0x002 | 0x004 => some (intForm (upTo 0 7) true)
  | 0x003 => some { intForm (upTo 0 7) true with imm := .any }
  | 0x005 => some (intForm (upTo 0 3) false)
  | 0x006 => some (intForm (upTo 4 7) false)
  | 0x007 => some (intForm (upTo 0 3) true)
  | 0x008 => some (intForm (upTo 4 7) false)
  | 0x009 => some (intForm (upTo 0 3) false)
  | 0x00A => some (intForm (upTo 4 7) false)
  | 0x00B | 0x00C | 0x00D | 0x00E | 0x00F => some (intForm (upTo 0 7) false)
  | 0x010 => some (intForm (upTo 0 7) true)
  | 0x011 | 0x012 | 0x013 | 0x014 => some (intForm (upTo 0 7) false)
  | 0x015 | 0x016 | 0x017 => some { tys := upTo 0 7, d := rd [.g], s1 := gp }
  | 0x018 | 0x019 => some (intForm (upTo 0 3) false)
  | 0x01A | 0x01B => some (intForm (upTo 4 7) false)
  | 0x01C => some { intForm (upTo 0 7) false with s3 := rd [.q] }
  | 0x01D => some { d := rd [.g, .q], s1 := rd [.g, .q, .tl, .pop] }
  | 0x01E => some { tys := upTo 0 7, d := rd [.g, .q], imm := .any }
  | 0x01F => some { d := rd [.g], s1 := gpo, imm := .any }
  | 0x020 => some { intForm (upTo 0 11) false with imm := .any }
  | 0x021 => some { intForm (upTo 0 11) false with subs := upTo 0 7, d := rd [.q] }
  | 0x022 | 0x023 | 0x024 => some { d := rd [.q], s1 := rd [.q], s2 := rd [.q] }
  | 0x025 => some { d := rd [.q], s1 := rd [.q] }
  | 0x026 => some { tys := [3, 7], d := rd [.g], s1 := rd [.g], imm := .any }
  | 0x027 => some { tys := [7], d := rd [.g], s1 := rd [.g], s2 := rd [.g], imm := .any }
  | 0x028 => some { tys := [0, 1, 2, 21], d := rd [.g], s1 := gp }
  | 0x029 => some { tys := [4, 5, 6, 22], d := rd [.g], s1 := gp }
  | 0x02A => some { d := rd [.g], imm := .any }
  | 0x02B => some { s1 := rd [.g], imm := .any }
  | _ => none

/-- Forms of family 1 (R103, R323, R338); `sub` tells the two forms of CALL apart. -/
def form1 (op sub : Nat) : Option Form :=
  match op with
  | 0x040 => some { imm := .any }
  | 0x041 => some { subs := upTo 0 5, tys := upTo 0 7, s1 := rd [.g], s2 := rd [.g, .no], imm := .any }
  | 0x042 | 0x044 => some { s1 := rd [.g] }
  | 0x043 =>
    if sub = 1 then some { subs := [0, 1], d := rd [.g], s1 := rd [.g] }
    else some { subs := [0, 1], d := rd [.g], imm := .any }
  | 0x045 => some { d := rd [.g], imm := .any }
  | 0x046 | 0x047 => some {}
  | 0x048 => some { imm := .any }
  | 0x049 => some { subs := upTo 0 2, d := rd [.g], s1 := rd [.g], imm := .any }
  | 0x04A => some { d := rd [.g], imm := .any }
  | 0x04B => some {}
  | 0x04C => some { imm := .any }
  | 0x04D => some {}
  | 0x050 => some { d := rd [.g], s1 := rd [.g], imm := .any }
  | 0x051 => some { d := wr [.g, .no], s1 := rd [.g], imm := .any }
  | 0x052 => some { d := wr [.g], s1 := rd [.g, .no], imm := .any }
  | 0x053 => some { d := wr [.g, .no], s1 := rd [.g], s3 := wr [.g, .no], imm := .any }
  | 0x054 => some { subs := [0, 1], s1 := rd [.g], imm := .any }
  | 0x055 => some { d := wr [.g, .no], s1 := rd [.g], imm := .any }
  | 0x056 => some { d := wr [.g, .no] }
  | 0x057 => some { d := wr [.g, .no], imm := .any }
  | _ => none

/-- Forms of family 2 (R94 to R101). -/
def form2 (op : Nat) : Option Form :=
  match op with
  | 0x080 => some { tys := upTo 0 7, d := rd [.g], s1 := rd [.g], imm := .any }
  | 0x081 => some { tys := upTo 0 7, s1 := rd [.g], s2 := gp, imm := .any }
  | 0x082 => some { tys := [2, 3, 6, 7], d := rd [.g], s1 := rd [.g], imm := .any }
  | 0x083 => some { tys := [2, 3, 6, 7], s1 := rd [.g], s2 := rd [.g], s3 := rd [.g], imm := .any }
  | 0x084 => some { tys := [0, 1, 2, 4, 5, 6], d := rd [.v], s1 := rd [.g], imm := .any }
  | 0x085 => some { tys := [0, 1, 2, 4, 5, 6], s1 := rd [.g], s2 := rd [.v], imm := .any }
  | 0x086 => some { subs := upTo 0 9, tys := [2, 3, 6, 7], d := rd [.g], s1 := rd [.g], s2 := gp,
                    s3 := rd [.g, .no], imm := .any }
  | 0x087 => some { s1 := rd [.g, .v, .q] }
  | 0x088 => some { d := rd [.g, .v, .q] }
  | _ => none

/-- Forms of family 3 (R154, R155). -/
def form3 (op : Nat) : Option Form :=
  match op with
  | 0x0C0 => some { clss := upTo 0 2, s1 := rd [.g], s2 := rd [.g, .no], imm := .any }
  | 0x0C1 => some { d := rd [.g, .no], s1 := rd [.g], imm := .any }
  | 0x0C2 => some { mt := true, clss := upTo 0 2, s1 := gp, imm := .any }
  | 0x0C3 => some { mt := true, clss := upTo 0 2, s1 := rd [.v], imm := .any }
  | 0x0C4 => some { mt := true, clss := upTo 0 2, s1 := rd [.g], s2 := rd [.g, .no], imm := .any }
  | 0x0C5 => some { mt := true, d := rd [.g], s3 := wr [.q, .no], imm := .any }
  | 0x0C6 => some { mt := true, d := rd [.v], s3 := wr [.q, .no], imm := .any }
  | 0x0C7 => some { mt := true, d := rd [.g, .no], s1 := rd [.g], s2 := rd [.g, .no],
                    s3 := wr [.q, .no], imm := .any }
  | 0x0C8 => some { d := rd [.g], s3 := wr [.q, .no], imm := .any }
  | 0x0C9 => some { mt := true, clss := upTo 0 2, imm := .any }
  | 0x0CA => some { d := rd [.g] }
  | 0x0CB => some { mt := true, clss := upTo 0 2, s1 := rd [.e, .port], imm := .any }
  | 0x0CC => some { mt := true, d := rd [.g, .no], s1 := rd [.e], imm := .any }
  | 0x0CD | 0x0CE => some {}
  | 0x0CF => some { d := rd [.g], s1 := rd [.g, .no] }
  | 0x0D0 => some { ep := false, d := rd [.g], s1 := rd [.g, .no], s2 := rd [.g] }
  | _ => none

/-- Forms of family 4 (R183, R194, R195, R202 to R205, R213, R227, R232). -/
def form4 (op : Nat) : Option Form :=
  match op with
  | 0x100 | 0x101 => some { clss := upTo 0 2, ctxs := upTo 0 3, ords := [0, 3], d := rd [.g], s1 := rd [.g],
                            s2 := rd [.g], s3 := rd [.g, .no], imm := .any }
  | 0x102 => some { tys := upTo 0 7, clss := upTo 0 2, ords := [0, 2], s1 := rd [.g], s2 := gp, imm := .any }
  | 0x103 => some { tys := [0, 1, 2, 4, 5, 6], clss := upTo 0 2, ords := [0, 2], s1 := rd [.g],
                    s2 := rd [.v], imm := .any }
  | 0x104 => some { clss := upTo 0 2, ctxs := upTo 0 3, ords := [0, 3], d := rd [.g], s1 := rd [.g],
                    s3 := rd [.g, .no] }
  | 0x105 | 0x106 => some { tys := upTo 0 11, clss := upTo 0 2, ctxs := upTo 0 3, ords := [0, 3], d := rd [.g],
                            s1 := rd [.g], s2 := rd [.g], s3 := rd [.g, .no], imm := .any }
  | 0x107 => some { clss := upTo 0 2, ctxs := upTo 0 3, ords := [0, 3], d := rd [.g], s1 := rd [.g],
                    s2 := rd [.g], s3 := rd [.g, .no], imm := .any }
  | 0x108 => some { s1 := rd [.g, .no] }
  | 0x109 => some { s1 := rd [.g, .no], s2 := rd [.g], s3 := rd [.g] }
  | 0x10A => some { subs := [0, 1], clss := upTo 0 2, s2 := rd [.g, .no], s3 := rd [.g], imm := .any }
  | 0x10B => some { ords := [0, 1], d := rd [.g, .no], s2 := rd [.g], s3 := rd [.g], imm := .any }
  | 0x10C => some { ords := [0, 1], d := rd [.g], s2 := rd [.g], s3 := rd [.g] }
  | 0x10D => some { ctxs := upTo 0 3, ords := [0, 1], s2 := rd [.g], imm := .any }
  | 0x10E => some { ctxs := upTo 0 3, d := rd [.g], imm := .any }
  | 0x10F | 0x110 => some { subs := upTo 1 7, s3 := rd [.g, .no], imm := .any }
  | 0x111 => some { subs := upTo 0 10, tys := [2, 3, 6, 7, 9, 11], clss := upTo 0 2, ctxs := upTo 0 3,
                    ords := upTo 0 3, d := rd [.g], s1 := rd [.g], s2 := rd [.g], s3 := rd [.g, .no],
                    imm := .any }
  | 0x112 => some { subs := [0, 1, 2, 3, 4, 5, 6, 7, 10], tys := [2, 3, 6, 7, 9, 11], clss := upTo 0 2,
                    ords := [0, 2], s1 := rd [.g], s2 := rd [.g], imm := .any }
  | 0x113 => some { tys := [2, 3, 6, 7], ords := [0, 1], d := rd [.g], s1 := rd [.g], s2 := rd [.g],
                    imm := .any }
  | _ => none

/-- The lane forms of R250 with operand B. -/
def laneForm (tys : List Nat) (sat : Bool) (rms : List Nat) : Form :=
  { tys := tys, sat := sat, rms := rms, d := rd [.v], s1 := rd [.v], s2 := vb, imm := .b }

/-- The one-operand vector forms of R250. -/
def unaryForm (tys : List Nat) (sat : Bool) (rms : List Nat) : Form :=
  { tys := tys, sat := sat, rms := rms, d := rd [.v], s1 := rd [.v] }

/-- Forms of family 5 (R250). Source types that R250 does not accept are judged with DETAIL 0x03 by `extra`. -/
def form5 (op : Nat) : Option Form :=
  match op with
  | 0x140 | 0x141 | 0x142 => some (laneForm (upTo 0 11) true (upTo 0 5))
  | 0x143 | 0x144 | 0x145 => some { laneForm (upTo 8 11) true (upTo 0 5) with s3 := rd [.v] }
  | 0x146 | 0x147 => some (laneForm (upTo 0 11) false [0])
  | 0x148 | 0x149 => some (unaryForm [0, 1, 2, 3, 8, 9, 10, 11] true [0])
  | 0x14A => some (laneForm (upTo 8 11) true (upTo 0 5))
  | 0x14B => some (unaryForm (upTo 8 11) false (upTo 0 5))
  | 0x14C | 0x14D => some (unaryForm (upTo 8 11) true (upTo 0 5))
  | 0x14E => some (unaryForm (upTo 9 11) true (upTo 0 5))
  | 0x14F => some (unaryForm (upTo 9 11) false (upTo 0 5))
  | 0x150 | 0x151 | 0x152 => some (laneForm (upTo 0 7) false [0])
  | 0x153 => some (laneForm (upTo 0 7) true [0])
  | 0x154 | 0x155 => some (laneForm (upTo 0 7) false [0])
  | 0x156 => some { laneForm (upTo 0 11) false [0] with subs := upTo 0 7, d := rd [.q] }
  | 0x157 => some { laneForm (upTo 0 11) false [0] with s3 := rd [.q] }
  | 0x158 => some { tys := upTo 0 11, d := rd [.v], s1 := rd [.v], s2 := rd [.v], s3 := rd [.v, .no] }
  | 0x159 => some { tys := upTo 0 11, d := rd [.v], s1 := rd [.g, .pop, .v], imm := .any }
  | 0x15A => some { tys := upTo 0 11, d := rd [.g], s1 := rd [.v], s2 := rd [.g, .no], imm := .any }
  | 0x15B => some { tys := upTo 0 11, d := rd [.v], s1 := gp, s2 := rd [.g, .no], imm := .any }
  | 0x15C => some { unaryForm (upTo 0 11) true (upTo 0 5) with subs := upTo 0 7 }
  | 0x15D => some { tys := [2, 9], subs := upTo 0 22, sat := true, rms := upTo 0 5, d := rd [.v], s1 := rd [.v],
                    s2 := rd [.v], s3 := rd [.v, .no] }
  | 0x15E => some { unaryForm (upTo 0 16 ++ upTo 20 22) true (upTo 0 5) with subs := upTo 0 22, imm := .any }
  | 0x15F => some { tys := upTo 12 19, subs := upTo 0 22, sat := true, d := rd [.v], s1 := rd [.v], s3 := wr [.g] }
  | 0x160 => some { tys := upTo 9 11, subs := upTo 0 22, rms := upTo 0 5, d := rd [.v], s1 := rd [.v],
                    s2 := rd [.g] }
  | 0x161 => some { tys := [0, 1, 2, 3, 4, 5, 6, 21, 22], subs := upTo 0 22, sat := true, d := rd [.v],
                    s1 := rd [.v], s2 := rd [.v] }
  | 0x162 => some { unaryForm (upTo 0 7) true [0] with subs := upTo 0 22, imm := .any }
  | 0x163 => some (unaryForm (upTo 0 11) false [0])
  | 0x164 => some { tys := upTo 0 11, d := rd [.v], imm := .any }
  | 0x165 => some { d := rd [.v], imm := .any }
  | _ => none

/-- The operand types of MLOADW and MSTREAM (R290). -/
def matTys : List Nat := [0, 4] ++ upTo 8 19 ++ [21, 22]

/-- Forms of family 6 (R290, R306, R338). -/
def form6 (op : Nat) : Option Form :=
  match op with
  | 0x180 => some { tys := matTys, ctxs := upTo 0 3, ords := [0, 3], d := rd [.g], s1 := rd [.g, .no],
                    s3 := rd [.g, .no], imm := .any }
  | 0x181 => some { tys := matTys, ctxs := upTo 0 3, ords := [0, 3], d := rd [.g], s1 := rd [.g, .no],
                    s2 := rd [.g], s3 := rd [.g, .no], imm := .any }
  | 0x182 => some { tys := [2, 9], ctxs := upTo 0 3, ords := [0, 3], s1 := rd [.g], s3 := rd [.g, .no],
                    imm := .any }
  | 0x183 => some { ctxs := upTo 0 3, ords := [0, 3], s1 := rd [.g], s3 := rd [.g, .no] }
  | 0x184 => some { subs := [0, 1], tys := upTo 0 19 ++ [21, 22], ctxs := upTo 0 3, ords := [0, 3], d := rd [.g],
                    s1 := rd [.g, .no], s2 := rd [.g], s3 := rd [.g, .no], imm := .any }
  | 0x185 => some { tys := [2, 8, 9], d := rd [.v, .no], s1 := rd [.v, .no], s2 := rd [.g, .no], imm := .any }
  | 0x186 => some { ctxs := upTo 0 3, ords := [0, 3], d := rd [.g], s3 := rd [.g, .no] }
  | 0x187 => some { clss := upTo 0 2, d := wr [.g], s1 := rd [.e], s2 := rd [.v], imm := .any }
  | 0x188 => some { d := wr [.g], s1 := rd [.g], imm := .any }
  | 0x190 => some { subs := [0, 1], tys := [8, 9], ords := [0, 2], s1 := rd [.v], s2 := rd [.g], imm := .any }
  | 0x191 => some { tys := [8, 9], ords := [0, 1], d := wr [.v], s1 := rd [.g, .no], s2 := rd [.g],
                    s3 := wr [.g], imm := .any }
  | 0x192 => some { d := wr [.v], s2 := rd [.g], s3 := wr [.g], imm := .any }
  | 0x193 => some { subs := [0, 1], d := wr [.q], s1 := rd [.q], s2 := rd [.g], s3 := wr [.g, .no],
                    imm := .any }
  | _ => none

/-- Forms of family 7 (R383, R396, R413). -/
def form7 (op : Nat) : Option Form :=
  match op with
  | 0x1C0 => some { d := wr [.g, .no], s1 := rd [.g], imm := .any }
  | 0x1C1 => some { d := wr [.g, .no], s2 := rd [.g, .no], imm := .any }
  | 0x1C2 => some {}
  | 0x1C3 => some { imm := .any }
  | 0x1C4 | 0x1C5 => some { d := wr [.g, .no], s1 := rd [.g, .no], s2 := rd [.g, .no], imm := .any }
  | 0x1C6 => some { d := wr [.g, .no], s1 := rd [.g], s2 := rd [.g], imm := .any }
  | _ => none

/-- The form of an OP, or nothing when the OP is unassigned (R57). -/
def formOf (op sub : Nat) : Option Form :=
  match op / 64 with
  | 0 => form0 op
  | 1 => form1 op sub
  | 2 => form2 op
  | 3 => form3 op
  | 4 => form4 op
  | 5 => form5 op
  | 6 => form6 op
  | 7 => form7 op
  | _ => none

/-- Whether an operand is of a class that the list accepts. -/
def accepts (l : List Acc) : Opnd → Bool
  | .g _ => l.contains .g
  | .v _ => l.contains .v
  | .q _ => l.contains .q
  | .e _ => l.contains .e
  | .port _ f => l.contains .pop || (!f && l.contains .port)
  | .tl _ => l.contains .tl
  | .none => l.contains .no

/-- A forward flag on a port (R54). -/
def forwards : Opnd → Bool
  | .port _ f => f
  | _ => false

/-- The conditions of one specifier field: reserved, unaccepted, or a misplaced forward flag (0x05), unused and not
0xFF (0x06), and its last-use bit (0x06 where the field is unused or written, 0x09 under item 7 of R30). -/
def fieldBad (role : Role) (code last : Nat) : List Nat :=
  match opndOfCode code with
  | none => [0x05] ++ (if last = 1 && (role.acc.isEmpty || role.written) then [0x06] else [])
  | some o =>
    (if role.acc.isEmpty then (if o = .none then [] else if forwards o then [0x05, 0x06] else [0x06])
     else if accepts role.acc o then [] else [0x05])
    ++ (if last = 0 then []
        else if role.acc.isEmpty || role.written then [0x06]
        else match o with
          | .g _ | .v _ | .q _ => []
          | _ => [0x09])

/-- The bit width of a TY code, 8 for a reserved one (whose DETAIL is lower than any that uses it). -/
def codeBits (c : Nat) : Nat := ((tyOfCode c).map tyBits).getD 8

/-- Numbers of the control registers of R34. -/
def crNumbers : List Nat :=
  upTo 0 6 ++ [0x008, 0x009, 0x00A] ++ upTo 0x010 0x013 ++ [0x018, 0x019, 0x01A, 0x01C]
    ++ upTo 0x020 0x02F ++ [0x030, 0x031] ++ upTo 0x038 0x03F

/-- A condition and its DETAIL. -/
def bad (b : Bool) (d : Nat) : List Nat := if b then [d] else []

/-- Whether a specifier code names a v register. -/
def isV (c : Nat) : Bool := 0x40 ≤ c && c < 0x60

/-- TY accepted by each operation of LATOM, RATOM and RATOMP (R99, R225). -/
def atomTys (sub : Nat) : List Nat :=
  if sub = 4 ∨ sub = 5 then [2, 3] else if sub = 6 ∨ sub = 7 then [6, 7]
  else if sub = 10 then [9, 11] else [2, 3, 6, 7]

/-- Scale modes and S1 of the matrix commands (R290): MODE 3, an undefined bit, or a MODE that disagrees
with S1. `mode` is the MODE field, `mask` the defined bits of IMM32. -/
def modeBad (r : Raw) (mode mask : Nat) : List Nat :=
  bad (r.imm &&& mask != r.imm || mode == 3 || ((mode == 0) != (r.s1 == 0xFF))) 0x06

/-- The encoding conditions that one instruction alone has, with their DETAIL codes. -/
def extra (r : Raw) : List Nat :=
  match r.op with
  -- SUB 6 and 7 need a floating TY (R59); a floating CMP needs S2 (R88)
  | 0x021 => bad (6 ≤ r.sub && r.ty < 8) 0x02 ++ bad (8 ≤ r.ty && r.s2 == 0xFF) 0x05
  | 0x156 => bad (6 ≤ r.sub && r.ty < 8) 0x02
  -- bit fields (R84)
  | 0x026 | 0x027 =>
    let pos := field r.imm 0 6
    let len := field r.imm 8 7
    bad (r.imm != pos + len * 256 || len == 0 || 64 < len || 64 < pos + len) 0x06
  -- control-register numbers (R34, R60)
  | 0x02A | 0x02B => bad (!crNumbers.contains r.imm) 0x0B
  -- TAKE's destination (R338)
  | 0x052 => bad (!(4 ≤ r.d && r.d ≤ 60 && r.d % 4 == 0)) 0x05
  -- LDP's destination (R95)
  | 0x082 => bad (r.d < 64 && r.d % 2 == 1) 0x05
  | 0x086 => bad (!(atomTys r.sub).contains r.ty) 0x03
      ++ (if r.sub = 9 then bad (r.s3 == 0xFF) 0x05 else bad (r.s3 != 0xFF || r.l3 == 1) 0x06)
  -- PARK and UNPARK do not name g0 or q0 (R100, R101)
  | 0x087 => bad (r.s1 == 0 || r.s1 == 0x80) 0x05
  | 0x088 => bad (r.d == 0 || r.d == 0x80) 0x05
  | 0x105 | 0x106 => bad (r.imm == 0 || 64 < r.imm) 0x06
  | 0x107 => bad (1024 ≤ r.imm) 0x06
  | 0x10A => bad (2 ^ 19 ≤ r.imm || ((field r.imm 16 3 == 0) == (r.sub == 0))) 0x06
  | 0x10E => bad (!(r.imm ≤ 4 || (0x102 ≤ r.imm && r.imm ≤ 0x104 && r.ctx == 0))) 0x06
  | 0x111 | 0x112 => bad (!(atomTys r.sub).contains r.ty) 0x03
  -- RM only with a floating TY (R250)
  | 0x140 | 0x141 | 0x142 => bad (r.rm != 0 && r.ty < 8) 0x04
  -- SAT only with an integer TY (R250)
  | 0x148 | 0x149 => bad (r.sat == 1 && 8 ≤ r.ty) 0x06
  | 0x159 => if isV r.s1 then bad (256 / codeBits r.ty ≤ r.imm) 0x06 else bad (r.imm != 0) 0x06
  | 0x15A | 0x15B => if r.s2 = 0xFF then bad (256 / codeBits r.ty ≤ r.imm) 0x06 else bad (r.imm != 0) 0x06
  | 0x15C =>
    let ok := match r.sub with
      | 0 => upTo 0 11
      | 1 | 2 => [0, 1, 2, 3, 8, 9, 10, 11]
      | 3 | 4 => upTo 4 7
      | _ => upTo 0 7
    bad (!ok.contains r.ty) 0x03 ++ bad (r.rm != 0 && !(r.sub == 0 && 8 ≤ r.ty)) 0x04
      ++ bad (r.sat == 1 && !(r.sub == 0 && r.ty < 8)) 0x06
  | 0x15D =>
    let ok := if r.ty = 9 then [10, 11, 12, 13, 16] else [0, 1, 4, 5, 21, 22]
    bad (!ok.contains r.sub) 0x03 ++ bad (r.rm != 0 && r.ty == 2) 0x04
  | 0x15E =>
    let a := codeBits r.sub
    let b := codeBits r.ty
    bad (17 ≤ r.sub && r.sub ≤ 19) 0x03 ++ bad (max a b / min a b ≤ r.imm) 0x06
  | 0x15F =>
    bad (!(9 ≤ r.sub && r.sub ≤ 11)) 0x03
      ++ bad (isV r.s1 && (r.s1 - 0x40) % (if r.sub = 9 then 4 else 2) != 0) 0x05
      ++ bad (r.sat == 1 && !(r.ty == 17 || r.ty == 18)) 0x06
  | 0x160 =>
    bad (!(12 ≤ r.sub && r.sub ≤ 19)) 0x03
      ++ bad (isV r.d && (r.d - 0x40) % (if r.ty = 9 then 4 else 2) != 0) 0x05
  | 0x161 => bad (!((r.sub ≤ 7 || r.sub == 21 || r.sub == 22) && codeBits r.sub == 2 * codeBits r.ty)) 0x03
  | 0x162 => bad (!((r.sub ≤ 7 || r.sub == 21 || r.sub == 22) && codeBits r.ty == 2 * codeBits r.sub)) 0x03
      ++ bad (2 ≤ r.imm) 0x06
  | 0x164 => bad ((r.ty == 10 || r.ty == 11) && 2 ^ 16 ≤ r.imm) 0x06
  | 0x165 => bad (r.imm &&& 0x101 != r.imm) 0x06
  | 0x180 => modeBad r (field r.imm 0 2) 0x13
  | 0x181 => modeBad r (field r.imm 0 2) 0x113
  | 0x182 => bad (r.imm &&& 0x17 != r.imm || 6 ≤ field r.imm 0 3) 0x06
  | 0x184 => modeBad r (field r.imm 8 2) 0x317 ++ bad (6 ≤ field r.imm 0 3) 0x06
  -- AMOV (R299)
  | 0x185 =>
    bad (isV r.d == isV r.s1) 0x06
      ++ bad (r.ty == 8 && ((isV r.d && r.d % 2 == 1) || (isV r.s1 && r.s1 % 2 == 1))) 0x05
      ++ (if r.s2 = 0xFF then bad (256 ≤ r.imm) 0x06 else bad (r.imm != 0) 0x06)
  -- MCMD names e2 to e15 (R290)
  | 0x187 => bad (r.s1 == 0x90 || r.s1 == 0x91) 0x05
  | 0x188 => bad (r.imm &&& 0xF03FF != r.imm || field r.imm 0 10 == 0) 0x06
  | 0x1C0 => bad (7 < r.imm) 0x06
  | 0x1C1 =>
    let code := field r.imm 0 4
    bad (5 < code || (if code = 3 then 128 ≤ r.imm else 16 ≤ r.imm)) 0x06
  -- CSAVE and CREST: one of two forms, and no last use (R413)
  | 0x1C4 | 0x1C5 =>
    bad (r.l1 == 1 || r.l2 == 1) 0x06 ++ bad ((r.s1 == 0xFF) == (r.s2 == 0xFF)) 0x06 ++ bad (if r.s1 = 0xFF then r.imm != 0 else 128 ≤ r.imm) 0x06
  | _ => []

/-- Every condition of R60 that the fields meet under the form, as DETAIL codes. -/
def conditions (f : Form) (r : Raw) : List Nat :=
  bad (!f.subs.contains r.sub) 0x02
  ++ bad (!f.tys.contains r.ty) 0x03
  ++ bad (!f.rms.contains r.rm) 0x04
  ++ fieldBad f.d r.d 0 ++ fieldBad f.s1 r.s1 r.l1 ++ fieldBad f.s2 r.s2 r.l2 ++ fieldBad f.s3 r.s3 r.l3
  ++ bad (r.sat == 1 && !f.sat) 0x06
  ++ bad (!f.ctxs.contains r.ctx) 0x06
  ++ bad (!f.clss.contains r.cls) 0x07
  ++ bad (!f.ords.contains r.ord) 0x08
  ++ (match fmtOfOp r.op with
      | .c =>
        bad (!f.ep && (r.ep != 0 || r.fw != 0)) 0x06 ++ bad (!f.mt && r.mt != 0) 0x06
        ++ bad (r.fw == 1 && r.cls != 0) 0x07
        ++ bad (16 ≤ r.mt || (r.fw == 1 && 4 ≤ r.ep)) 0x0A
      | _ => [])
  ++ (match f.imm with
      | .zero => bad (r.imm != 0) 0x06
      | .any => []
      | .b =>
        bad (r.s2 != 0xFF && r.imm != 0) 0x06
        ++ bad (r.op / 64 == 5 && r.s2 == 0xFF && (r.ty == 10 || r.ty == 11) && 2 ^ 16 ≤ r.imm) 0x06)
  ++ extra r

/-- The least of a list of DETAIL codes. -/
def leastDetail : List Nat → Option Nat
  | [] => none
  | d :: ds => some (ds.foldl min d)

/-- The DETAIL of R60 for the fields of a word, or nothing when they are an instruction. -/
def illegalDetail (r : Raw) : Option Nat :=
  match formOf r.op r.sub with
  | none => some 0x01
  | some f => leastDetail (conditions f r)

end Sys2Proof.Machine
end

