-- ==== Sys2Proof/Machine/View.lean ====
section
/-! DEFINITION. The operation number and the fields behind every constructor of `Instr`, and the way back
(R48 to R52, R57, R58). -/
namespace Sys2Proof.Machine

/-- What a constructor of `Instr` is: an operation number with its fields in format A or B, M, or C, or an event. -/
inductive View where
  | a (op : Nat) (o : OpA)
  | m (op : Nat) (o : OpM)
  | c (op : Nat) (o : OpC)
  | event
  deriving DecidableEq, Repr

/-- The operation number of R57 and the fields of an instruction; the rows that are events of the part have none. -/
def view : Instr → View
  | .add o => .a 0x001 o
  | .sub o => .a 0x002 o
  | .addi o => .a 0x003 o
  | .mul o => .a 0x004 o
  | .mulh o => .a 0x005 o
  | .mulhn o => .a 0x006 o
  | .div o => .a 0x007 o
  | .divn o => .a 0x008 o
  | .rem o => .a 0x009 o
  | .remn o => .a 0x00A o
  | .and o => .a 0x00B o
  | .or o => .a 0x00C o
  | .xor o => .a 0x00D o
  | .andn o => .a 0x00E o
  | .orn o => .a 0x00F o
  | .shl o => .a 0x010 o
  | .shr o => .a 0x011 o
  | .shra o => .a 0x012 o
  | .rotl o => .a 0x013 o
  | .rotr o => .a 0x014 o
  | .clz o => .a 0x015 o
  | .ctz o => .a 0x016 o
  | .popc o => .a 0x017 o
  | .min o => .a 0x018 o
  | .max o => .a 0x019 o
  | .minn o => .a 0x01A o
  | .maxn o => .a 0x01B o
  | .sel o => .a 0x01C o
  | .mov o => .a 0x01D o
  | .movi o => .a 0x01E o
  | .movhi o => .a 0x01F o
  | .lea o => .a 0x020 o
  | .cmp o => .a 0x021 o
  | .qand o => .a 0x022 o
  | .qor o => .a 0x023 o
  | .qxor o => .a 0x024 o
  | .qnot o => .a 0x025 o
  | .bfx o => .a 0x026 o
  | .bfi o => .a 0x027 o
  | .exts o => .a 0x028 o
  | .extz o => .a 0x029 o
  | .crd o => .a 0x02A o
  | .cwr o => .a 0x02B o
  | .br o => .a 0x040 o
  | .brc o => .a 0x041 o
  | .jmp o => .a 0x042 o
  | .callDirect o => .a 0x043 o
  | .callIndirect o => .a 0x043 o
  | .ret o => .a 0x044 o
  | .loop o => .a 0x045 o
  | .nop o => .a 0x046 o
  | .exit o => .a 0x047 o
  | .syscall o => .a 0x048 o
  | .stair o => .a 0x049 o
  | .follow o => .a 0x04A o
  | .leave o => .a 0x04B o
  | .land o => .a 0x04C o
  | .ifence o => .a 0x04D o
  | .launch o => .a 0x050 o
  | .spawn o => .a 0x051 o
  | .take o => .a 0x052 o
  | .join o => .a 0x053 o
  | .done o => .a 0x054 o
  | .sstep o => .a 0x055 o
  | .yield o => .a 0x056 o
  | .wdog o => .a 0x057 o
  | .ld o => .a 0x080 o
  | .st o => .a 0x081 o
  | .ldp o => .a 0x082 o
  | .stp o => .a 0x083 o
  | .vld o => .a 0x084 o
  | .vst o => .a 0x085 o
  | .latom o => .a 0x086 o
  | .park o => .a 0x087 o
  | .unpark o => .a 0x088 o
  | .connect o => .c 0x0C0 o
  | .accept o => .c 0x0C1 o
  | .send o => .c 0x0C2 o
  | .sendv o => .c 0x0C3 o
  | .sendt o => .c 0x0C4 o
  | .recv o => .c 0x0C5 o
  | .recvv o => .c 0x0C6 o
  | .recvt o => .c 0x0C7 o
  | .offer o => .c 0x0C8 o
  | .select o => .c 0x0C9 o
  | .probe o => .c 0x0CA o
  | .deleg o => .c 0x0CB o
  | .adopt o => .c 0x0CC o
  | .close o => .c 0x0CD o
  | .abort o => .c 0x0CE o
  | .epstat o => .c 0x0CF o
  | .pload o => .c 0x0D0 o
  | .get o => .m 0x100 o
  | .put o => .m 0x101 o
  | .rst o => .m 0x102 o
  | .rstv o => .m 0x103 o
  | .copy o => .m 0x104 o
  | .gather o => .m 0x105 o
  | .scatter o => .m 0x106 o
  | .mcast o => .m 0x107 o
  | .rflush o => .m 0x108 o
  | .binit o => .m 0x109 o
  | .arrive o => .m 0x10A o
  | .bwait o => .m 0x10B o
  | .btest o => .m 0x10C o
  | .tlwait o => .m 0x10D o
  | .tlread o => .m 0x10E o
  | .fence o => .m 0x10F o
  | .fencex o => .m 0x110 o
  | .ratom o => .m 0x111 o
  | .ratomp o => .m 0x112 o
  | .waita o => .m 0x113 o
  | .vadd o => .a 0x140 o
  | .vsub o => .a 0x141 o
  | .vmul o => .a 0x142 o
  | .vfma o => .a 0x143 o
  | .vfms o => .a 0x144 o
  | .vfnma o => .a 0x145 o
  | .vmin o => .a 0x146 o
  | .vmax o => .a 0x147 o
  | .vabs o => .a 0x148 o
  | .vneg o => .a 0x149 o
  | .vdiv o => .a 0x14A o
  | .vsqrt o => .a 0x14B o
  | .vrcp o => .a 0x14C o
  | .vrsq o => .a 0x14D o
  | .vexp2 o => .a 0x14E o
  | .vlog2 o => .a 0x14F o
  | .vand o => .a 0x150 o
  | .vor o => .a 0x151 o
  | .vxor o => .a 0x152 o
  | .vshl o => .a 0x153 o
  | .vshr o => .a 0x154 o
  | .vshra o => .a 0x155 o
  | .vcmp o => .a 0x156 o
  | .vsel o => .a 0x157 o
  | .vperm o => .a 0x158 o
  | .vbcast o => .a 0x159 o
  | .vext o => .a 0x15A o
  | .vins o => .a 0x15B o
  | .vred o => .a 0x15C o
  | .vdot o => .a 0x15D o
  | .vcvt o => .a 0x15E o
  | .vquant o => .a 0x15F o
  | .vdeq o => .a 0x160 o
  | .vpack o => .a 0x161 o
  | .vunpk o => .a 0x162 o
  | .vmov o => .a 0x163 o
  | .vmovi o => .a 0x164 o
  | .cevrd o => .a 0x165 o
  | .mloadw o => .m 0x180 o
  | .mstream o => .m 0x181 o
  | .mfmt o => .m 0x182 o
  | .mclr o => .m 0x183 o
  | .mdrain o => .m 0x184 o
  | .amovRead o => .m 0x185 o
  | .amovWrite o => .m 0x185 o
  | .mstat o => .m 0x186 o
  | .mcmd o => .m 0x187 o
  | .mcap o => .m 0x188 o
  | .red o => .m 0x190 o
  | .redw o => .m 0x191 o
  | .csum o => .m 0x192 o
  | .vote o => .m 0x193 o
  | .guard o => .a 0x1C0 o
  | .budget o => .a 0x1C1 o
  | .tret o => .a 0x1C2 o
  | .brk o => .a 0x1C3 o
  | .csave o => .a 0x1C4 o
  | .csaveRect o => .a 0x1C4 o
  | .crest o => .a 0x1C5 o
  | .crestRect o => .a 0x1C5 o
  | .shoot o => .a 0x1C6 o
  | .stairFormation _ => .event
  | .landing _ => .event
  | .lineFill _ _ => .event
  | .entryDrain _ _ => .event
  | .remoteAccessArrival _ => .event
  | .pageRequestPost _ => .event
  | .pageReply _ _ => .event
  | .acknowledgement _ _ => .event
  | .engineItemEnd _ _ => .event
  | .combinedAcknowledgement _ _ => .event
  | .messageArrival _ => .event
  | .creditReturn _ => .event
  | .closeNotice _ => .event
  | .holdNotice _ => .event
  | .releaseNotice _ => .event
  | .connectionRequest _ => .event
  | .acceptorAnswer _ => .event
  | .confirmation _ => .event
  | .withdrawal _ => .event
  | .memoryPeerRequest _ => .event
  | .adoptedNotice _ => .event
  | .redirect _ => .event
  | .redirectAnswer _ => .event
  | .remoteArrival _ => .event
  | .contribution _ => .event
  | .nodeTimerExpiry _ => .event
  | .resultArrival _ => .event
  | .superstepComplete _ => .event
  | .voteComplete _ => .event
  | .waitaWake _ => .event
  | .capWord _ => .event
  | .commandVector _ => .event
  | .matrixQueueRun _ => .event
  | .schedulerTurn _ => .event
  | .kernelEntry _ => .event
  | .groupFreed _ _ => .event
  | .quiescenceSweep _ _ => .event
  | .waitExpiry _ => .event
  | .watchdogExpiry _ => .event
  | .meshInterrupt _ => .event
  | .preEmption _ => .event
  | .budgetPeriod => .event
  | .shootDown _ _ => .event
  | .shootDownComplete _ => .event
  | .scrub _ => .event
  | .refresh _ => .event
  | .create _ => .event
  | .destroy _ => .event
  | .setroot _ => .event
  | .shoot2 _ => .event
  | .setlimit _ => .event
  | .peermap _ => .event
  | .grouptab _ => .event
  | .loadimg _ => .event
  | .start _ => .event
  | .halt _ => .event
  | .save _ => .event
  | .restore _ => .event
  | .resume _ => .event
  | .rdcount _ => .event
  | .setpeer _ => .event
  | .eventPost => .event
  | .registerWrite _ _ _ => .event
  | .tripRead => .event
  | .hostMemRead _ _ => .event
  | .hostMemWrite _ _ => .event
  | .hostSnoop _ => .event
  | .getVersion _ => .event
  | .getCapabilities _ => .event
  | .negotiateAlgorithms _ _ _ => .event
  | .getDigests _ => .event
  | .getCertificate _ _ _ => .event
  | .challenge _ _ => .event
  | .getMeasurements _ _ _ => .event
  | .flitReceive _ _ _ => .event
  | .negativeAcknowledgement _ _ => .event
  | .retrain _ _ => .event
  | .pwrgdRise _ _ => .event
  | .perstAssert => .event
  | .perstDeassert => .event
  | .powerWindowEnd _ => .event
  | .thermalThrottle _ _ => .event
  | .dieReset _ => .event
  | .dieRecover _ _ _ => .event
  | .interfaceLockLoss _ => .event
  | .idcode => .event
  | .bypass _ => .event
  | .samplePreload _ _ => .event
  | .extest _ => .event
  | .debugHalt _ => .event
  | .debugStep _ => .event
  | .haltOnBreak _ => .event
  | .debugRead _ _ => .event
  | .softError _ => .event
  | .haltEnd _ => .event
  | .supervisorEndsGroup _ _ => .event
  | .hallReset _ => .event
  | .interfacePowerDown _ => .event
  | .interfaceWake _ => .event
  | .pwrgdDeassert => .event

/-- The instruction of an operation number of format A or B (R57). CALL is direct with SUB 0 (R58); CSAVE and
CREST name a rectangle when S1 is 0xFF (R413). -/
def buildA (op : Nat) (o : OpA) : Option Instr :=
  match op with
  | 0x001 => some (.add o)
  | 0x002 => some (.sub o)
  | 0x003 => some (.addi o)
  | 0x004 => some (.mul o)
  | 0x005 => some (.mulh o)
  | 0x006 => some (.mulhn o)
  | 0x007 => some (.div o)
  | 0x008 => some (.divn o)
  | 0x009 => some (.rem o)
  | 0x00A => some (.remn o)
  | 0x00B => some (.and o)
  | 0x00C => some (.or o)
  | 0x00D => some (.xor o)
  | 0x00E => some (.andn o)
  | 0x00F => some (.orn o)
  | 0x010 => some (.shl o)
  | 0x011 => some (.shr o)
  | 0x012 => some (.shra o)
  | 0x013 => some (.rotl o)
  | 0x014 => some (.rotr o)
  | 0x015 => some (.clz o)
  | 0x016 => some (.ctz o)
  | 0x017 => some (.popc o)
  | 0x018 => some (.min o)
  | 0x019 => some (.max o)
  | 0x01A => some (.minn o)
  | 0x01B => some (.maxn o)
  | 0x01C => some (.sel o)
  | 0x01D => some (.mov o)
  | 0x01E => some (.movi o)
  | 0x01F => some (.movhi o)
  | 0x020 => some (.lea o)
  | 0x021 => some (.cmp o)
  | 0x022 => some (.qand o)
  | 0x023 => some (.qor o)
  | 0x024 => some (.qxor o)
  | 0x025 => some (.qnot o)
  | 0x026 => some (.bfx o)
  | 0x027 => some (.bfi o)
  | 0x028 => some (.exts o)
  | 0x029 => some (.extz o)
  | 0x02A => some (.crd o)
  | 0x02B => some (.cwr o)
  | 0x040 => some (.br o)
  | 0x041 => some (.brc o)
  | 0x042 => some (.jmp o)
  | 0x043 => some (if o.sub = 0 then .callDirect o else .callIndirect o)
  | 0x044 => some (.ret o)
  | 0x045 => some (.loop o)
  | 0x046 => some (.nop o)
  | 0x047 => some (.exit o)
  | 0x048 => some (.syscall o)
  | 0x049 => some (.stair o)
  | 0x04A => some (.follow o)
  | 0x04B => some (.leave o)
  | 0x04C => some (.land o)
  | 0x04D => some (.ifence o)
  | 0x050 => some (.launch o)
  | 0x051 => some (.spawn o)
  | 0x052 => some (.take o)
  | 0x053 => some (.join o)
  | 0x054 => some (.done o)
  | 0x055 => some (.sstep o)
  | 0x056 => some (.yield o)
  | 0x057 => some (.wdog o)
  | 0x080 => some (.ld o)
  | 0x081 => some (.st o)
  | 0x082 => some (.ldp o)
  | 0x083 => some (.stp o)
  | 0x084 => some (.vld o)
  | 0x085 => some (.vst o)
  | 0x086 => some (.latom o)
  | 0x087 => some (.park o)
  | 0x088 => some (.unpark o)
  | 0x140 => some (.vadd o)
  | 0x141 => some (.vsub o)
  | 0x142 => some (.vmul o)
  | 0x143 => some (.vfma o)
  | 0x144 => some (.vfms o)
  | 0x145 => some (.vfnma o)
  | 0x146 => some (.vmin o)
  | 0x147 => some (.vmax o)
  | 0x148 => some (.vabs o)
  | 0x149 => some (.vneg o)
  | 0x14A => some (.vdiv o)
  | 0x14B => some (.vsqrt o)
  | 0x14C => some (.vrcp o)
  | 0x14D => some (.vrsq o)
  | 0x14E => some (.vexp2 o)
  | 0x14F => some (.vlog2 o)
  | 0x150 => some (.vand o)
  | 0x151 => some (.vor o)
  | 0x152 => some (.vxor o)
  | 0x153 => some (.vshl o)
  | 0x154 => some (.vshr o)
  | 0x155 => some (.vshra o)
  | 0x156 => some (.vcmp o)
  | 0x157 => some (.vsel o)
  | 0x158 => some (.vperm o)
  | 0x159 => some (.vbcast o)
  | 0x15A => some (.vext o)
  | 0x15B => some (.vins o)
  | 0x15C => some (.vred o)
  | 0x15D => some (.vdot o)
  | 0x15E => some (.vcvt o)
  | 0x15F => some (.vquant o)
  | 0x160 => some (.vdeq o)
  | 0x161 => some (.vpack o)
  | 0x162 => some (.vunpk o)
  | 0x163 => some (.vmov o)
  | 0x164 => some (.vmovi o)
  | 0x165 => some (.cevrd o)
  | 0x1C0 => some (.guard o)
  | 0x1C1 => some (.budget o)
  | 0x1C2 => some (.tret o)
  | 0x1C3 => some (.brk o)
  | 0x1C4 => some (if o.s1 = .none then .csaveRect o else .csave o)
  | 0x1C5 => some (if o.s1 = .none then .crestRect o else .crest o)
  | 0x1C6 => some (.shoot o)
  | _ => none

/-- The instruction of an operation number of format M (R57). AMOV reads a column when D names a v register (R299). -/
def buildM (op : Nat) (o : OpM) : Option Instr :=
  match op with
  | 0x100 => some (.get o)
  | 0x101 => some (.put o)
  | 0x102 => some (.rst o)
  | 0x103 => some (.rstv o)
  | 0x104 => some (.copy o)
  | 0x105 => some (.gather o)
  | 0x106 => some (.scatter o)
  | 0x107 => some (.mcast o)
  | 0x108 => some (.rflush o)
  | 0x109 => some (.binit o)
  | 0x10A => some (.arrive o)
  | 0x10B => some (.bwait o)
  | 0x10C => some (.btest o)
  | 0x10D => some (.tlwait o)
  | 0x10E => some (.tlread o)
  | 0x10F => some (.fence o)
  | 0x110 => some (.fencex o)
  | 0x111 => some (.ratom o)
  | 0x112 => some (.ratomp o)
  | 0x113 => some (.waita o)
  | 0x180 => some (.mloadw o)
  | 0x181 => some (.mstream o)
  | 0x182 => some (.mfmt o)
  | 0x183 => some (.mclr o)
  | 0x184 => some (.mdrain o)
  | 0x185 => some (if o.d = .none then .amovWrite o else .amovRead o)
  | 0x186 => some (.mstat o)
  | 0x187 => some (.mcmd o)
  | 0x188 => some (.mcap o)
  | 0x190 => some (.red o)
  | 0x191 => some (.redw o)
  | 0x192 => some (.csum o)
  | 0x193 => some (.vote o)
  | _ => none

/-- The instruction of an operation number of format C (R57). -/
def buildC (op : Nat) (o : OpC) : Option Instr :=
  match op with
  | 0x0C0 => some (.connect o)
  | 0x0C1 => some (.accept o)
  | 0x0C2 => some (.send o)
  | 0x0C3 => some (.sendv o)
  | 0x0C4 => some (.sendt o)
  | 0x0C5 => some (.recv o)
  | 0x0C6 => some (.recvv o)
  | 0x0C7 => some (.recvt o)
  | 0x0C8 => some (.offer o)
  | 0x0C9 => some (.select o)
  | 0x0CA => some (.probe o)
  | 0x0CB => some (.deleg o)
  | 0x0CC => some (.adopt o)
  | 0x0CD => some (.close o)
  | 0x0CE => some (.abort o)
  | 0x0CF => some (.epstat o)
  | 0x0D0 => some (.pload o)
  | _ => none

/-- One bit of a last-use mark. -/
def bit (b : Bool) : Nat := if b then 1 else 0

/-- The raw fields of an instruction of format A or B (R49, R50). -/
def rawA (op : Nat) (o : OpA) : Raw :=
  { op := op, pg := o.pg.val, pn := bit o.pn, sub := o.sub.toNat, ty := tyCode o.ty, sat := bit o.sat,
    rm := rmCode o.rm, cls := 0, ctx := 0, ord := 0, ep := 0, mt := 0, fw := 0, d := opndCode o.d,
    s1 := opndCode o.s1, s2 := opndCode o.s2, s3 := opndCode o.s3, l1 := bit o.l1, l2 := bit o.l2,
    l3 := bit o.l3, imm := o.imm.toNat }

/-- The raw fields of an instruction of format M (R51). -/
def rawM (op : Nat) (o : OpM) : Raw :=
  { op := op, pg := o.pg.val, pn := bit o.pn, sub := o.sub.toNat, ty := tyCode o.ty, sat := 0, rm := 0,
    cls := clsCode o.cls, ctx := o.ctx.val, ord := ordCode o.ord, ep := 0, mt := 0, fw := 0,
    d := opndCode o.d, s1 := opndCode o.s1, s2 := opndCode o.s2, s3 := opndCode o.s3, l1 := bit o.l1,
    l2 := bit o.l2, l3 := bit o.l3, imm := o.imm.toNat }

/-- The EP field and the FW bit of an endpoint (R52). -/
def epCode : Ep → Nat × Nat
  | .e n => (n.val, 0)
  | .port p => (p.val, 1)

/-- The endpoint of an EP field and an FW bit; EP 78:77 must be zero with FW (R52). -/
def epOfCode (ep fw : Nat) : Option Ep :=
  if fw = 0 then some (.e (Fin.ofNat 16 ep))
  else if ep < 4 then some (.port (Fin.ofNat 4 ep)) else none

/-- The raw fields of an instruction of format C (R52); SUB is zero (R154). -/
def rawC (op : Nat) (o : OpC) : Raw :=
  { op := op, pg := o.pg.val, pn := bit o.pn, sub := 0, ty := 0, sat := 0, rm := 0, cls := clsCode o.cls,
    ctx := 0, ord := 0, ep := (epCode o.ep).1, mt := o.mt.val, fw := (epCode o.ep).2, d := opndCode o.d,
    s1 := opndCode o.s1, s2 := opndCode o.s2, s3 := opndCode o.s3, l1 := bit o.l1, l2 := bit o.l2,
    l3 := bit o.l3, imm := o.imm.toNat }

/-- The fields of format A or B of raw fields; none where a code is reserved. -/
def opAOf (r : Raw) : Option OpA := do
  let ty ← tyOfCode r.ty
  let rm ← rmOfCode r.rm
  let d ← opndOfCode r.d
  let s1 ← opndOfCode r.s1
  let s2 ← opndOfCode r.s2
  let s3 ← opndOfCode r.s3
  pure { pg := Fin.ofNat 8 r.pg, pn := r.pn == 1, sub := BitVec.ofNat 7 r.sub, ty := ty, sat := r.sat == 1,
         rm := rm, d := d, s1 := s1, s2 := s2, s3 := s3, l1 := r.l1 == 1, l2 := r.l2 == 1, l3 := r.l3 == 1,
         imm := BitVec.ofNat 32 r.imm }

/-- The fields of format M of raw fields; none where a code is reserved. -/
def opMOf (r : Raw) : Option OpM := do
  let ty ← tyOfCode r.ty
  let cls ← clsOfCode r.cls
  let ord ← ordOfCode r.ord
  let d ← opndOfCode r.d
  let s1 ← opndOfCode r.s1
  let s2 ← opndOfCode r.s2
  let s3 ← opndOfCode r.s3
  pure { pg := Fin.ofNat 8 r.pg, pn := r.pn == 1, sub := BitVec.ofNat 4 r.sub, cls := cls, ty := ty,
         ctx := Fin.ofNat 4 r.ctx, ord := ord, d := d, s1 := s1, s2 := s2, s3 := s3, l1 := r.l1 == 1,
         l2 := r.l2 == 1, l3 := r.l3 == 1, imm := BitVec.ofNat 32 r.imm }

/-- The fields of format C of raw fields; none where a code is reserved. -/
def opCOf (r : Raw) : Option OpC := do
  let cls ← clsOfCode r.cls
  let ep ← epOfCode r.ep r.fw
  let d ← opndOfCode r.d
  let s1 ← opndOfCode r.s1
  let s2 ← opndOfCode r.s2
  let s3 ← opndOfCode r.s3
  pure { pg := Fin.ofNat 8 r.pg, pn := r.pn == 1, ep := ep, mt := Fin.ofNat 16 r.mt, cls := cls, d := d,
         s1 := s1, s2 := s2, s3 := s3, l1 := r.l1 == 1, l2 := r.l2 == 1, l3 := r.l3 == 1,
         imm := BitVec.ofNat 32 r.imm }

/-- The instruction of raw fields (R57, R58), where the operation is assigned and no code is reserved. -/
def build (r : Raw) : Option Instr :=
  match fmtOfOp r.op with
  | .a => (opAOf r).bind (buildA r.op)
  | .m => (opMOf r).bind (buildM r.op)
  | .c => (opCOf r).bind (buildC r.op)

/-- The raw fields of a view; an event has none. -/
def viewRaw : View → Option Raw
  | .a op o => some (rawA op o)
  | .m op o => some (rawM op o)
  | .c op o => some (rawC op o)
  | .event => none

end Sys2Proof.Machine
end

