-- ==== Sys2Proof/WellFormed.lean ====
section
/-! DEFINITION. Which terms of `Instr` are steps of the part: an instruction whose fields no condition of R60 rejects,
and an event whose parameters have the ranges the spec gives them. -/
namespace Sys2Proof

/-- A management entry is eight 64-bit words (R434). -/
def CmdEntry.wf (e : CmdEntry) : Bool := e.w.length == 8

/-- A Kalfa flit's sequence has 12 bits and its payload at most 232 bytes (R380, R440). -/
def Flit.wf (f : Flit) : Bool := decide (f.seq < 4096) && decide (f.payload.length ≤ 232)

/-- The constructor agrees with its fields where two constructors share an operation number (R58, R299, R413). -/
def formOk : Instr → Bool
  | .callDirect o => o.sub == 0
  | .callIndirect o => o.sub == 1
  | .amovRead o => o.d != .none
  | .amovWrite o => o.d == .none
  | .csave o => o.s1 != .none
  | .csaveRect o => o.s1 == .none
  | .crest o => o.s1 != .none
  | .crestRect o => o.s1 == .none
  | _ => true

/-- The parameters of the events that carry a size or a form the spec fixes. -/
def eventOk : Instr → Bool
  | .create e | .destroy e | .setroot e | .shoot2 e | .setlimit e | .peermap e | .grouptab e | .loadimg e
  | .start e | .halt e | .save e | .restore e | .resume e | .rdcount e | .setpeer e => e.wf
  | .flitReceive _ f _ => f.wf
  | .hostMemWrite _ bs => decide (0 < bs.length)
  | .hostMemRead _ n => decide (0 < n)
  | _ => true

/-- A step of the part that the spec admits. -/
def Instr.wf (i : Instr) : Bool :=
  match Machine.viewRaw (Machine.view i) with
  | some r => (Machine.illegalDetail r).isNone && formOk i
  | none => eventOk i

/-- The same as a proposition. -/
abbrev WellFormed (i : Instr) : Prop := i.wf = true

end Sys2Proof
end

