-- ==== Sys2Proof/Decode.lean ====
section
/-! DEFINITION. Decoding one 96-bit word (R48 to R60), total, every rejected word named by its condition of R60, and the
encoder written from the same tables. -/
namespace Sys2Proof

/-- The conditions of R60 under which a word is not an instruction. -/
inductive Illegal where
  | unassignedOp | sub | ty | rm | specifier | unusedField | cls | ord | lastUse | messageType | controlRegister
  deriving DecidableEq, Repr

/-- The DETAIL of a condition (R60). -/
def Illegal.detail : Illegal → Nat
  | .unassignedOp => 0x01 | .sub => 0x02 | .ty => 0x03 | .rm => 0x04 | .specifier => 0x05
  | .unusedField => 0x06 | .cls => 0x07 | .ord => 0x08 | .lastUse => 0x09 | .messageType => 0x0A
  | .controlRegister => 0x0B

/-- The condition of a DETAIL (R60). -/
def Illegal.ofDetail : Nat → Illegal
  | 0x02 => .sub | 0x03 => .ty | 0x04 => .rm | 0x05 => .specifier | 0x06 => .unusedField | 0x07 => .cls
  | 0x08 => .ord | 0x09 => .lastUse | 0x0A => .messageType | 0x0B => .controlRegister | _ => .unassignedOp

/-- The instruction of a word, or the lowest condition of R60 that rejects it. -/
def decode (w : Slot) : Except Illegal Instr :=
  let r := Machine.rawOf w.toNat
  match Machine.illegalDetail r with
  | some d => .error (Illegal.ofDetail d)
  | none =>
    match Machine.build r with
    | some i => .ok i
    | none => .error .unassignedOp

/-- The word of an instruction, each field at its position (R48 to R52). An event of the part has no word. -/
def encode (i : Instr) : Option Slot :=
  (Machine.viewRaw (Machine.view i)).map fun r => BitVec.ofNat 96 (Machine.wordOf r)

/-- Twelve bytes, the least significant first (R40). -/
def slotOfBytes (bs : List Byte) : Slot :=
  BitVec.ofNat 96 (bs.foldr (fun b n => b.toNat + 256 * n) 0)

/-- The twelve bytes of a slot, the least significant first (R40). -/
def bytesOfSlot (w : Slot) : List Byte :=
  (List.range 12).map fun i => BitVec.ofNat 8 (w.toNat / 2 ^ (8 * i))

/-- The instruction of twelve bytes of a fetch line (R40). -/
def decodeBytes (bs : List Byte) : Except Illegal Instr := decode (slotOfBytes bs)

/-- The instruction whose bits, numbered from the least significant bit of its first byte, are `w`. The table gives
an instruction at most `nbits` bits; the bits above them are zero. -/
def decodeTableWord (nbits w : Nat) : Option Instr :=
  match decodeBytes (bytesOfSlot (BitVec.ofNat 96 (w % 2 ^ nbits))) with
  | .ok i => some i
  | .error _ => none

end Sys2Proof
end

