-- ==== Sys2Proof/Config.lean ====
section
/-! DEFINITION. What is fixed for the part: its sizes (spec/01_machine.md), and the values the spec leaves open, as
constants without a body. -/
namespace Sys2Proof.Config

/-- Columns of cores, R12. -/
def coresX : Nat := 1024

/-- Rows of cores, R12. -/
def coresY : Nat := 640

/-- Cores of the package, R12. -/
def coreCount : Nat := 655360

/-- Bytes of a TCM, R17 and R38. -/
def tcmBytes : Nat := 0x20000

/-- Bytes of a cluster scratchpad, R17 and R126. -/
def scratchBytes : Nat := 0x400000

/-- Bytes of a hall store, R359. -/
def hallStoreBytes : Nat := 0x4000000

/-- Bytes of the far memory behind one controller, R359. -/
def farBytes : Nat := 0x4000000000

/-- An architecturally undefined value (R4) of `w` bits: the `k`-th one drawn when the state's counter stood at `n`.
It has no body: nothing can be proved of the value (log 5). -/
opaque freeBits (n k : Nat) (w : Nat) : BitVec w

/-- Whether an RSA-4096 signature over a SHA-512 digest verifies under the device's firmware key (R74, R75, R382): RSA-4096
is not modelled (log 14). -/
opaque signatureValid (digest : BitVec 512) (signature : BitVec 4096) : Bool

/-- SHA-512 of a byte string (R382); its computation is not modelled (log 14). -/
opaque sha512 (bytes : List Byte) : BitVec 512

/-- The key that monitor firmware sets in partition record `pnum` at its creation number `n` (R372); readable by no
level (log 14). -/
opaque partitionKey (n pnum : Nat) : BitVec 256

/-- The check code of a matrix capability under a partition key (R287), not modelled (log 14). -/
opaque capCode (key : BitVec 256) (fields : List Word) : Word

/-- The signature of an attestation response by the part's identity key (R382, R439), not modelled (log 14). -/
opaque identitySign (message : List Byte) : BitVec 4096

/-- The part's certificate chain (R382), fixed at manufacture (log 14). -/
opaque certificateChain : List Byte

/-- The key that monitor firmware sets for a direction of a Kalfa port at its n-th training (R380, log 14): direction 0 is
the transmitter's. -/
opaque linkKey (port n direction : Nat) : BitVec 256

/-- The salt that it sets with the key (R380, log 14). -/
opaque linkSalt (port n direction : Nat) : BitVec 32

/-- Byte n of the key stream of AES-256-GCM under a key and a nonce (R380), not modelled (log 14). -/
opaque gcmStream (key : BitVec 256) (nonce : BitVec 96) (n : Nat) : BitVec 8

/-- The tag of AES-256-GCM over a header (flit kind, retry sequence, credits) and an encrypted payload (R380), not
modelled (log 14). -/
opaque gcmTag (key : BitVec 256) (nonce : BitVec 96) (kind seq credits : Nat) (payload : List (BitVec 8)) : BitVec 128

/-- The boot ROM of the part, measured at bring-up (R382, R447; log 14). -/
opaque bootRom : List Byte


end Sys2Proof.Config
end

