-- ==== Sys2Proof/Machine/State.lean ====
section
/-! DEFINITION. The state of one TVD-4820 package as plain data, and the state after reset. Units are held in lists
keyed by number; a unit that is not listed stands in its reset state. -/
namespace Sys2Proof.Machine

/-- What stops a run. -/
inductive Fault where
  /-- Raised by `step` when the model's own field `cur` names no core of the package; no run from reset reaches it.
  Safe: it only stops. -/
  | noSuchCore
  deriving DecidableEq, Repr

/-- What the model has no meaning for. -/
inductive Refusal where
  /-- Raised by an arm of `exec` whose instruction has no meaning yet. Safe: it only stops. -/
  | notModelled (mnemonic : String)
  deriving DecidableEq, Repr

/-! ## Endpoints -/

/-- MODE of an endpoint descriptor (R146). -/
inductive EpMode where
  | unbound | openM | handover | closedAt | connecting
  deriving DecidableEq, Repr, Inhabited

/-- What an endpoint is bound to (R147). -/
inductive Binding where
  | none | memline | scratch | link | user
  deriving DecidableEq, Repr, Inhabited

/-- A connection request (R160): the connector's virtual node identifier, its destination number for packets (its physical
index, or its node beyond this package), its endpoint and protocol slot, the channel's number, and the canonical encoding
it offers. -/
structure ConnReq where
  node : Nat
  core : Nat
  ep : Nat
  slot : Nat
  chan : Nat
  enc : List Byte
  /-- the partition that it belongs to -/
  part : Nat := 64
  /-- an ACCEPT answered it and was withdrawn, and the connector has confirmed since -/
  confirmed : Bool := false
  deriving DecidableEq, Repr, Inhabited

/-- What a delegation carries (R149): the four words of the descriptor, the channel, the carried encoding, the old
holder, its endpoint and its place. -/
structure Delegation where
  desc : List Word
  chan : Nat
  peerPkg : Nat
  enc : List Byte
  holder : Nat
  holderEp : Nat
  deriving DecidableEq, Repr, Inhabited

/-- A message that lies in its slot of the receive buffer and was not delivered (R145): number, type, and an endpoint
that it carries. -/
structure Arrived where
  seq : Nat
  mt : Nat
  deleg : Option Delegation := none
  deriving DecidableEq, Repr, Inhabited

/-- An endpoint descriptor (R146), and what the hardware keeps beside it. -/
structure Endpoint where
  mode : EpMode := .unbound
  held : Bool := false
  orderly : Bool := false
  slot : Nat := 0
  state : Nat := 0
  peer : Nat := 0
  peerEp : Nat := 0
  sseq : Nat := 0
  rseq : Nat := 0
  credit : Nat := 0
  outstd : Nat := 0
  loopCnt : Nat := 0
  loopHd : Nat := 0
  rhead : Nat := 0
  rbase : Nat := 0
  rslots : Nat := 0
  protoId : Nat := 0
  /-- what the endpoint is bound to -/
  binding : Binding := .none
  /-- the package that holds the peer (R158) -/
  peerPkg : Nat := 0
  /-- the channel's number: the model's name for one connection (R144) -/
  chan : Nat := 0
  /-- messages placed in slots and not delivered (R145) -/
  arrived : List Arrived := []
  /-- words of the incoming LINK queue, oldest first (R147) -/
  linkIn : List Word := []
  /-- places in it of words with a single-bit error (R398) -/
  linkSoft : List Nat := []
  /-- final number and close word of a notice that has arrived (R153) -/
  closeNote : Option (Nat × Word) := none
  /-- the peer is held by a debugger (R174) -/
  peerHeld : Bool := false
  /-- connection requests held here, oldest first (R160) -/
  requests : List ConnReq := []
  deriving DecidableEq, Repr, Inhabited

/-- A receive buffer kept by an endpoint that is closed or handed over (R142, R149, R152): the channel, the endpoint,
RBASE in bytes, its length, the messages it still takes, and where it passes them. -/
structure KeptBuffer where
  chan : Nat
  ep : Nat
  base : Nat
  len : Nat
  /-- handover: the descriptor at DELEG -/
  desc : Option Endpoint := none
  /-- SLOTSZ of the buffer -/
  size : Nat := 0
  /-- handover: the new holder core and endpoint, once it has adopted -/
  newHolder : Option (Nat × Nat) := none
  /-- handover: the last number the peer sent here, once it has answered -/
  last : Option Nat := none
  /-- handover: what has arrived and was not passed on, with its bytes -/
  msgs : List (Arrived × List Byte × Bool) := []
  /-- handover: a close notice that arrived, and the node that sent it -/
  closeNote : Option (Nat × Word) := none
  closedBy : Nat := 0
  /-- handover: credits that arrived before the new holder was known -/
  credits : Nat := 0
  /-- handover: the peer's new place, to be told to the new holder (R150) -/
  moved : Option (Nat × Nat) := none
  /-- handover: the close word of an old holder that failed (R151) -/
  failedWith : Option Word := none
  /-- handover: step 4 of R149 has ended; later traffic is passed on (R150) -/
  passed : Bool := false
  /-- reserved by an ACCEPT that has answered this request (R160) -/
  pending : Option ConnReq := none
  deriving DecidableEq, Repr, Inhabited

/-! ## Records -/

/-- A fault record (R191). -/
structure FaultRec where
  addr : Word
  status : Nat
  ctx : Nat := 0
  posted : Bool := false
  item : Nat := 0
  tlnum : Nat := 0
  deriving DecidableEq, Repr, Inhabited

/-- A task or notice record of 32 bytes, as four words (R334). -/
structure TaskRec where
  w0 : Word
  w1 : Word
  w2 : Word
  w3 : Word
  deriving DecidableEq, Repr, Inhabited

/-! ## Engine and matrix commands -/

/-- A walk record (R198): base, element bytes, and per dimension a count and a signed byte distance. -/
structure Walk where
  base : Word
  elem : Nat
  dims : List (Nat × Int)
  deriving DecidableEq, Repr, Inhabited

/-- An unfold descriptor (R277). -/
structure Unfold where
  base : Word
  h : Nat
  w : Nat
  c : Nat
  kh : Nat
  kw : Nat
  stride : Nat
  pad : Nat
  dil : Nat
  deriving DecidableEq, Repr, Inhabited

/-- Where a stream takes its rows from (R276). -/
inductive RowSource where
  | walk (w : Walk)
  /-- with K origin and row origin (R278) -/
  | unfold (u : Unfold) (k0 row0 : Nat)
  deriving DecidableEq, Repr, Inhabited

/-- What an engine or matrix command does, with the operands read at issue. -/
inductive EngineOp where
  /-- GET (R197) -/
  | get (loc rem : Word) (n : Nat)
  /-- PUT (R197) -/
  | put (loc rem : Word) (n : Nat)
  /-- COPY (R199) -/
  | copy (src dst : Walk)
  /-- GATHER (R200): local base, remote base, element bytes, indices -/
  | gather (loc rem : Word) (size : Nat) (idx : List Int)
  /-- SCATTER (R200) -/
  | scatter (loc rem : Word) (size : Nat) (idx : List Int)
  /-- MCAST (R201): local base, offset address, length, group -/
  | mcast (loc rem : Word) (n group : Nat)
  /-- RATOM (R225): SUB, TY, address, operand, expected value, local place of the old value -/
  | ratom (sub : Nat) (ty : Ty) (rem : Word) (b c : Word) (loc : Word)
  /-- MLOADW (R293): type, mode, axis, weight address, scale address -/
  | mloadw (ty : Ty) (mode : Nat) (axis : Nat) (w sc : Word)
  /-- MSTREAM (R294): type, scale mode, axis, source, scales, first column and rows -/
  | mstream (ty : Ty) (mode axis : Nat) (src : RowSource) (sc : Word) (c0 rows : Nat)
  /-- MFMT (R295), its mode resolved at issue -/
  | mfmt (ty : Ty) (rm : Rm) (sat : Bool) (c0 n : Nat)
  /-- MCLR (R296) -/
  | mclr (c0 n : Nat)
  /-- MDRAIN (R297): axis, type, IMM32, the mode resolved at issue, destinations, columns -/
  | mdrain (axis : Nat) (ty : Ty) (imm : Nat) (rm : Rm) (dst sc : Word) (c0 n : Nat)
  /-- MSTAT (R298) -/
  | mstat (dst : Word)
  deriving DecidableEq, Repr, Inhabited

/-- Where an item of a command stands (R189). -/
inductive ItemPhase where
  /-- not performed yet -/
  | pending
  /-- its remote side was served: the bytes read, or nothing for a write -/
  | served (bytes : List Byte)
  /-- its two remote sides: the read was served, the write is next (COPY between global sides, R199) -/
  | half (bytes : List Byte)
  /-- it has left for another package, with the bytes it has read already (R129) -/
  | away (half : Option (List Byte))
  /-- its read waits for the owner's buffered stores, drained as these accesses (R134) -/
  | behind (accesses : List Nat)
  /-- held at an interface by a page request (R366), with the bytes it has read already -/
  | held (half : Option (List Byte))
  /-- at its interface, translated, behind earlier items of class O (R369), with the bytes it has read already -/
  | waits (half : Option (List Byte))
  /-- failed at its remote side with a status, not recorded yet -/
  | failed (status : Nat)
  /-- completed -/
  | done
  deriving DecidableEq, Repr, Inhabited

/-- A command of one context that has not finished (R187, R188). -/
structure Cmd where
  ctx : Nat
  tl : Nat
  cls : Cls := .o
  /-- ORD 3: none of its items starts before every earlier command of the context has finished -/
  drain : Bool := false
  /-- RATOM order (R229): acquire or release -/
  ord : Ord := .rlx
  obj : Option Word := none
  op : EngineOp
  items : List ItemPhase
  /-- page-request repeats of this command, per span (R367) -/
  reps : List (Nat × Nat) := []
  /-- accesses of the ordinary stream that a release RATOM waits for (R229) -/
  after : List Nat := []
  /-- the MATCMD channel that carried the command (R288) -/
  chan : Option Nat := none
  /-- accepted by the matrix queue at this place; engine commands have none -/
  matrix : Bool := false
  /-- counted against the engine-command budget (R375) -/
  started : Bool := false
  /-- statuses of its failed items, for the answer of a carried command (R288) -/
  failed : List (Nat × Nat) := []
  /-- the engine-command budget stalled it (R375, R376) -/
  stalled : Bool := false
  /-- items that a budget stalled at a router or at their destination (R189) -/
  late : List Nat := []
  /-- units of router budgets that the transfers of its items have used, by item·2 + side (R375) -/
  paid : List (Nat × Nat) := []
  /-- events of a matrix command, by bit mask, which land at its finish (R292) -/
  events : List (BitVec 16) := []
  deriving DecidableEq, Repr, Inhabited

/-- STATE of an accumulator column (R29). -/
inductive ColState where
  | free | acc | park
  deriving DecidableEq, Repr, Inhabited

/-- An accumulator column with its tags (R29). -/
structure Column where
  state : ColState := .free
  fmt : Ty := .i8
  bits : VReg := 0
  /-- 64-bit words with a single-bit error, and whether it is poisoned (R292, R398) -/
  soft : List Nat := []
  bad : Bool := false
  deriving DecidableEq, Repr, Inhabited

/-- The latched block of the matrix unit (R275). -/
structure Latched where
  fmt : Ty
  mode : Nat
  axis : Nat
  elems : List Byte
  scales : List Byte
  deriving DecidableEq, Repr, Inhabited

/-! ## A core -/

/-- Counts that a core keeps for each reduction level (R308, R312, R344, R345). -/
structure LevelCounts where
  redSeq : Nat := 0
  redTaken : Nat := 0
  csumSeq : Nat := 0
  stepArr : Nat := 0
  stepDone : Nat := 0
  voteArr : Nat := 0
  voteDone : Nat := 0
  deriving DecidableEq, Repr, Inhabited

/-- The kinds of tree operation (R304, R312, R344, R345). -/
inductive TreeKind where
  | red | csum | step | vote
  deriving DecidableEq, Repr, Inhabited

/-- A result held at a core for REDW, CSUM, SSTEP or VOTE (R310, R313). -/
structure HeldResult where
  kind : TreeKind
  level : Nat
  n : Nat
  status : Nat := 0
  nelem : Nat := 0
  ty : Ty := .fp32
  elems : List Nat := []
  flags : Nat := 0
  missing : List Nat := []
  ones : Nat := 0
  deriving DecidableEq, Repr, Inhabited

/-! ## Messages of the network -/

/-- The value of a tree node or of a contribution (R304, R305, R309). -/
structure NodeVal where
  elems : List Nat := []
  flags : Nat := 0
  /-- virtual core indices in the value, and those missing from it -/
  members : List Nat := []
  missing : List Nat := []
  mismatch : Bool := false
  ones : Nat := 0
  /-- a word of it was poisoned on its way (R398, R399) -/
  poison : Bool := false
  deriving DecidableEq, Repr, Inhabited

/-- What identifies a reduction, superstep or vote: partition, domain rectangle and its level, kind, number (R304,
R308). -/
structure TreeKey where
  part : Nat
  rect : Word
  dom : Nat
  kind : TreeKind
  n : Nat
  deriving DecidableEq, Repr, Inhabited

/-- What every member of a tree operation must give alike (R308, R345). -/
structure TreeParams where
  sub : Nat := 0
  ty : Ty := .fp32
  nelem : Nat := 0
  imm : Nat := 0
  deriving DecidableEq, Repr, Inhabited

/-- The bodies of network messages. -/
inductive Body where
  /-- a channel message: number, type, bytes, poisoned, an endpoint it carries (R145) -/
  | msg (seq mt : Nat) (bytes : List Byte) (poison : Bool) (deleg : Option Delegation)
  /-- a word on a LINK port (R147) -/
  | word (w : Word)
  /-- a credit return (R142) -/
  | credit
  /-- a close notice: final number and close word (R152) -/
  | close (final : Nat) (w : Word)
  /-- to an old holder: nobody adopted the endpoint that its message carried, with a CAUSE, and whether a holder's
  failure was the reason (R151) -/
  | unadopted (cause : Nat) (failed : Bool)
  /-- hold and release notices (R174) -/
  | hold | release
  /-- a connection request (R160) -/
  | request (r : ConnReq)
  /-- the acceptor's answer: status, its encoding's slots, its endpoint (R160) -/
  | answer (status : Nat) (node ep : Nat)
  /-- the connector's confirmation or withdrawal (R160) -/
  | confirm | withdraw
  /-- handover: the new holder has adopted (R149) -/
  | adopted (core ep : Nat)
  /-- handover: the peer sends to this holder from now on (R149) -/
  | redirect (core ep : Nat)
  /-- handover: the last number sent to the old holder (R149) -/
  | redirected (last : Nat)
  /-- a contribution or partial for a node of a tree: level and index of the node, slot (R309); one that came late is
  for level 5; the packet's channel is the core that sent it -/
  | contribution (key : TreeKey) (level idx slot : Nat) (p : TreeParams) (limit : Option Nat) (v : NodeVal)
      (after : List Nat)
  /-- a result for a member core (R310) -/
  | result (r : HeldResult)
  deriving DecidableEq, Repr

/-- A message in the network: its number, the destination core and endpoint, the channel, the sender's node as the
partition sees it, and the sender's own number: its physical place, or its node beyond this package. -/
structure Packet where
  id : Nat
  dst : Nat
  ep : Nat
  chan : Nat
  src : Nat
  origin : Nat := 0
  cls : Cls := .o
  /-- tag of the tenant that it belongs to (R374) -/
  ttag : Nat := 0
  body : Body
  /-- units of router budgets that it has used (R375) -/
  paid : Nat := 0
  /-- 64-bit words with a single-bit error (R398) -/
  soft : List Nat := []
  deriving DecidableEq, Repr

/-- An entry of a spill queue (R407, R408): what a core's router diverted. -/
inductive Spilled where
  | packet (p : Packet)
  /-- a remote arrival (R202): object address, count, the sender's node identifier, and whether the core sent it itself -/
  | arrival (obj : Word) (count src : Nat) (own : Bool)
  | result (r : HeldResult)
  deriving DecidableEq, Repr, Inhabited

/-- The thread of a core (R106, R330, R403). -/
inductive Thread where
  /-- no thread: the core belongs to no group -/
  | none
  /-- placed and loaded, not entered yet (R329) -/
  | loaded
  | running
  /-- done: it executed EXIT -/
  | done
  deriving DecidableEq, Repr, Inhabited

/-- What a waiting instruction has already done, when it is not plainly tried again. -/
inductive Stage where
  | plain
  /-- a pop of a lattice port, under kwait.LIMIT and not the instruction's own limit (R78, R173) -/
  | popping
  /-- FENCE, FENCEX, CSAVE: the accesses and the timeline values awaited, fixed at issue (R213) -/
  | fence (ids : List Nat) (tls : List Nat)
  /-- CSAVE after its writes were sent: the accesses awaited (R414) -/
  | saving (ids : List Nat)
  /-- CONNECT: the request was sent on this channel (R160) -/
  | connecting (chan : Nat) (answer : Option (Nat × Nat × Nat))
  /-- ACCEPT: answered, waiting for the confirmation (R160) -/
  | accepting (chan : Nat) (confirmed : Option Bool)
  /-- SPAWN or TAKE: a ring access was sent (R339, R340) -/
  | ring (access : Nat)
  /-- JOIN: the access was sent (R341) -/
  | joining (access : Nat)
  /-- CSUM: contributed as number n (R312) -/
  | summed (n : Nat)
  /-- a TAKE has its record and its registers; the line of its target is being fetched (R340) -/
  | branching (code : Word)
  /-- SSTEP, VOTE: arrived as number n (R344, R345) -/
  | arrived (n : Nat)
  /-- STAIR: claimed its span of length n (R113) -/
  | claiming (n : Nat)
  /-- FOLLOW: waiting, and the head that claimed it (R114) -/
  | following (head : Option Nat)
  /-- LAND: arrived (R119) -/
  | landed
  /-- MCMD: the command was sent (R301) -/
  | commanded
  /-- SHOOT: shoot-down number (R386) -/
  | shooting (id : Nat)
  /-- WAITA: armed on the monitor; woken (R233) -/
  | monitoring (woken : Bool)
  deriving DecidableEq, Repr, Inhabited

/-- The wait of an instruction that has not completed (R157, R347). -/
structure Wait where
  /-- DETAIL of its expiry -/
  detail : Nat
  /-- cycles left of its limit; none is unbounded -/
  left : Option Nat
  /-- whether the limit still counts -/
  counting : Bool := true
  stage : Stage := .plain
  /-- what the record of R392 needs beside the core's state -/
  args : List Nat := []
  /-- the instruction's code address -/
  pc : Word := 0
  /-- what its stair is forwarded when it completes (R110) -/
  forward : Option (Instr × Word × Bool) := none
  deriving DecidableEq, Repr, Inhabited

/-- A line of the instruction cache (R108): its 64 bytes, or the DETAIL of a failed fetch. -/
structure ILine where
  addr : Word
  bytes : List Byte
  failed : Option Nat := none
  /-- 64-bit words with a single-bit error, to be corrected when the line is read (R398) -/
  soft : List Nat := []
  deriving DecidableEq, Repr, Inhabited

/-- A core's place in a stair (R110, R121): the stair's number, and the next member of the stream it executes. A core
that has left only relays. -/
structure StairPlace where
  stair : Nat
  next : Nat := 0
  left : Bool := false
  deriving DecidableEq, Repr, Inhabited

/-- The endpoints of R25 and R147: e0 MEMLINE, e1 SCRATCH, e2 to e15 unbound, the ports LINK. -/
def resetEndpoints : Vector Endpoint 20 :=
  Vector.ofFn fun i =>
    if i.val = 0 then { mode := .openM, binding := .memline }
    else if i.val = 1 then { mode := .openM, binding := .scratch }
    else if 16 ≤ i.val then { mode := .openM, binding := .link }
    else {}

/-- A core (R25, R34, R39, R410). -/
structure Core where
  pc : Word := 0
  g : Vector Word 64 := Vector.replicate 64 0
  v : Vector VReg 32 := Vector.replicate 32 0
  q : Vector QReg 8 := (Vector.replicate 8 (0 : QReg)).set 0 (BitVec.allOnes 32)
  /-- freed marks of g, v, q (R26, R30) -/
  gFreed : BitVec 64 := ~~~1#64
  vFreed : BitVec 32 := BitVec.allOnes 32
  qFreed : BitVec 8 := ~~~1#8
  /-- e0 to e15, then lw, ln, le, ls (R146) -/
  eps : Vector Endpoint 20 := resetEndpoints
  kept : List KeptBuffer := []
  issued : Vector Nat 4 := Vector.replicate 4 0
  tl : Vector Nat 4 := Vector.replicate 4 0
  faultQ : Vector (List FaultRec) 4 := Vector.replicate 4 []
  postedQ : List FaultRec := []
  bstall : Vector Bool 4 := Vector.replicate 4 false
  /-- commands not finished, in order of issue -/
  cmds : List Cmd := []
  acc : Vector Column 256 := Vector.replicate 256 {}
  bank : Vector VReg 32 := Vector.replicate 32 0
  bankOcc : BitVec 32 := 0
  stackOcc : BitVec 512 := 0
  /-- registers whose PARK and UNPARK are undefined (R32, R33), as spill-map entry numbers -/
  parkUndef : List Nat := []
  kcore : Word := 0
  kstatus : Word := 0
  kcause : Word := 0
  ktval : Word := 0
  kvec : Word := 0
  kepc : Word := 0
  kpriv : Word := 0
  kcoord : Word := 0
  kgroup : Word := 0
  kstair : Word := 0
  kdom : Vector Word 4 := Vector.replicate 4 0
  ktick : Word := 0
  kwdog : Word := 0
  kwait : Word := 0x00100000
  kfp : Word := 0
  kev : Vector Word 16 := Vector.replicate 16 0
  kspill : Word := 0
  ksave : Word := 0
  kguard : Vector Word 8 := Vector.replicate 8 0
  counts : Vector LevelCounts 5 := Vector.replicate 5 {}
  pendCsum : BitVec 5 := 0
  results : List HeldResult := []
  sent : Nat := 0
  rcvd : Nat := 0
  idle : Bool := false
  trapSeq : BitVec 32 := 0
  dirty : BitVec 96 := 0
  latched : Option Latched := none
  /-- matrix commands accepted since kernel entry, and those of them from channels (R298) -/
  accepted : Nat := 0
  carried : Nat := 0
  thread : Thread := .none
  /-- debug halt (R352, R394) -/
  halted : Bool := false
  /-- the halt follows a monitor event (R394) -/
  monitored : Bool := false
  /-- the level that monitor firmware entered from, to which a resume returns (R394) -/
  enteredFrom : Nat := 0
  /-- the line that the core last issued from (R108) -/
  fromLine : Option Word := none
  /-- saved at ksave and away (R404) -/
  preempted : Bool := false
  /-- the core has accepted and its arrivals are diverted (R407) -/
  diverting : Bool := false
  /-- accesses that write its core record, and then its spill-queue header (R404) -/
  saving : Option (List Nat) := none
  /-- the record is written: the header is under way (R404) -/
  headed : Bool := false
  /-- accesses that write its spill queue (R407, R408), and whether such a write has failed -/
  queueIds : List Nat := []
  queueFailed : Bool := false
  /-- accesses to the record of a core that is to resume, where its pages are not there (R409, R366) -/
  returning : Option (List Nat) := none
  /-- entries of its return stack (R105, R410) -/
  calls : Nat := 0
  /-- its spill queue, oldest first (R407) -/
  spill : List Spilled := []
  wait : Option Wait := none
  /-- RESTORE has loaded it: it resumes from what it holds, not from its save area (R417) -/
  restored : Bool := false
  /-- RESUME or the resume form of CREST has named it: it resumes with its stair and gang (R405, R406, R415) -/
  resumeDue : Bool := false
  /-- a pending pre-emption request, and whether it comes from HALT (R403) -/
  request : Option Bool := none
  wdogPending : Bool := false
  haltOnBreak : Bool := false
  /-- a debugger lets the halted core complete one instruction (R449) -/
  stepping : Bool := false
  icache : List ILine := []
  place : Option StairPlace := none
  /-- the forming head that has claimed this core (R113) -/
  claimed : Option Nat := none
  /-- from the launch: CHB in bytes, EPS, PRIO, launch number, group number, partition -/
  chb : Nat := 0
  epsN : Nat := 0
  prio : Nat := 0
  launch : Nat := 0
  group : Nat := 0
  part : Option Nat := none
  deriving DecidableEq, Repr, Inhabited

/-! ## Stairs -/

/-- One forwarded instruction of a stair's stream (R110). -/
structure StreamItem where
  instr : Instr
  addr : Word
  /-- whether the head executed it (R28) -/
  byHead : Bool
  /-- the head's next code address after it, which R115 compares -/
  headNext : Word
  deriving DecidableEq, Repr

/-- A stair (R110 to R121). -/
structure Stair where
  id : Nat
  head : Nat
  len : Nat
  tread : Nat
  stream : List StreamItem := []
  /-- number of the first item of `stream` -/
  base : Nat := 0
  /-- a landing in progress: stream position at which attached members arrive -/
  landing : Option Nat := none
  /-- detached members that wait at a landing -/
  waiting : List Nat := []
  /-- the head has dissolved the stair; attached members run on to the end of the stream -/
  dissolved : Bool := false
  deriving DecidableEq, Repr

/-! ## Clusters -/

/-- An entry of a combining buffer (R132). -/
structure CombEntry where
  id : Nat
  owner : Nat
  cls : Cls
  /-- the line's address divided by 64 -/
  line : Nat
  /-- byte offset and byte of every byte held -/
  bytes : List (Nat × Byte)
  /-- no other store of the owner entered since (R132) -/
  latest : Bool := true
  /-- accesses whose acknowledgement it waits for (R184) -/
  after : List Nat := []
  /-- cycles since it was allocated (R133) -/
  age : Nat := 0
  deriving DecidableEq, Repr, Inhabited

/-- A waiter of the monitor table (R231, R233). -/
structure Monitor where
  loc : Nat
  width : Nat
  value : Word
  core : Nat
  fired : Bool := false
  deriving DecidableEq, Repr, Inhabited

/-- A cluster's router state (R132, R231). -/
structure Cluster where
  comb : List CombEntry := []
  monitors : List Monitor := []
  deriving DecidableEq, Repr, Inhabited

/-! ## Accesses in flight -/

/-- What an access of the ordinary stream does at its destination. -/
inductive AccKind where
  /-- a store: byte offsets from the address and their bytes (R184, R132) -/
  | store (bytes : List (Nat × Byte))
  /-- a release store in its hold, which then enters the combining buffer (R132, R184) -/
  | release (bytes : List (Nat × Byte))
  /-- a read of n bytes (ring accesses, CREST, R337, R415) -/
  | read (n : Nat)
  /-- RATOMP (R230): SUB, TY, operand -/
  | ratomp (sub : Nat) (ty : Ty) (b : Word)
  /-- JOIN (R341) -/
  | join
  /-- a remote arrival: target node, package, object address and count (R202) -/
  | arrival (pkg node : Nat) (obj : Word) (count : Nat)
  /-- an arrival on the issuer's own object, behind a release hold (R202) -/
  | ownArrival (obj : Word) (count : Nat)
  deriving DecidableEq, Repr, Inhabited

/-- Where an access stands. -/
inductive AccPhase where
  | sent
  /-- it has left for another package (R129) -/
  | away
  /-- held by a page request at its interface -/
  | held
  /-- at its interface, translated, behind earlier accesses of class O (R369) -/
  | waits
  /-- performed at its destination: a status and the bytes returned -/
  | performed (status : Nat) (bytes : List Byte)
  /-- acknowledged; the instruction that waits for it has not taken the result yet -/
  | returned (status : Nat) (bytes : List Byte)
  deriving DecidableEq, Repr, Inhabited

/-- An access of the ordinary stream that has not been acknowledged (R178, R181). -/
structure Access where
  id : Nat
  core : Nat
  cls : Cls
  addr : Word
  kind : AccKind
  /-- accesses of the same source that must be acknowledged first (R181, R184) -/
  after : List Nat := []
  phase : AccPhase := .sent
  /-- its failure goes to the posted fault queue (R186) -/
  posted : Bool := true
  /-- it belongs to the core's ordinary stream; the hall schedulers' and the loader's own accesses do not (R335) -/
  stream : Bool := true
  /-- the node that serves it, once it was sent -/
  node : Nat := 0
  /-- page-request repeats, per span (R367) -/
  reps : List (Nat × Nat) := []
  /-- offsets of bytes it carries that are poisoned (R398) -/
  hurt : List Nat := []
  /-- units of router budgets that it has used (R375) -/
  paid : Nat := 0
  deriving DecidableEq, Repr, Inhabited

/-- An access that another package sent, at the gateway that took it in (R129, R358): its number here, the port, the
partition, where it comes from, what it asks, and the node that it is for. -/
structure Inbound where
  id : Nat
  port : Nat
  part : Nat
  pkg : Nat
  src : Nat
  cls : Cls
  addr : Word
  req : FarReq
  node : Nat
  /-- held by a page request of the gateway -/
  held : Bool := false
  /-- page-request repeats, per span (R367) -/
  reps : List (Nat × Nat) := []
  deriving DecidableEq, Repr, Inhabited

/-! ## Trees -/

/-- A node of a tree operation in progress (R304, R309). -/
structure TreeNode where
  id : Nat
  key : TreeKey
  level : Nat
  idx : Nat
  p : TreeParams
  slots : List (Nat × NodeVal) := []
  /-- cycles left of the node's timer; none is unbounded -/
  left : Option Nat := none
  limit : Option Nat := none
  passed : Bool := false
  mismatch : Bool := false
  deriving DecidableEq, Repr

/-- A final record kept at the top node (R309). -/
structure FinalRec where
  key : TreeKey
  p : TreeParams
  status : Nat
  v : NodeVal
  deriving DecidableEq, Repr

/-! ## Partitions -/

/-- A task queue: segments by hall, and the ring's counts (R335). -/
structure TaskQueue where
  segs : List (Nat × List TaskRec) := []
  head : BitVec 32 := 0
  tail : BitVec 32 := 0
  deriving DecidableEq, Repr, Inhabited

/-- A pending or running launch (R325 to R333). -/
structure Launch where
  n : Nat
  words : List Word
  /-- physical index of the launcher; none is the host -/
  launcher : Option Nat
  /-- address of the record, for the failure record -/
  addr : Word
  /-- its place in the order of postings (R327), once its posting has taken effect -/
  seq : Nat := 0
  /-- cycles since its posting took effect, W of R327 -/
  age : Nat := 0
  /-- cycles since it last placed, at effective priority 3 (R327 item 4) -/
  stuck : Nat := 0
  placed : Nat := 0
  /-- accesses the posting waits for (R325) -/
  after : List Nat := []
  /-- groups still resident -/
  live : Nat := 0
  /-- totals of the last sweep that found every core idle (R332) -/
  sweep : Option (Nat × Nat) := none
  /-- checked under R326 -/
  checked : Bool := false
  /-- it has ended with this status, and has not reported yet (R333) -/
  ended : Option Nat := none
  /-- the group of its launcher -/
  fromGroup : Nat := 0
  /-- SENT and RCVD of its groups that were freed (R332) -/
  gone : Nat × Nat := (0, 0)
  deriving DecidableEq, Repr, Inhabited

/-- A resident or draining group (R328, R331), in virtual coordinates. -/
structure Group where
  id : Nat
  launch : Nat
  index : Nat
  x0 : Nat
  y0 : Nat
  w : Nat
  h : Nat
  gang : Bool := false
  /-- its launch was found quiescent, or it was ended (R331, R332) -/
  draining : Bool := false
  queue : TaskQueue := {}
  deriving DecidableEq, Repr, Inhabited

/-- An image loaded in a partition (R75): its target address and its bytes. -/
structure Image where
  base : Word
  bytes : List Byte
  deriving DecidableEq, Repr, Inhabited

/-- The bounds of every counter of one activity of a partition (R375, R385). -/
structure Budget where
  cap : Nat := 0xFFFFF
  limit : Nat := 0xFFFFF
  /-- a CAP and a LIMIT that take effect with the next period (R385, R436) -/
  nextCap : Option Nat := none
  nextLimit : Option Nat := none
  deriving DecidableEq, Repr, Inhabited

/-- A partition (R372), with its scheduler, queues and roots. -/
structure Partition where
  hx0 : Nat
  hy0 : Nat
  hw : Nat
  hh : Nat
  ttag : Nat := 0
  peermap : BitVec 512 := 0
  ringBase : Word := 0
  dBase : Word := 0
  key : BitVec 256 := 0
  /-- home peer number of a restored partition (R419) -/
  home : Option Nat := none
  /-- partition-wide hold of HALT (R352, R417) -/
  hold : Bool := false
  /-- HALT was commanded and has not completed -/
  halting : Bool := false
  /-- RESTORE has loaded an image that RESUME has not started (R417, R418) -/
  imaged : Bool := false
  /-- cycles for which the partition ran, for ktick of cores that were away (R412) -/
  ran : Nat := 0
  roots : List (Nat × Word) := []
  pending : List Launch := []
  /-- launches with all groups placed -/
  running : List Launch := []
  nextLaunch : Nat := 1
  /-- postings that have taken effect -/
  postings : Nat := 0
  /-- place in the order of postings of the launch served last at each effective priority (R327) -/
  served : List (Nat × Nat) := []
  groups : List Group := []
  nextGroup : Nat := 1
  notices : TaskQueue := {}
  heldNotices : List TaskRec := []
  images : List Image := []
  measurement : BitVec 512 := 0
  rootRunning : Option Nat := none
  /-- the bounds by activity: code·8 + controller (R375) -/
  budgets : List (Nat × Budget) := []
  /-- use in the current period by counter: code·2^20 + place (R375) -/
  used : List (Nat × Nat) := []
  /-- ktick value at which each away core was saved, and `ran` then -/
  away : List (Nat × Nat) := []
  deriving DecidableEq, Repr, Inhabited

/-! ## Interfaces -/

/-- A cached translation (R363): partition, stage, window, input page, page size code, entry and the table address
that held it. -/
structure CacheEntry where
  part : Nat
  stage : Nat
  window : Nat
  page : Nat
  size : Nat
  entry : Word
  place : Nat
  deriving DecidableEq, Repr, Inhabited

/-- A page request (R366) of an interface and what it holds. -/
structure PageReq where
  tag : Nat
  part : Nat
  stage : Nat
  window : Nat
  /-- span: page number and level of the missing entry (R367) -/
  span : Nat
  level : Nat
  addr : Word
  iaddr : Nat
  acc : Nat
  rep : Nat
  posted : Bool := false
  /-- accesses, engine items, and line fetches with their repeats, that it holds -/
  accesses : List Nat := []
  items : List ItemRef := []
  /-- channels whose memory peer waits (R148) -/
  peers : List Nat := []
  /-- accesses of other packages -/
  inbound : List Nat := []
  fetches : List (Nat × Word × List (Nat × Nat)) := []
  deriving DecidableEq, Repr, Inhabited

/-- What waits at an interface, at a page request or at an exhausted counter (R366, R376). -/
inductive Who where
  | access (id : Nat)
  | item (r : ItemRef)
  | fetch (core : Nat) (line : Word)
  /-- the memory peer of a channel -/
  | peer (chan : Nat)
  /-- a command before its first item: its core, context and number -/
  | command (core ctx tl : Nat)
  /-- an access of another package -/
  | inbound (id : Nat)
  /-- a message at a router -/
  | packet (id : Nat)
  deriving DecidableEq, Repr, Inhabited

/-- An interface's own state (R363, R366, R370), by its physical node identifier. -/
structure Iface where
  cache : List CacheEntry := []
  requests : List PageReq := []
  nextTag : Nat := 0
  powered : Bool := true
  deriving DecidableEq, Repr, Inhabited

/-- A shoot-down in progress (R370): its scope and the caches that have acknowledged. -/
structure Shoot where
  id : Nat
  part : Nat
  stage : Nat
  /-- none: every entry; otherwise window, page number, size code -/
  page : Option (Nat × Nat × Nat)
  /-- the window of a SETROOT -/
  window : Option Nat := none
  acked : List Nat := []
  /-- the core whose SHOOT waits for it (R386) -/
  issuer : Option Nat := none
  /-- accesses that the release of the SHOOT waits for, and the core that issued them (R386) -/
  after : List Nat := []
  origin : Nat := 0
  /-- it runs in another package, which the model does not hold (R386) -/
  away : Bool := false
  /-- the package whose SHOOT it serves, and the node there, which is told of its end (R386) -/
  asker : Option (Nat × Nat) := none
  /-- the address and the shoot word of a SHOOT -/
  words : Word × Word := (0, 0)
  done : Bool := false
  deriving DecidableEq, Repr, Inhabited

/-- The state of a memory peer's side of a channel (R148). -/
inductive PeerPhase where
  | ready
  /-- MEMREAD: address of item 0, count, distance, next item -/
  | reading (addr : Word) (count : Nat) (dist : Int) (next : Nat) (label : Bool)
  /-- MEMWRITE: address, count, distance, items written, an item or label is next -/
  | writing (addr : Word) (count : Nat) (dist : Int) (next : Nat) (label : Bool)
  deriving DecidableEq, Repr, Inhabited

/-- What sits at the far end of a channel that is no core: a memory peer (R148) or a matrix unit (R286). -/
structure PeerSide where
  chan : Nat
  /-- physical node identifier -/
  node : Nat
  part : Nat
  /-- the core and endpoint that hold the other end -/
  core : Nat
  ep : Nat
  /-- the core side's canonical encoding -/
  enc : List Byte
  write : Bool := false
  matrix : Bool := false
  phase : PeerPhase := .ready
  sseq : Nat := 0
  rseq : Nat := 0
  credit : Nat := 0
  arrived : List (Nat × Nat × List Byte × Bool) := []
  /-- messages that the core side takes before the peer waits: its INMSG (R142) -/
  room : Nat := 0
  /-- an item is held by a page request, with the repeats of its spans (R367) -/
  held : Bool := false
  reps : List (Nat × Nat) := []
  /-- buffered stores of the reader that must be acknowledged first (R134) -/
  behind : List Nat := []
  /-- entries of the combining buffer whose bytes it has read there (R209) -/
  took : List Nat := []
  /-- MATCMD: the capability accepted, and the commands accepted since (R287, R288) -/
  auth : Option (Word × Nat) := none
  /-- MATCMD: the target's context and number of the command in progress (R288) -/
  cmd : Option (Nat × Nat) := none
  deriving DecidableEq, Repr, Inhabited

/-! ## Context images -/

/-- What the sections of a context image hold whose bytes the spec does not lay out (R416): the partition's scheduler,
queues and groups, and what its cores, stairs, trees, channels and memory peers hold beside their records. Cores, halls
and storage keys are physical ones of the source, whose origin in halls it names. -/
structure Snapshot where
  hx0 : Nat := 0
  hy0 : Nat := 0
  part : Partition
  cores : List (Nat × Core) := []
  stairs : List Stair := []
  net : List Packet := []
  nodes : List TreeNode := []
  finals : List FinalRec := []
  peers : List PeerSide := []
  poison : List Nat := []
  objects : List (Nat × Bool) := []
  deriving DecidableEq, Repr, Inhabited

/-! ## The package's ports and management -/

/-- A Kalfa port (R380, R381, R440, R441). -/
structure Port where
  up : Bool := true
  /-- key generation of the last training -/
  keys : Nat := 0
  /-- each direction's key and salt (R380) -/
  txKey : BitVec 256 := 0
  rxKey : BitVec 256 := 0
  txSalt : BitVec 32 := 0
  rxSalt : BitVec 32 := 0
  /-- credits of the header received last (R380) -/
  credits : Nat := 0
  txSlot : Nat := 0
  rxSlot : Nat := 0
  txSeq : Nat := 0
  rxSeq : Nat := 0
  /-- flits sent and not acknowledged, with their replay counts: at most 512 -/
  retry : List (Flit × Nat) := []
  /-- flits that wait for room there, oldest first -/
  queued : List Flit := []
  /-- slots at which replays fell within the last 65,536 -/
  replays : List Nat := []
  /-- flits replayed since the last retraining -/
  replayed : Nat := 0
  failures : Nat := 0
  /-- the retry limit was reached -/
  limit : Bool := false
  /-- data flits delivered in order, oldest first -/
  delivered : List (List Byte) := []
  /-- flits put on the line, encrypted, oldest first; idle ones apart -/
  wire : List Flit := []
  deriving DecidableEq, Repr, Inhabited

/-- A ring of R434, R437 or R438: base, log, producer and consumer counts. -/
structure Ring where
  base : Word := 0
  log : Nat := 0
  prod : BitVec 32 := 0
  cons : BitVec 32 := 0
  deriving DecidableEq, Repr, Inhabited

/-- A response of SPDM 1.2 (R439), by its contents: the spec gives no bytes of it. -/
inductive SpdmResponse where
  | none
  | version
  | capabilities
  /-- the algorithms selected: TPM_ALG_RSASSA_4096 and TPM_ALG_SHA_512, where they were offered -/
  | algorithms (rsassa4096 sha512 : Bool)
  | digests (d : List (BitVec 512))
  | certificate (bytes : List Byte) (remaining : Nat)
  | challengeAuth (certHash : BitVec 512) (nonce : BitVec 256) (signature : BitVec 4096)
  | measurements (l : List (Nat × BitVec 512)) (nonce : BitVec 256) (signature : BitVec 4096)
  | error
  deriving DecidableEq, Repr, Inhabited

/-- A DOE mailbox with its SPDM session (R439): the requests that have been answered, and the last response. -/
structure Doe where
  version : Bool := false
  caps : Bool := false
  algs : Bool := false
  response : SpdmResponse := .none
  deriving DecidableEq, Repr, Inhabited

/-- STATE of R448. -/
inductive PartState where
  | reset | bringUp | ready | failed
  deriving DecidableEq, Repr, Inhabited

/-- The management side of the package (R430 to R449). -/
structure Board where
  pwrgd : Bool := false
  /-- PERST# asserted -/
  perst : Bool := true
  state : PartState := .reset
  /-- step 4 of R447 passed -/
  checked : Bool := false
  pkgPwr : Nat := 0
  plim : Nat := 12000
  /-- PLIM written and waiting for the window boundary -/
  plimNext : Nat := 12000
  temp : Vector Nat 4 := Vector.replicate 4 0
  thrCnt : Nat := 0
  trip : BitVec 4 := 0
  dbgEn : BitVec 64 := 0
  throttled : Bool := false
  hot : Vector Bool 4 := Vector.replicate 4 false
  dieDown : Vector Bool 4 := Vector.replicate 4 false
  /-- package peer number (R374) -/
  peer : Nat := 0
  routes : Vector (BitVec 16) 512 := Vector.replicate 512 0
  groups : List (Nat × List Byte) := []
  mq : Ring := {}
  cq : Ring := {}
  ev : Ring := {}
  /-- stage-1 request and reply rings of VF n, stage-2 rings of the PF (R438) -/
  rq1 : List (Nat × Ring) := []
  rp1 : List (Nat × Ring) := []
  rq2 : List (Nat × Ring) := []
  rp2 : List (Nat × Ring) := []
  /-- events held for the event ring (R437) -/
  events : List (List Word) := []
  /-- MSI-X messages signalled: function (0 the PF, n + 1 VF n) and vector (R434, R438) -/
  msix : List (Nat × Nat) := []
  doe : List (Nat × Doe) := []
  meas1 : BitVec 512 := 0
  meas2 : BitVec 512 := 0
  /-- correctable errors by hall 0–159, 256 + controller (R398, R435) -/
  errors : List (Nat × Nat) := []
  /-- partitions created so far, which name keys -/
  created : Nat := 0
  /-- the management command at the head of the ring has begun: the shoot-down that it waits for, 0 for the
  acknowledgements of a GROUPTAB (R435) -/
  begun : Option Nat := none
  /-- ports whose switches have not acknowledged the group-table entry of a GROUPTAB in progress (R435) -/
  acksFrom : List Nat := []
  /-- JTAG: instruction selected, bits shifted out, boundary cells (R449) -/
  jtag : Nat := 0
  jtagOut : List Word := []
  cells : List Bool := []
  /-- bytes of the last host read and whether they were poisoned (R432) -/
  hostRead : List Byte := []
  hostPoison : Bool := false
  deriving DecidableEq, Repr, Inhabited

/-- What happens next: the model's own order of the agents (log 1). -/
inductive Turn where
  /-- the core with this physical index issues -/
  | run (core : Nat)
  /-- an event of the opcode table -/
  | event (i : Instr)
  /-- cycles pass (log 2) -/
  | elapse (cycles : Nat)
  /-- an interface drops a cached translation (log 10) -/
  | evict (node : Nat) (entry : Nat)
  deriving DecidableEq, Repr

/-- An aligned 8-byte part of a local window as it was before a write that an access of the other ordering domain may not
see yet (R206, R219): a store of the core's program before its next FENCEX, which the core's commands may miss, or a write
of a command, which a core that has not observed the command may miss. -/
structure OldPart where
  /-- storage key of the part, a multiple of 8 -/
  key : Nat
  /-- what it held before the write -/
  old : Nat
  /-- the core, and its command where the engine or the matrix unit wrote -/
  core : Nat
  cmd : Option (Nat × Nat) := none
  /-- storage key of the command's barrier object, and whether a phase has completed there since -/
  obj : Option Nat := none
  counted : Bool := false
  /-- cores that have not observed the command, which may still read the old value -/
  readers : List Nat := []
  deriving DecidableEq, Repr, Inhabited

/-- The package. -/
structure State where
  /-- physical index of the core that issues (log 1) -/
  cur : Nat := 0
  /-- what happens before `cur` issues again (log 1) -/
  agenda : List Turn := []
  /-- values drawn from `Config.freeBits` so far (log 5) -/
  free : Nat := 0
  /-- the next number for accesses, packets, channels, stairs, nodes, shoot-downs -/
  fresh : Nat := 1
  /-- all memories in one list: see `Ops` for the keys -/
  mem : List Host.Cell := []
  /-- aligned 8-byte parts that are poisoned, by key divided by 8, rising (R398) -/
  poison : List Nat := []
  /-- aligned 8-byte parts with a single-bit error (R398) -/
  soft : List Nat := []
  /-- barrier objects that BINIT has initialised, by storage key, and whether an ordinary store has left their fields
  undefined since (R193) -/
  objects : List (Nat × Bool) := []
  /-- parts that still have two values (R219), oldest first -/
  unsettled : List OldPart := []
  cores : List (Nat × Core) := []
  clusters : List (Nat × Cluster) := []
  stairs : List Stair := []
  /-- accesses of the ordinary streams not acknowledged, oldest first -/
  flight : List Access := []
  /-- accesses of other packages that have come in and are not performed, oldest first (R358) -/
  inbound : List Inbound := []
  /-- messages under way; one for another package stands here until it leaves through its gateway -/
  net : List Packet := []
  /-- mesh interrupts under way: the core, and whether a HALT sent it (R403) -/
  mesh : List (Nat × Bool) := []
  nodes : List TreeNode := []
  finals : List FinalRec := []
  parts : List (Nat × Partition) := []
  ifaces : List (Nat × Iface) := []
  peers : List PeerSide := []
  shoots : List Shoot := []
  /-- units that wait for the next budget period, in order of arrival (R376) -/
  stalled : List Who := []
  /-- cycles of the current budget period: one clock for every counter (R375) -/
  clock : Nat := 0
  /-- lines the host interface holds in its cache for SYSTEM atomics (R224, R433) -/
  hostLines : List Nat := []
  /-- 64-byte lines of device memory that the host may hold copies of (R224, R433) -/
  hostCopies : List Nat := []
  ports : List (Nat × Port) := []
  board : Board := {}
  /-- what SAVE wrote in the sections without a stated layout, and what those bytes stand for (log 44) -/
  images : List (List Byte × Snapshot) := []
  deriving DecidableEq, Repr

/-- What an image written elsewhere holds in the sections whose bytes the spec does not lay out (R416): a function of
those bytes without a body (log 44). -/
opaque foreignSnapshot (bytes : List Byte) : Snapshot

/-- What an entry of a spill queue stands for whose payload the spec does not lay out (R408: notices, results, connection
requests), in an image written elsewhere: a function of its bytes without a body (log 44). -/
opaque foreignSpilled (bytes : List Byte) : Spilled

/-- The machine right after reset: power has not risen (R447), every unit in its reset state. -/
def State.reset : State := {}

end Sys2Proof.Machine
end

