-- ==== Sys2Proof/Machine/Ops.lean ====
section
/-! DEFINITION. The named operations over tables, memory and registers, taking a trap (R393, R394) and returning from
one (R396), and the ends of a step. -/
namespace Sys2Proof.Machine

/-! ## Tables keyed by a number -/

/-- The entry of a key. -/
def tget? {α : Type} (t : List (Nat × α)) (k : Nat) : Option α :=
  match t with
  | [] => none
  | (j, a) :: r => if j = k then some a else tget? r k

/-- The entry of a key, or a default where none is listed. -/
def tget {α : Type} (d : α) (t : List (Nat × α)) (k : Nat) : α := (tget? t k).getD d

/-- The table with one entry set, keys rising. -/
def tset {α : Type} (t : List (Nat × α)) (k : Nat) (a : α) : List (Nat × α) :=
  match t with
  | [] => [(k, a)]
  | (j, b) :: r => if j < k then (j, b) :: tset r k a else if j = k then (k, a) :: r else (k, a) :: (j, b) :: r

/-- The table without an entry. -/
def tdel {α : Type} (t : List (Nat × α)) (k : Nat) : List (Nat × α) := t.filter fun p => p.1 != k

/-- Every entry changed by a function of its key. -/
def tmap {α : Type} (t : List (Nat × α)) (f : Nat → α → α) : List (Nat × α) := t.map fun p => (p.1, f p.1 p.2)

/-! ## Memory

One list holds every memory of the package. A key is (kind·2^24 + index)·2^64 + offset, where kind and index are
0 and a core for a TCM, 1 and a cluster for a scratchpad, 2 and a hall for a hall's physical addresses (R359), 3 and a
controller for far memory, 4 and 0 for host physical memory. A byte that nothing has written reads as zero (R75, R447
step 3; log 4). -/

/-- The key of a byte. -/
def memKey (kind index offset : Nat) : Nat := (kind * 2 ^ 24 + index) * 2 ^ 64 + offset

/-- The key of a TCM byte. -/
def tcmKey (core offset : Nat) : Nat := memKey 0 core offset

/-- The key of a scratchpad byte. -/
def scratchKey (cluster offset : Nat) : Nat := memKey 1 cluster offset

/-- A byte of memory; an unlisted one is zero. -/
def readByte (m : List Host.Cell) (k : Nat) : Byte :=
  match m with
  | [] => 0
  | (j, b) :: r => if j = k then b else if k < j then 0 else readByte r k

/-- Memory with one byte written, in canonical form. -/
def writeByte (m : List Host.Cell) (k : Nat) (b : Byte) : List Host.Cell :=
  match m with
  | [] => if b = 0 then [] else [(k, b)]
  | (j, c) :: r =>
    if j < k then (j, c) :: writeByte r k b
    else if j = k then (if b = 0 then r else (k, b) :: r)
    else if b = 0 then (j, c) :: r else (k, b) :: (j, c) :: r

/-- The canonical form of memory: keys rising above a bound, no byte equal to what an unlisted key reads as. -/
def wfFrom (m : List Host.Cell) (lo : Nat) : Bool :=
  match m with
  | [] => true
  | (k, b) :: r => decide (lo ≤ k) && b != 0 && wfFrom r (k + 1)

/-- The canonical form of memory. -/
def Memory.wf (m : List Host.Cell) : Bool := wfFrom m 0

/-- The n bytes from a key. -/
def readBytes (m : List Host.Cell) (k n : Nat) : List Byte := (List.range n).map fun i => readByte m (k + i)

/-- Memory with bytes written from a key. -/
def writeBytes (m : List Host.Cell) (k : Nat) (bs : List Byte) : List Host.Cell :=
  match bs with
  | [] => m
  | b :: r => writeBytes (writeByte m k b) (k + 1) r

/-- The number that bytes hold, least significant first (R6). -/
def leNat (bs : List Byte) : Nat := bs.foldr (fun b n => b.toNat + 256 * n) 0

/-- The n bytes of a number, least significant first (R6). -/
def leBytes (n x : Nat) : List Byte := (List.range n).map fun i => BitVec.ofNat 8 (x / 2 ^ (8 * i))

/-- Some poisoned part holds a byte of the range (R398). -/
def poisoned (s : State) (k n : Nat) : Bool := s.poison.any fun p => decide (p * 8 < k + n) && decide (k < p * 8 + 8)

/-- A write that covers only part of a poisoned aligned 8-byte part (R400). -/
def partlyPoisoned (s : State) (k n : Nat) : Bool :=
  s.poison.any fun p =>
    decide (p * 8 < k + n) && decide (k < p * 8 + 8) && !(decide (k ≤ p * 8) && decide (p * 8 + 8 ≤ k + n))

/-- The state with bytes written; whole parts lose their poison and their single-bit errors (R398, R400). -/
def storeBytes (s : State) (k : Nat) (bs : List Byte) : State :=
  { s with
    mem := writeBytes s.mem k bs
    poison := s.poison.filter fun p => !(decide (k ≤ p * 8) && decide (p * 8 + 8 ≤ k + bs.length))
    soft := s.soft.filter fun p => !(decide (p * 8 < k + bs.length) && decide (k < p * 8 + 8)) }

/-- The state with single bytes written. -/
def storeEach (s : State) (bs : List (Nat × Byte)) : State :=
  match bs with
  | [] => s
  | (k, b) :: r => storeEach { s with mem := writeByte s.mem k b } r

/-- The state with n bytes from a key as nothing has written them: zero, without poison or single-bit errors, and no
object initialised there. -/
def State.clearRange (s : State) (k n : Nat) : State :=
  { s with
    mem := s.mem.filter fun c => !(decide (k ≤ c.1) && decide (c.1 < k + n))
    poison := s.poison.filter fun p => !(decide (k ≤ p * 8) && decide (p * 8 < k + n))
    soft := s.soft.filter fun p => !(decide (k ≤ p * 8) && decide (p * 8 < k + n))
    objects := s.objects.filter fun o => !(decide (k ≤ o.1) && decide (o.1 < k + n)) }

/-- A number inserted in a rising list. -/
def insertNat (l : List Nat) (p : Nat) : List Nat :=
  match l with
  | [] => [p]
  | q :: r => if q < p then q :: insertNat r p else if q = p then l else p :: l

/-- The state with every aligned 8-byte part that a range meets poisoned (R398). -/
def State.poisonRange (s : State) (k n : Nat) : State :=
  { s with
    poison := (List.range (if n = 0 then 0 else (k + n - 1) / 8 + 1 - k / 8)).foldl
      (fun l p => insertNat l (k / 8 + p)) s.poison }

/-! ## Fields of words -/

/-- Bits lo+n−1:lo of a word as a number. -/
def bits (w : Word) (lo n : Nat) : Nat := field w.toNat lo n

/-- A word with bits lo+n−1:lo replaced by the low bits of x. -/
def setBits (w : Word) (lo n : Nat) (x : Nat) : Word :=
  BitVec.ofNat 64 (w.toNat - bits w lo n * 2 ^ lo + (x % 2 ^ n) * 2 ^ lo)

/-- Zero-extend a number to a word. -/
def word (n : Nat) : Word := BitVec.ofNat 64 n

/-- The signed value of the low n bits of a number. -/
def signedOf (n x : Nat) : Int := (BitVec.ofNat n x).toInt

/-- SignExtend(IMM32). -/
def sext32 (imm : BitVec 32) : Word := imm.signExtend 64

/-! ## Cores and their places -/

/-- A core by physical index; an unlisted core stands in its reset state. -/
def State.core (s : State) (i : Nat) : Core := tget {} s.cores i

/-- The state with one core replaced. -/
def State.setCore (s : State) (i : Nat) (c : Core) : State := { s with cores := tset s.cores i c }

/-- The state with one core changed. -/
def State.onCore (s : State) (i : Nat) (f : Core → Core) : State := s.setCore i (f (s.core i))

/-- The core that issues. -/
def State.self (s : State) : Core := s.core s.cur

/-- The state with the issuing core replaced. -/
def State.setSelf (s : State) (c : Core) : State := s.setCore s.cur c

/-- A cluster by index. -/
def State.cluster (s : State) (i : Nat) : Cluster := tget {} s.clusters i

/-- The state with one cluster replaced. -/
def State.setCluster (s : State) (i : Nat) (c : Cluster) : State := { s with clusters := tset s.clusters i c }

/-- Physical coordinates of a core index (R13). -/
def coreX (i : Nat) : Nat := i % 1024

/-- Physical row of a core index (R13). -/
def coreY (i : Nat) : Nat := i / 1024

/-- ClusterIndex of R13, from coordinates. -/
def clusterIndex (x y : Nat) : Nat := (y / 4) * 256 + x / 4

/-- MemberIndex of R13. -/
def memberIndex (x y : Nat) : Nat := (y % 4) * 4 + x % 4

/-- HallIndex of R13. -/
def hallIndex (x y : Nat) : Nat := (y / 64) * 16 + x / 64

/-- DieIndex of R13. -/
def dieIndex (x y : Nat) : Nat := (y / 320) * 2 + x / 512

/-- The cluster of a core. -/
def clusterOf (i : Nat) : Nat := clusterIndex (coreX i) (coreY i)

/-- The hall of a core. -/
def hallOf (i : Nat) : Nat := hallIndex (coreX i) (coreY i)

/-- The die of a core. -/
def dieOf (i : Nat) : Nat := dieIndex (coreX i) (coreY i)

/-- The correctable-error counter that a storage key belongs to (R398, R435): a hall's, or 256 and a controller's. -/
def errOwner (k : Nat) : Option Nat :=
  let i := k / 2 ^ 64 % 2 ^ 24
  match k / 2 ^ 64 / 2 ^ 24 with
  | 0 => some (hallOf i)
  | 1 => some (hallIndex (4 * (i % 256)) (4 * (i / 256)))
  | 2 => some i
  | 3 => some (256 + i)
  | _ => none

/-- n more corrected errors of a counter. -/
def State.countErrors (s : State) (owner n : Nat) : State :=
  { s with board := { s.board with errors := tset s.board.errors owner (tget 0 s.board.errors owner + n) } }

/-- A read of n bytes corrects the single-bit errors of the parts that it meets, writes them back and counts them
(R398). -/
def State.correct (s : State) (k n : Nat) : State :=
  let hit (p : Nat) : Bool := decide (p * 8 < k + n) && decide (k < p * 8 + 8)
  match s.soft.filter hit with
  | [] => s
  | l =>
    let t := { s with soft := s.soft.filter (!hit ·) }
    match errOwner k with
    | some o => t.countErrors o l.length
    | none => t

/-- A partition by number. -/
def State.part? (s : State) (p : Nat) : Option Partition := tget? s.parts p

/-- The state with one partition replaced. -/
def State.setPart (s : State) (p : Nat) (x : Partition) : State := { s with parts := tset s.parts p x }

/-- The partition that holds a core, with its number: halls belong to one partition at most (R372). -/
def State.partOf? (s : State) (i : Nat) : Option (Nat × Partition) :=
  s.parts.find? fun p =>
    decide (64 * p.2.hx0 ≤ coreX i) && decide (coreX i < 64 * (p.2.hx0 + p.2.hw))
      && decide (64 * p.2.hy0 ≤ coreY i) && decide (coreY i < 64 * (p.2.hy0 + p.2.hh))

/-- The virtual origin of a core's partition in physical coordinates (R373); the lattice's for a core in none. -/
def State.origin (s : State) (i : Nat) : Nat × Nat :=
  match s.partOf? i with
  | some (_, p) => (64 * p.hx0, 64 * p.hy0)
  | none => (0, 0)

/-- The number of a core's partition; 64 for a core in none. -/
def State.pnum (s : State) (i : Nat) : Nat :=
  match s.partOf? i with
  | some (n, _) => n
  | none => 64

/-- Virtual coordinates of a core (R373). -/
def State.virt (s : State) (i : Nat) : Nat × Nat := (coreX i - (s.origin i).1, coreY i - (s.origin i).2)

/-- The virtual node identifier of a core (R19, R373). -/
def State.nodeOf (s : State) (i : Nat) : Nat := (s.virt i).2 * 1024 + (s.virt i).1

/-- The physical core at virtual coordinates of the partition that core i belongs to (R373), none outside it. -/
def State.physAt? (s : State) (i x y : Nat) : Option Nat :=
  match s.partOf? i with
  | some (_, p) =>
    if x < 64 * p.hw ∧ y < 64 * p.hh then some ((64 * p.hy0 + y) * 1024 + 64 * p.hx0 + x) else none
  | none => if x < 1024 ∧ y < 640 then some (y * 1024 + x) else none

/-- The physical core of a virtual node identifier of kind 0 (R19). -/
def State.physNode? (s : State) (i node : Nat) : Option Nat :=
  if node / 2 ^ 20 = 0 then s.physAt? i (node % 1024) (node % 2 ^ 20 / 1024) else none

/-- The neighbour through a lattice port 0 lw, 1 ln, 2 le, 3 ls, inside the partition (R15). -/
def State.neighbour? (s : State) (i : Nat) (port : Nat) : Option Nat :=
  let v := s.virt i
  match port with
  | 0 => if 0 < v.1 then s.physAt? i (v.1 - 1) v.2 else none
  | 1 => if 0 < v.2 then s.physAt? i v.1 (v.2 - 1) else none
  | 2 => s.physAt? i (v.1 + 1) v.2
  | _ => s.physAt? i v.1 (v.2 + 1)

/-- The opposite port: lw and le, ln and ls. -/
def opposite (port : Nat) : Nat := (port + 2) % 4

/-- A partition's number and record held or not: the hold of R352. -/
def State.heldPart (s : State) (i : Nat) : Bool :=
  match s.partOf? i with
  | some (_, p) => p.hold
  | none => false

/-- A fresh number. -/
def State.bump (s : State) : State := { s with fresh := s.fresh + 1 }

/-- The ports that lead to a package, by its route mask (R442). -/
def State.portsTo (s : State) (pkg : Nat) : List Nat :=
  (List.range 16).filter fun i => (s.board.routes[pkg % 512]!).getLsbD i

/-- The port of a class O transfer to a package (R442); none where its mask is zero. -/
def State.portO? (s : State) (pkg : Nat) : Option Nat :=
  let l := s.portsTo pkg
  if l.isEmpty then none else l[pkg % l.length]?

/-- Flits that stand at a port. -/
def Port.load (p : Port) : Nat := p.retry.length + p.queued.length

/-- The port that a transfer of a class takes to a package (R442). -/
def State.portFor? (s : State) (pkg : Nat) (cls : Cls) : Option Nat :=
  if cls = .o then s.portO? pkg
  else ((s.portsTo pkg).filter fun i => (tget {} s.ports i).up).foldl (fun (r : Option Nat) i =>
    match r with
    | none => some i
    | some j => if (tget {} s.ports i).load < (tget {} s.ports j).load then some i else r) none

/-- The code of a flit kind (R440). -/
def flitCode : FlitKind → Nat
  | .idle => 0 | .data => 1 | .ack => 2 | .nak => 3 | .mgmt => 4

/-- The nonce of a slot (R380): the salt, then the 64-bit counter. -/
def linkNonce (salt : BitVec 32) (slot : Nat) : BitVec 96 := salt ++ BitVec.ofNat 64 slot

/-- A payload encrypted or decrypted (R380). -/
def linkCrypt (key : BitVec 256) (nonce : BitVec 96) (bs : List Byte) : List Byte :=
  bs.mapIdx fun n b => b ^^^ Config.gcmStream key nonce n

/-- The tag of a flit with an encrypted payload. -/
def linkTag (key : BitVec 256) (nonce : BitVec 96) (f : Flit) : BitVec 128 :=
  Config.gcmTag key nonce (flitCode f.kind) f.seq f.credits f.payload

/-- A flit put on the line in the transmitter's next slot, encrypted and authenticated under it (R380, R381). -/
def Port.transmit (p : Port) (f : Flit) : Port :=
  let nonce := linkNonce p.txSalt p.txSlot
  let g := { f with payload := linkCrypt p.txKey nonce f.payload }
  { p with wire := p.wire ++ [{ g with tag := linkTag p.txKey nonce g }], txSlot := p.txSlot + 1 }

/-- Slots after which a port is to be trained again, before its counters reach 2^62 (R381). -/
def retrainAt : Nat := 2 ^ 61

/-- Whether a port is to be trained again: at the retry limit, or for its counters (R381, R441). -/
def Port.due (p : Port) : Bool := p.limit || decide (retrainAt ≤ p.txSlot) || decide (retrainAt ≤ p.rxSlot)

/-- Whether a port works: it is up, and does not wait for retraining. -/
def Port.works (p : Port) : Bool := p.up && !p.due

/-- A data flit sent by a port, or queued while its retry buffer is full or it is to be trained (R440). -/
def Port.sends (p : Port) (f : Flit) : Port :=
  if p.queued.isEmpty ∧ p.retry.length < 512 ∧ p.works then
    let f := { f with seq := p.txSeq }
    { p with retry := p.retry ++ [(f, 0)], txSeq := (p.txSeq + 1) % 4096 }.transmit f
  else { p with queued := p.queued ++ [f] }

/-- A transfer leaves for another package (R440, R442): one data flit, whose payload the spec leaves open (log 15). -/
def State.leave (s : State) (pkg : Nat) (x : Transfer) : State :=
  match s.portFor? pkg x.cls with
  | none => s
  | some i =>
    let f : Flit :=
      { kind := .data, seq := 0, payload := (List.range 232).map fun j => Config.freeBits s.free (2 ^ 40 + j) 8,
        credits := (Config.freeBits s.free 82 16).toNat, carries := some x }
    { s with ports := tset s.ports i ((tget {} s.ports i).sends f), free := s.free + 1 }

/-- The partition that holds a physical hall (R372). -/
def State.partOfHall? (s : State) (h : Nat) : Option (Nat × Partition) :=
  s.parts.find? fun p =>
    decide (p.2.hx0 ≤ h % 16) && decide (h % 16 < p.2.hx0 + p.2.hw)
      && decide (p.2.hy0 ≤ h / 16) && decide (h / 16 < p.2.hy0 + p.2.hh)

/-- A partition's own node identifier of a node of this package (R19): virtual for a core, a matrix unit or a hall
interface. -/
def State.asSeen (s : State) (node : Nat) : Nat :=
  match node / 2 ^ 20 with
  | 0 => s.nodeOf node
  | 5 => 5 * 2 ^ 20 + s.nodeOf (node % 2 ^ 20)
  | 1 =>
    match s.partOfHall? (node % 2 ^ 20) with
    | some (_, p) => 2 ^ 20 + (node % 2 ^ 20 / 16 - p.hy0) * 16 + (node % 16 - p.hx0)
    | none => node
  | _ => node

/-- The package and the node identifier that a destination number names: a node of this package with physical indices,
or a node beyond it. -/
def State.placeOf (s : State) (n : Nat) : Nat × Nat :=
  if n < 2 ^ 24 then (s.board.peer, s.asSeen n) else (n / 2 ^ 24 - 1, n % 2 ^ 24)

/-- The destination number of a node of another package. -/
def beyond (pkg node : Nat) : Nat := (pkg + 1) * 2 ^ 24 + node % 2 ^ 24

/-- The tag of a partition's tenant (R374). -/
def State.tagOf (s : State) (pnum : Nat) : Nat :=
  match s.part? pnum with
  | some p => p.ttag
  | none => 0

/-- A message of a tenant from a node, by its destination number, enters the network. -/
def State.sendAs (s : State) (ttag dst ep chan origin : Nat) (cls : Cls) (b : Body) : State :=
  { s with
    net := s.net ++ [{ id := s.fresh, dst := dst, ep := ep, chan := chan, src := (s.placeOf origin).2, origin := origin,
                       cls := cls, ttag := ttag, body := b }]
    fresh := s.fresh + 1 }

/-- A message from a core's node. -/
def State.send (s : State) (dst ep chan origin : Nat) (cls : Cls) (b : Body) : State :=
  s.sendAs (s.tagOf (s.pnum (origin % 2 ^ 20))) dst ep chan origin cls b

/-- Post an event to the host (R437): code, partition and data words. -/
def State.post (s : State) (code pnum : Nat) (ws : List Word) : State :=
  { s with board := { s.board with events := s.board.events ++ [word (code + pnum * 256) :: ws] } }

/-! ## Control-register fields -/

/-- kpriv.LEVEL (R35). -/
def Core.level (c : Core) : Nat := bits c.kpriv 0 2

/-- kpriv.LNCH. -/
def Core.lnch (c : Core) : Bool := bits c.kpriv 8 1 == 1

/-- kcore.LUTRAP. -/
def Core.lutrap (c : Core) : Bool := bits c.kcore 2 1 == 1

/-- kcore.DSTEP. -/
def Core.dstep (c : Core) : Bool := bits c.kcore 1 1 == 1

/-- kcore.MIE. -/
def Core.mie (c : Core) : Nat := bits c.kcore 0 1

/-- kstatus.INTRAP. -/
def Core.intrap (c : Core) : Bool := bits c.kstatus 3 1 == 1

/-- kstair.MEMB, HEAD, DET, POS, TREAD and LEN. -/
def Core.memb (c : Core) : Bool := bits c.kstair 28 1 == 1

/-- kstair.HEAD. -/
def Core.isHead (c : Core) : Bool := bits c.kstair 27 1 == 1

/-- kstair.DET. -/
def Core.detached (c : Core) : Bool := bits c.kstair 26 1 == 1

/-- An attached follower of a stair (R110). -/
def Core.follower (c : Core) : Bool := c.memb && !c.isHead && !c.detached

/-- The offset of the trap record (R392). -/
def Core.recordAt (c : Core) : Nat := 0x1EFC0 - c.chb

/-! ## Registers -/

/-- The value of a g register: g0 is zero, a freed one is undefined (R26, R30). `n` and `k` name the free value. -/
def Core.gVal (c : Core) (n k : Nat) (r : Fin 64) : Word :=
  if r = 0 then 0 else if c.gFreed.getLsbD r.val then Config.freeBits n k 64 else c.g[r]

/-- The value of a v register. -/
def Core.vVal (c : Core) (n k : Nat) (r : Fin 32) : VReg :=
  if c.vFreed.getLsbD r.val then Config.freeBits n k 256 else c.v[r]

/-- The value of a q register: q0 is all ones (R26). -/
def Core.qVal (c : Core) (n k : Nat) (r : Fin 8) : QReg :=
  if r = 0 then BitVec.allOnes 32 else if c.qFreed.getLsbD r.val then Config.freeBits n k 32 else c.q[r]

/-- Write a g register and make it live; a write to g0 is discarded (R26, R30). -/
def Core.setG (c : Core) (r : Fin 64) (x : Word) : Core :=
  if r = 0 then c
  else { c with g := c.g.set r x, gFreed := c.gFreed &&& ~~~(1#64 <<< r.val) }

/-- Write a v register and make it live. -/
def Core.setV (c : Core) (r : Fin 32) (x : VReg) : Core :=
  { c with v := c.v.set r x, vFreed := c.vFreed &&& ~~~(1#32 <<< r.val) }

/-- Write a q register and make it live; a write to q0 is discarded. -/
def Core.setQ (c : Core) (r : Fin 8) (x : QReg) : Core :=
  if r = 0 then c
  else { c with q := c.q.set r x, qFreed := c.qFreed &&& ~~~(1#8 <<< r.val) }

/-- Free a register after its last use; g0 and q0 are not freed (R30). -/
def Core.freeReg (c : Core) (o : Opnd) : Core :=
  match o with
  | .g r => if r = 0 then c else { c with gFreed := c.gFreed ||| (1#64 <<< r.val) }
  | .v r => { c with vFreed := c.vFreed ||| (1#32 <<< r.val) }
  | .q r => if r = 0 then c else { c with qFreed := c.qFreed ||| (1#8 <<< r.val) }
  | _ => c

/-- Whether an operand names a freed register (R26). -/
def Core.isFreed (c : Core) (o : Opnd) : Bool :=
  match o with
  | .g r => r != 0 && c.gFreed.getLsbD r.val
  | .v r => c.vFreed.getLsbD r.val
  | .q r => r != 0 && c.qFreed.getLsbD r.val
  | _ => false

/-- Write a destination that accepts g, or nothing (0xFF discards). -/
def Core.setDst (c : Core) (o : Opnd) (x : Word) : Core :=
  match o with
  | .g r => c.setG r x
  | .q r => c.setQ r (x.truncate 32)
  | _ => c

/-! ## Local stores of a core -/

/-- A dirty mask with the pages of a TCM range set (R365). -/
def dirtyPages (d : BitVec 96) (off n : Nat) : BitVec 96 :=
  let pages := if n = 0 then 0 else (off + n - 1) / 4096 + 1 - off / 4096
  (List.range pages).foldl (fun d i => d ||| (1#96 <<< (off / 4096 + i))) d

/-- The dirty mask with the pages of a TCM range set (R365). -/
def Core.touchTcm (c : Core) (off n : Nat) : Core := { c with dirty := dirtyPages c.dirty off n }

/-- Bytes written to a core's TCM, with its dirty bits (R365). -/
def State.storeTcm (s : State) (i off : Nat) (bs : List Byte) : State :=
  (storeBytes s (tcmKey i off) bs).onCore i (fun c => c.touchTcm off bs.length)

/-! ## Code addresses -/

/-- FallThrough of an instruction that stands alone or second in a pair (R45): the next slot, or slot 0 of the next
line. -/
def nextAddr (pc : Word) : Word := if bits pc 0 3 < 4 then pc + 1 else pc - word (bits pc 0 3) + 64

/-! ## Traps -/

/-- A trap to be taken: class, detail, ktval, and kepc where it is not the trapping instruction's code address. -/
structure Trap where
  cls : Nat
  detail : Nat
  tval : Word := 0
  epc : Option Word := none
  /-- words 1 to 7 of the trap record (R392) -/
  record : List Word := []
  deriving DecidableEq, Repr, Inhabited

/-- Mark the bound endpoints of a core held and send hold notices, or release them (R174). -/
def State.holdEndpoints (s : State) (i : Nat) (on : Bool) : State :=
  (List.range 20).foldl (fun (s : State) (e : Nat) =>
    let c := s.core i
    let ep := c.eps[e]!
    if ep.mode = .unbound then s
    else
      let s := s.setCore i { c with eps := c.eps.set! e { ep with held := on } }
      let body : Body := if on then .hold else .release
      match ep.binding with
      | .link =>
        match s.neighbour? i (e - 16) with
        | some j => s.send j (16 + opposite (e - 16)) 0 i .o body
        | none => s
      | .user =>
        if ep.peerPkg ≠ s.board.peer then
          s.send (beyond ep.peerPkg ep.peer) ep.peerEp ep.chan i .o body
        else
          match s.physNode? i ep.peer with
          | some j => s.send j ep.peerEp ep.chan i .o body
          | none => s
      | _ => s) s

/-- A monitor event of a core (R394): it enters P2, where monitor firmware halts it as by a debug halt, and MONITOR is
posted with a kcause. -/
def State.monitorEvent (s : State) (i : Nat) (cause : Word) : State :=
  let s := s.onCore i fun c =>
    { c with halted := true, monitored := true, wait := none, enteredFrom := c.level, kpriv := setBits c.kpriv 0 2 2 }
  let s := s.holdEndpoints i true
  s.post 2 (s.pnum i) [word (coreY i * 2 ^ 16 + coreX i), cause, 0]

/-- A follower that traps steps off its stair: DET is set and it runs on its own fetch (R116). -/
def Core.stepOff (c : Core) : Core := if c.follower then { c with kstair := setBits c.kstair 26 1 1 } else c

/-- The 64 bytes of the trap record (R392). -/
def trapRecord (t : Trap) (seq : BitVec 32) : List Byte :=
  leBytes 8 (t.cls * 2 ^ 56 + t.detail * 2 ^ 48 + seq.toNat)
    ++ ((List.range 7).map fun i => leBytes 8 ((t.record[i]?).getD 0).toNat).flatten

/-- The registers that trap entry saves into (R393): kepc, kcause, ktval, kstatus, and the trap count (R392). The return
stack is emptied (R105). -/
def Core.saveTrap (c : Core) (t : Trap) : Core :=
  { c with
    kepc := t.epc.getD c.pc
    kcause := word (t.detail * 256 + t.cls)
    ktval := t.tval
    kstatus := word (8 + c.mie * 4 + c.level)
    trapSeq := c.trapSeq + 1
    calls := 0
    wait := none }

/-- Entry of the handler (R393): MIE off, level P1, slot 0 of the line in kvec. -/
def Core.enterHandler (c : Core) : Core :=
  { c with kcore := setBits c.kcore 0 1 0, kpriv := setBits c.kpriv 0 2 1, pc := c.kvec - word (bits c.kvec 0 6) }

/-- Taking a trap at a core (R393): the saved registers and the trap record are written, the status and the level
changed, and the core continues at kvec.BASE. A double trap, a trap at P2 and a trap without a handler are monitor
events (R394). A follower steps off its stair (R116). -/
def State.takeTrap (s : State) (i : Nat) (t : Trap) : State :=
  let c := s.core i
  if c.level = 2 then s.monitorEvent i (word (t.detail * 256 + t.cls))
  else if c.intrap then s.monitorEvent i c.kcause
  else
    let s := s.setCore i (c.saveTrap t).stepOff
    let s := s.storeTcm i c.recordAt (trapRecord t (c.trapSeq + 1))
    if bits c.kvec 6 58 = 0 then s.monitorEvent i (word (t.detail * 256 + t.cls))
    else s.onCore i Core.enterHandler

/-- Return from a trap (R396): kepc, the saved level and MIE, INTRAP cleared, the return stack emptied. -/
def Core.trapReturn (c : Core) : Core :=
  { c with
    kpriv := setBits c.kpriv 0 2 (bits c.kstatus 0 2)
    kcore := setBits c.kcore 0 1 (bits c.kstatus 2 1)
    kstatus := setBits c.kstatus 3 1 0
    calls := 0
    pc := c.kepc }

/-! ## How an instruction ends -/

/-- How an executed instruction ends. -/
inductive Result where
  /-- it completes, and the core goes on at its FallThrough -/
  | ok (s : State)
  /-- it completes, and the core goes on at a code address -/
  | jump (s : State) (pc : Word)
  /-- it traps on this state -/
  | trap (s : State) (t : Trap)
  /-- it waits; the core stays at it -/
  | wait (s : State) (w : Wait)
  /-- it completes and leaves the core where the state says -/
  | stay (s : State)

/-- The issuing core goes on at a code address, its wait ended. -/
def State.goOn (s : State) (pc : Word) : State := s.onCore s.cur fun c => { c with pc := pc, wait := none }

/-- The state after an instruction has ended. -/
def Result.state : Result → State
  | .ok s => s.goOn (nextAddr s.self.pc)
  | .jump s pc => s.goOn pc
  | .trap s t => s.takeTrap s.cur t
  | .wait s w => s.onCore s.cur fun c => { c with wait := some { w with pc := c.pc } }
  | .stay s => s

/-- A trap taken on a state by rule, in short. -/
def Result.fail (s : State) (cls detail : Nat) (tval : Word) : Result :=
  .trap s { cls := cls, detail := detail, tval := tval }

/-- A condition that traps, and otherwise the rest. -/
def Result.guardTrap (bad : Bool) (s : State) (cls detail : Nat) (tval : Word) (k : Unit → Result) : Result :=
  if bad then .trap s { cls := cls, detail := detail, tval := tval } else k ()

end Sys2Proof.Machine
end

