-- ==== Sys2Proof/Machine/Fetch.lean ====
section
/-! DEFINITION. Fetch lines (R40 to R47): the bytes of a line, its check, its slots and its branch targets. -/
namespace Sys2Proof.Machine

/-- The line address of a code address (R45). -/
def lineAddr (a : Word) : Word := a - word (bits a 0 6)

/-- The slot number of a code address (R45). -/
def slotNo (a : Word) : Nat := bits a 0 3

/-- The twelve bytes of slot i (R40). -/
def slotBytes (line : List Byte) (i : Nat) : List Byte := (line.drop (12 * i)).take 12

/-- The line word (R40). -/
def lineWord (line : List Byte) : Nat := leNat ((line.drop 60).take 4)

/-- One bits of a number of n bits. -/
def onesOf (n x : Nat) : Nat := ((List.range n).map fun i => field x i 1).sum

/-- PAIR bit of slot i (R41). -/
def pairBit (lw i : Nat) : Bool := decide (i < 4) && field lw (23 + i) 1 == 1

/-- TGT bit of slot i (R41). -/
def tgtBit (lw i : Nat) : Bool := field lw (27 + i) 1 == 1

/-- Slot i is the second slot of a pair. -/
def pairSecond (lw i : Nat) : Bool := decide (0 < i) && pairBit lw (i - 1)

/-- The family of slot i, OP 8:6 (R48). -/
def slotFamily (line : List Byte) (i : Nat) : Nat := field (leNat (slotBytes line i)) 93 3

/-- Items 2 and 3 of R43 for the pair of slots i and i+1. -/
def pairComposed (line : List Byte) (i : Nat) : Bool :=
  let a := slotFamily line i
  let b := slotFamily line (i + 1)
  !(a == 2 && b == 2) && !(a == 5 && b == 5) && !([1, 3, 4, 6, 7].contains a)

/-- The lowest DETAIL of R44 that makes a line illegal. -/
def lineDetail (line : List Byte) : Option Nat :=
  let lw := lineWord line
  let pairs := (List.range 4).filter (pairBit lw ·)
  if pairs.any fun i => pairBit lw (i + 1) then some 0x01
  else if field lw 6 17 != 0 then some 0x02
  else if (List.range 5).any fun i =>
      (onesOf 96 (leNat (slotBytes line i)) + field lw i 1) % 2 != 0 then some 0x03
  else if (onesOf 24 (field lw 8 24) + field lw 5 1) % 2 != 0 then some 0x04
  else if pairs.any fun i => tgtBit lw (i + 1) then some 0x05
  else if pairs.any fun i => !pairComposed line i then some 0x06
  else none

/-- The cached line of a code address (R108). -/
def Core.cached? (c : Core) (a : Word) : Option ILine := c.icache.find? fun l => l.addr == lineAddr a

/-- The DETAIL of R47 that refuses a branch target on its line. -/
def targetDetail (l : ILine) (a : Word) : Option Nat :=
  if 4 < bits a 0 3 ∨ bits a 3 3 ≠ 0 then some 0x02
  else if l.failed.isSome then none
  else
    let lw := lineWord l.bytes
    if !tgtBit lw (slotNo a) then some 0x01
    else if pairSecond lw (slotNo a) then some 0x03
    else none

/-- A line of 64 bytes that holds one instruction in slot 0, with the parities of R42. -/
def lineOfSlot (w : Slot) : List Byte :=
  bytesOfSlot w ++ List.replicate 48 0 ++ leBytes 4 (onesOf 96 w.toNat % 2)

end Sys2Proof.Machine
end

