-- ==== Sys2Proof/Machine/Protocol.lean ====
section
/-! DEFINITION. Protocol automata (R135 to R143): the canonical encoding, its check at load, and the reach. -/
namespace Sys2Proof.Machine

/-- A type entry (R138). -/
structure TypeEnt where
  kind : Nat
  fmt : Nat
  rows : Nat
  cols : Nat
  reserved : Nat
  protoId : Nat
  deriving DecidableEq, Repr, Inhabited

/-- A transition entry (R138). -/
structure Trans where
  src : Nat
  dst : Nat
  act : Nat
  arg : Nat
  window : Nat
  reserved : Nat
  deriving DecidableEq, Repr, Inhabited

/-- Bytes of a canonical encoding (R137). -/
def encBytes : Nat := 464

/-- A little-endian field of n bytes at an offset. -/
def fieldAt (bs : List Byte) (off n : Nat) : Nat := leNat ((bs.drop off).take n)

/-- NTYPE, NSTATE, NTRANS, FLAGS and PROTOID of an encoding (R137). -/
def nType (e : List Byte) : Nat := fieldAt e 0 1

/-- NSTATE. -/
def nState (e : List Byte) : Nat := fieldAt e 1 1

/-- NTRANS. -/
def nTrans (e : List Byte) : Nat := fieldAt e 2 1

/-- FLAGS bit 0. -/
def isValid (e : List Byte) : Bool := fieldAt e 3 1 % 2 == 1

/-- PROTOID. -/
def protoIdOf (e : List Byte) : Nat := fieldAt e 4 4

/-- Type entry k (R138). -/
def typeEnt (e : List Byte) (k : Nat) : TypeEnt :=
  let x := fieldAt e (0x10 + 8 * k) 8
  { kind := field x 61 3, fmt := field x 56 5, rows := field x 48 8, cols := field x 40 8,
    reserved := field x 32 8, protoId := field x 0 32 }

/-- NAMEIDX of state k (R137). -/
def nameIdx (e : List Byte) (k : Nat) : Nat := fieldAt e (0x90 + 2 * k) 2

/-- Transition entry k (R138). -/
def transEnt (e : List Byte) (k : Nat) : Trans :=
  let x := fieldAt e (0xD0 + 4 * k) 4
  { src := field x 27 5, dst := field x 22 5, act := field x 19 3, arg := field x 15 4, window := field x 5 10,
    reserved := field x 0 5 }

/-- The transitions of an encoding. -/
def transitions (e : List Byte) : List Trans := (List.range (nTrans e)).map (transEnt e)

/-- Bits(FMT) of a tile's element code; FMT accepts 0–16, 21 and 22 (R135). -/
def fmtBits (f : Nat) : Option Nat := if f ≤ 16 ∨ f = 21 ∨ f = 22 then (tyOfCode f).map tyBits else none

/-- The size in bytes of a message of a type (R135). -/
def msgSize (t : TypeEnt) : Nat :=
  match t.kind with
  | 1 | 3 => 32
  | 2 => t.rows * t.cols * (fmtBits t.fmt).getD 0 / 8
  | _ => 8

/-- The sending actions: send, select, sendep (R136). -/
def sendsAct (a : Nat) : Bool := a == 0 || a == 2 || a == 4

/-- The receiving actions: recv, offer, recvep. -/
def recvsAct (a : Nat) : Bool := a == 1 || a == 3 || a == 5

/-- The counterpart of an action in the dual (R143). -/
def dualAct : Nat → Nat
  | 0 => 1 | 1 => 0 | 2 => 3 | 3 => 2 | 4 => 5 | 5 => 4 | a => a

/-- The transitions of the dual. -/
def dualTrans (ts : List Trans) : List Trans := ts.map fun t => { t with act := dualAct t.act }

/-- R143: two encodings are duals. -/
def duals (a b : List Byte) : Bool :=
  nType a == nType b && nState a == nState b && nTrans a == nTrans b
    && (List.range 16).all (fun k => typeEnt a k == typeEnt b k)
    && (transitions b == dualTrans (transitions a))

/-- The largest weight of a sequence of sending transitions from a state, each with WINDOW w used at most w times
(R141). `caps` holds the uses left per transition; a sequence of more than `fuel` transitions weighs as `fuel`. -/
def longest (ts : List (Trans × Nat)) (weight : Trans → Nat) (caps : List Nat) (fuel st : Nat) : Nat :=
  match fuel with
  | 0 => 0
  | f + 1 =>
    (ts.map fun (t, k) =>
      if t.src = st ∧ sendsAct t.act ∧ (t.window = 0 ∨ 0 < (caps[k]?).getD 0) then
        weight t + longest ts weight (caps.set k ((caps[k]?).getD 0 - 1)) f t.dst
      else 0).foldl max 0

/-- The largest weight over every start state, sequences cut at 1,024 transitions (reason 6 refuses above 1,023). -/
def reach (n : Nat) (ts : List Trans) (weight : Trans → Nat) : Nat :=
  ((List.range n).map fun st =>
    longest ts.zipIdx weight (ts.map (·.window)) 1024 st).foldl max 0

/-- OUTMSG of an encoding (R141). -/
def outMsg (e : List Byte) : Nat := reach (nState e) (transitions e) fun _ => 1

/-- INMSG: OUTMSG of the dual. -/
def inMsg (e : List Byte) : Nat := reach (nState e) (dualTrans (transitions e)) fun _ => 1

/-- OUTBYTES. -/
def outBytes (e : List Byte) : Nat := reach (nState e) (transitions e) fun t => msgSize (typeEnt e t.arg)

/-- INBYTES. -/
def inBytes (e : List Byte) : Nat := reach (nState e) (dualTrans (transitions e)) fun t => msgSize (typeEnt e t.arg)

/-- SLOTSZ: the largest message size, rounded up to a multiple of 32 (R137). -/
def slotSize (e : List Byte) : Nat :=
  (((List.range (nType e)).map fun k => msgSize (typeEnt e k)).foldl max 0 + 31) / 32 * 32

/-- One step of CRC-32 over a bit. -/
def crcBit (c : BitVec 32) : BitVec 32 := if c.getLsbD 0 then (c >>> 1) ^^^ 0xEDB88320#32 else c >>> 1

/-- CRC-32 of IEEE 802.3. -/
def crc32 (bs : List Byte) : BitVec 32 :=
  ~~~(bs.foldl (fun c b =>
    crcBit (crcBit (crcBit (crcBit (crcBit (crcBit (crcBit (crcBit (c ^^^ b.zeroExtend 32)))))))))
    (BitVec.allOnes 32))

/-- The bytes over which PROTOID is computed: VALID, PROTOID and every NAMEIDX as zero (R139). -/
def idBytes (e : List Byte) : List Byte :=
  (e.take encBytes).mapIdx fun i b =>
    if 4 ≤ i ∧ i < 8 then 0 else if 0x90 ≤ i ∧ i < 0xD0 then 0 else if i = 3 then b &&& 0xFE else b

/-- Reason 1 of R140. -/
def badLayout (e : List Byte) : Bool :=
  !(1 ≤ nType e && nType e ≤ 16 && 1 ≤ nState e && nState e ≤ 32 && 1 ≤ nTrans e && nTrans e ≤ 64)
  || decide (2 ≤ fieldAt e 3 1) || fieldAt e 8 8 != 0
  || (List.range 16).any (fun k => decide (nType e ≤ k) && fieldAt e (0x10 + 8 * k) 8 != 0)
  || (List.range 32).any (fun k => decide (nState e ≤ k) && nameIdx e k != 0)
  || (List.range 64).any (fun k => decide (nTrans e ≤ k) && fieldAt e (0xD0 + 4 * k) 4 != 0)
  || (List.range (nType e)).any (fun k =>
      let t := typeEnt e k
      t.reserved != 0 || (t.kind != 2 && (t.rows != 0 || t.cols != 0))
        || (t.kind != 3 && t.protoId != 0) || (t.kind != 2 && t.kind != 3 && t.fmt != 0))
  || (transitions e).any (fun t =>
      t.reserved != 0 || (t.act == 6 && (t.dst != 0 || t.arg != 0 || t.window != 0)))

/-- Reason 2 of R140. -/
def badType (t : TypeEnt) : Bool :=
  decide (5 ≤ t.kind) || (t.kind == 2 &&
    (match fmtBits t.fmt with
     | none => true
     | some b => t.rows == 0 || t.cols == 0 || decide (8 * 1024 < t.rows * t.cols * b)
                   || t.rows * t.cols * b % 8 != 0))

/-- Whether an action carries a kind of type (R135, reason 3 of R140). -/
def carries (act kind : Nat) : Bool :=
  match act with
  | 0 | 1 => decide (kind ≤ 2)
  | 2 | 3 => kind == 4
  | 4 | 5 => kind == 3
  | _ => true

/-- Reason 3 of R140. -/
def badTrans (e : List Byte) (t : Trans) : Bool :=
  decide (nState e ≤ t.src) || decide (nState e ≤ t.dst) || t.act == 7 || decide (nType e ≤ t.arg)
    || !carries t.act (typeEnt e t.arg).kind

/-- Distinct numbers. -/
def distinct (l : List Nat) : Bool := l.eraseDups.length == l.length

/-- Whether a state's transitions follow R136. -/
def classed (ts : List Trans) : Bool :=
  let n (a : Nat) := (ts.filter fun t => t.act == a).length
  let one (send sel sendep : Nat) :=
    (n send + n sendep == 1 && n sel == 0)
      || (n send + n sendep == 0 && decide (0 < n sel)
          && distinct ((ts.filter fun t => t.act == sel).map (·.arg)))
  decide (n 6 ≤ 1) &&
    ((one 0 2 4 && !ts.any (fun t => recvsAct t.act)) || (one 1 3 5 && !ts.any (fun t => sendsAct t.act))
      || (ts.length == 1 && n 6 == 1))

/-- The states from which a walk of k sending transitions without WINDOW starts. -/
def openWalk (ts : List Trans) : Nat → List Nat → List Nat
  | 0, sts => sts
  | k + 1, sts =>
    openWalk ts k (sts.filter fun st =>
      ts.any fun t => t.src == st && sendsAct t.act && t.window == 0 && sts.contains t.dst)

/-- The lowest reason of R140 to refuse an encoding, for a CHB in bytes; `bound` is reason 9. -/
def refusal (e : List Byte) (chb : Nat) (bound : Bool) : Option Nat :=
  if badLayout e then some 1
  else if (List.range (nType e)).any fun k => badType (typeEnt e k) then some 2
  else if (transitions e).any (badTrans e) then some 3
  else if (List.range (nState e)).any fun k => !classed ((transitions e).filter fun t => t.src == k) then some 4
  else if !(openWalk (transitions e) (nState e) (List.range (nState e))).isEmpty then some 5
  else if 1023 < outMsg e ∨ 1023 < inMsg e then some 6
  else if chb < inMsg e * slotSize e then some 7
  else if (crc32 (idBytes e)).toNat != protoIdOf e then some 8
  else if bound then some 9
  else none

/-- The 512 bytes of a loaded slot: the encoding with VALID set and the computed bytes 0x1D0–0x1FF (R137, R141). -/
def loadedSlot (e : List Byte) : List Byte :=
  ((e.take encBytes).set 3 1) ++ leBytes 2 (outMsg e) ++ leBytes 2 (inMsg e) ++ leBytes 4 (outBytes e)
    ++ leBytes 4 (inBytes e) ++ leBytes 2 (slotSize e) ++ List.replicate 34 0

/-- The TCM offset of protocol slot n (R38). -/
def slotOffset (n : Nat) : Nat := 0x1F000 + 512 * n

/-- The 512 bytes of a core's protocol slot. -/
def State.slot (s : State) (i n : Nat) : List Byte := readBytes s.mem (tcmKey i (slotOffset n)) 512

/-- OUTMSG as the loader stored it. -/
def storedOutMsg (e : List Byte) : Nat := fieldAt e 0x1D0 2

/-- INMSG as the loader stored it. -/
def storedInMsg (e : List Byte) : Nat := fieldAt e 0x1D2 2

/-- SLOTSZ as the loader stored it. -/
def storedSlotSize (e : List Byte) : Nat := fieldAt e 0x1DC 2

/-- The transition of a state with an action and a type. -/
def theTransition? (e : List Byte) (st act mt : Nat) : Option Trans :=
  (transitions e).find? fun t => t.src == st && t.act == act && t.arg == mt

/-- The transition of a state with an action, whatever its type. -/
def anyTransition? (e : List Byte) (st act : Nat) : Option Trans :=
  (transitions e).find? fun t => t.src == st && t.act == act

/-- A loop head: state 0, or the target of a transition whose FROM is at least its TO (R146). -/
def isLoopHead (e : List Byte) (st : Nat) : Bool :=
  st == 0 || (transitions e).any fun t => t.act != 6 && t.dst == st && decide (t.dst ≤ t.src)

/-- A state is external: it has a receiving transition (R136). -/
def isExternal (e : List Byte) (st : Nat) : Bool := (transitions e).any fun t => t.src == st && recvsAct t.act

end Sys2Proof.Machine
end

