-- ==== Sys2Proof/Machine/Places.lean ====
section
/-! DEFINITION. Status codes, interfaces and their memories (R359), and where global addresses lead (R123, R128 to R130,
R374). -/
namespace Sys2Proof.Machine

/-! ## Statuses -/

/-- Shared status codes (R10, R130, R222, R362). -/
def stOk : Nat := 0x00
/-- NO-PEER. -/
def stNoPeer : Nat := 0x02
/-- PAGE-UNRESOLVED. -/
def stUnresolved : Nat := 0x03
/-- POISON. -/
def stPoison : Nat := 0x04
/-- ADDRESS. -/
def stAddress : Nat := 0x0A
/-- ACCESS-DENIED. -/
def stDenied : Nat := 0x10
/-- TABLE-BAD. -/
def stTable : Nat := 0x11
/-- PAGE-DENIED. -/
def stPage : Nat := 0x12
/-- RESET (R397). -/
def stReset : Nat := 0x19

/-- ATOM-PLACE. -/
def stAtomPlace : Nat := 0x18

/-! ## Interfaces and their memories -/

/-- Kind of a node identifier (R19). -/
def nodeKind (n : Nat) : Nat := n / 2 ^ 20

/-- Index of a node identifier. -/
def nodeIdx (n : Nat) : Nat := n % 2 ^ 20

/-- Node identifier of a physical hall interface. -/
def hallNode (h : Nat) : Nat := 2 ^ 20 + h

/-- Node identifier of the gateway of a Kalfa port (R18). -/
def gatewayNode (port : Nat) : Nat := 4 * 2 ^ 20 + port

/-- Node identifier of a far-memory controller. -/
def farNode (c : Nat) : Nat := 2 * 2 ^ 20 + c

/-- Node identifier of the host interface. -/
def hostNode : Nat := 3 * 2 ^ 20

/-- Storage key of a physical address of an interface (R359). -/
def physKey (node p : Nat) : Nat := memKey (nodeKind node + 1) (nodeIdx node) p

/-- First byte of a near-DRAM slice (R359). -/
def nearBase : Nat := 0x100000000

/-- Bytes of the near-DRAM slice of a physical hall (R359). -/
def sliceBytes (h : Nat) : Nat :=
  let die := (h / 16 % 5) * 8 + h % 16 % 8
  (if 24 ≤ die then 26215 else 26214) * 65536

/-- Whether n bytes lie in the ranges of an interface (R359). -/
def physOk (node p n : Nat) : Bool :=
  match nodeKind node with
  | 1 => decide (p + n ≤ Config.hallStoreBytes)
      || (decide (nearBase ≤ p) && decide (p + n ≤ nearBase + sliceBytes (nodeIdx node)))
  | 2 => decide (p + n ≤ Config.farBytes)
  | _ => decide (p + n ≤ 2 ^ 52)

/-- The interface and physical address of a device physical address (R431). -/
def dpaOf? (a : Nat) : Option (Nat × Nat) :=
  if a < 0x8000000000 then
    let h := a / 0x80000000
    let p := a % 0x80000000
    if h < 160 ∧ p < sliceBytes h then some (hallNode h, nearBase + p) else none
  else
    let c := (a - 0x8000000000) / Config.farBytes
    if c < 8 then some (farNode c, (a - 0x8000000000) % Config.farBytes) else none

/-- An interface by node identifier. -/
def State.iface (s : State) (node : Nat) : Iface := tget {} s.ifaces node

/-- The state with one interface replaced. -/
def State.setIface (s : State) (node : Nat) (f : Iface) : State := { s with ifaces := tset s.ifaces node f }

/-! ## Destinations -/

/-- Where a global address leads. -/
inductive Dest where
  /-- malformed (R123, R130) -/
  | malformed
  /-- unreachable (R129, R374) -/
  | noPeer
  /-- another package -/
  | away (peer : Nat)
  /-- an interface of this package: node, window and the address within it (R358) -/
  | here (node w v : Nat)
  deriving DecidableEq, Repr

/-- PEER of a global address (R128). -/
def peerOf (a : Word) : Nat := bits a 48 9

/-- WIN of a global address. -/
def winOf (a : Word) : Nat := bits a 44 4

/-- A global address that R123 or R130 calls malformed. -/
def malformed (a : Word) : Bool := bits a 57 7 != 0 || decide (2 < winOf a)

/-- Whether a partition reaches another package (R374, R442): its port has not gone down (R441). -/
def State.reachesPeer (s : State) (p : Partition) (peer : Nat) : Bool :=
  p.peermap.getLsbD peer && (match s.portO? peer with
    | some i => (tget {} s.ports i).up
    | none => false)

/-- The same address in this package: PEER is the package's own (R379). -/
def State.ownPeer (s : State) (a : Word) : Word := setBits a 48 9 s.board.peer

/-- The virtual node identifier that a node identifier of kind 0 or 5 names for core i (R19): in words of core i at P2
the indices of its own package are physical (log 109). None for one outside its partition. -/
def State.nodeNamed (s : State) (i pkg node : Nat) : Option Nat :=
  if (s.core i).level = 2 ∧ pkg = s.board.peer then
    let j := nodeIdx node
    match s.partOf? i, s.partOf? j with
    | some p, some q => if p.1 = q.1 then some (nodeKind node * 2 ^ 20 + s.nodeOf j) else none
    | _, _ => none
  else some node

/-- Where a global address of a partition leads (R128 to R130, R358). -/
def State.dest (s : State) (pnum : Nat) (a : Word) : Dest :=
  if malformed a then .malformed
  else
    match s.part? pnum with
    | none => .noPeer
    | some p =>
      if peerOf a ≠ s.board.peer ∧ p.home ≠ some (peerOf a) then
        (if s.reachesPeer p (peerOf a) ∧ !(winOf a = 0 ∧ 160 ≤ bits a 36 8) then .away (peerOf a) else .noPeer)
      else
        match winOf a with
        | 0 =>
          let h := bits a 36 8
          if h < 160 ∧ h % 16 < p.hw ∧ h / 16 < p.hh then
            .here (hallNode ((p.hy0 + h / 16) * 16 + p.hx0 + h % 16)) h (bits a 0 36)
          else .noPeer
        | 1 => .here (farNode (bits a 41 3)) (160 + 32 * bits a 41 3 + bits a 36 5) (bits a 0 36)
        | _ => .here hostNode (416 + bits a 36 8) (bits a 0 36)

end Sys2Proof.Machine
end

