-- ==== Sys2Proof/Machine/Notices.lean ====
section
/-! DEFINITION. Queues of records (R334, R335), accesses in flight, and the notices to the partition supervisor
(R346). -/
namespace Sys2Proof.Machine

/-! ## Queues of records -/

/-- Records that a segment or a posted fault queue of the part holds: 64 (R335, R346). -/
def segmentSize : Nat := 64

/-- A segment of a queue. -/
def TaskQueue.seg (q : TaskQueue) (hall : Nat) : List TaskRec := tget [] q.segs hall

/-- The queue with one segment replaced. -/
def TaskQueue.setSeg (q : TaskQueue) (hall : Nat) (l : List TaskRec) : TaskQueue :=
  { q with segs := if l.isEmpty then tdel q.segs hall else tset q.segs hall l }

/-- Records in the ring (R335). -/
def TaskQueue.inRing (q : TaskQueue) : Nat := (q.tail - q.head).toNat

/-- The 32 bytes of a record (R334). -/
def TaskRec.toBytes (r : TaskRec) : List Byte :=
  leBytes 8 r.w0.toNat ++ leBytes 8 r.w1.toNat ++ leBytes 8 r.w2.toNat ++ leBytes 8 r.w3.toNat

/-- The record that 32 bytes hold. -/
def taskRecOf (bs : List Byte) : TaskRec :=
  { w0 := word (leNat (bs.take 8)), w1 := word (leNat ((bs.drop 8).take 8)),
    w2 := word (leNat ((bs.drop 16).take 8)), w3 := word (leNat ((bs.drop 24).take 8)) }

/-! ## Accesses in flight -/

/-- The source number under which a partition's own hardware makes accesses: no core has it. -/
def partSource (pnum : Nat) : Nat := 2 ^ 20 + pnum

/-- The partition whose tables an access of a source goes through. -/
def State.partOfSource (s : State) (src : Nat) : Nat := if 2 ^ 20 ≤ src then src - 2 ^ 20 else s.pnum src

/-- The node identifier of the interface that serves an address in another package (R18, R128). -/
def windowNode (a : Word) : Nat :=
  match winOf a with
  | 0 => hallNode (bits a 36 8)
  | 1 => farNode (bits a 41 3)
  | _ => hostNode

/-- The destination node of an access of a partition (R178). -/
def State.nodeFor (s : State) (pnum : Nat) (a : Word) : Nat :=
  match s.dest pnum a with
  | .here n _ _ => n
  | .away p => beyond p (windowNode a)
  | _ => 0

/-- An access with a fresh number, put in flight. -/
def State.launchAccess (s : State) (a : Access) : State :=
  { s with
    flight := s.flight ++ [{ a with id := s.fresh, node := s.nodeFor (s.partOfSource a.core) a.addr }]
    fresh := s.fresh + 1 }

/-- An access in flight by number. -/
def State.access? (s : State) (id : Nat) : Option Access := s.flight.find? fun a => a.id == id

/-- The state with one access changed. -/
def State.onAccess (s : State) (id : Nat) (f : Access → Access) : State :=
  { s with flight := s.flight.map fun a => if a.id = id then f a else a }

/-- The state without an access. -/
def State.dropAccess (s : State) (id : Nat) : State := { s with flight := s.flight.filter fun a => a.id != id }

/-- Whether an access has been acknowledged. -/
def Access.acked (a : Access) : Bool :=
  match a.phase with
  | .returned _ _ => true
  | _ => false

/-- Whether an access was performed at its destination, or failed there. -/
def Access.done (a : Access) : Bool :=
  match a.phase with
  | .performed _ _ | .returned _ _ => true
  | _ => false

/-! ## Notices (R346) -/

/-- The hall of the partition's origin, by physical index, whose scheduler holds the notice segment. -/
def Partition.originHall (p : Partition) : Nat := p.hy0 * 16 + p.hx0

/-- Address of a slot of the notice ring (R346). -/
def noticeSlot (p : Partition) (n : Nat) : Word := p.ringBase + word (0x50000000 + 32 * (n % 65536))

/-- Offer held notices again: to the segment, or to the ring by one write at a time (R336, R346). While a write to the ring
is under way, the notice that it carries and those behind it stay. -/
def State.offerNotices (s : State) (pnum : Nat) : State :=
  match s.part? pnum, s.flight.any fun a => a.core == partSource pnum with
  | none, _ | some _, true => s
  | some p, false =>
    let q := p.notices
    let room := segmentSize - (q.seg p.originHall).length
    let now := p.heldNotices.take room
    let q := q.setSeg p.originHall (q.seg p.originHall ++ now)
    let held := p.heldNotices.drop room
    let s := s.setPart pnum { p with notices := q, heldNotices := held }
    match held with
    | [] => s
    | r :: _ =>
      if q.inRing < 65536 then
        s.launchAccess
          { id := 0, core := partSource pnum, cls := .o, addr := noticeSlot p q.tail.toNat,
            kind := .store (r.toBytes.mapIdx fun i b => (i, b)), posted := false, stream := false }
      else s

/-- Post a notice: NCODE, word 0, word 1 and ARG (R334, R346). A producer posts nothing newer while one is held. -/
def State.notice (s : State) (pnum code : Nat) (w0 w1 : Word) (arg : Nat) : State :=
  match s.part? pnum with
  | none => s
  | some p =>
    let r : TaskRec := { w0 := w0, w1 := w1, w2 := 0, w3 := word (2 ^ 60 + code * 2 ^ 52 + arg % 2 ^ 32) }
    let fresh := p.heldNotices.isEmpty
    let s := s.setPart pnum { p with heldNotices := p.heldNotices ++ [r] }
    if fresh then s.offerNotices pnum else s

/-- The write of a notice to the ring has ended: it is placed, or it is offered again (R337, R346). -/
def State.noticeWritten (s : State) (pnum status : Nat) : State :=
  match s.part? pnum with
  | none => s
  | some p =>
    if status = stOk then
      (s.setPart pnum { p with
        notices := { p.notices with tail := p.notices.tail + 1 }
        heldNotices := p.heldNotices.drop 1 }).offerNotices pnum
    else s

end Sys2Proof.Machine
end

