-- ==== Sys2Proof/Machine/Budgets.lean ====
section
/-! DEFINITION. The counters of shared activities (R375, R376): what they admit, what waits for the next period, and the
routers of the fat tree that a transfer climbs through (R13, R179). -/
namespace Sys2Proof.Machine

/-! ## Counters -/

/-- The allowance of an activity (R375); none is unlimited. -/
def Partition.allowance (p : Partition) (code ctrl : Nat) : Option Nat :=
  let b := tget {} p.budgets (code * 8 + ctrl)
  let a := min b.limit b.cap
  if a = 0xFFFFF then none else some a

/-- Use of a counter in the current period. -/
def Partition.usedAt (p : Partition) (code place : Nat) : Nat := tget 0 p.used (code * 2 ^ 20 + place)

/-- Whether a counter admits n more units in the current period (R376): the units of one access are not parted
(log 42). -/
def State.admits (s : State) (pnum code ctrl place : Nat) (n : Nat := 1) : Bool :=
  match s.part? pnum with
  | none => true
  | some p =>
    match p.allowance code ctrl with
    | none => true
    | some a => decide (p.usedAt code place + n ≤ a) || p.usedAt code place == 0

/-- n more units of use of a counter. -/
def State.useUnit (s : State) (pnum code place : Nat) (n : Nat := 1) : State :=
  match s.part? pnum with
  | none => s
  | some p => s.setPart pnum { p with used := tset p.used (code * 2 ^ 20 + place) (p.usedAt code place + n) }

/-- A unit that an exhausted counter stalls waits for the next period (R376). -/
def State.stall (s : State) (who : Who) : State :=
  if s.stalled.contains who then s else { s with stalled := s.stalled ++ [who] }

/-- 64-byte units of n bytes; a transfer without data is one. -/
def unitsOf (n : Nat) : Nat := max 1 ((n + 63) / 64)

/-! ## Routers (R13, R179) -/

/-- A router's place among the counters: its level 1 cluster, 2 gallery, 3 hall, 4 die spine, 5 package spine, and its
index. -/
def routerPlace (level idx : Nat) : Nat := level * 2 ^ 16 + idx

/-- GalleryIndex of R13. -/
def galleryIndex (x y : Nat) : Nat := (y / 16) * 64 + x / 16

/-- The routers above a core, from its cluster's up. -/
def routersOfCore (i : Nat) : List Nat :=
  [routerPlace 1 (clusterOf i), routerPlace 2 (galleryIndex (coreX i) (coreY i)), routerPlace 3 (hallOf i),
   routerPlace 4 (dieOf i), routerPlace 5 0]

/-- The routers above a physical hall's interface, from the hall's up. -/
def routersOfHall (h : Nat) : List Nat :=
  [routerPlace 3 h, routerPlace 4 (h / 80 * 2 + h % 16 / 8), routerPlace 5 0]

/-- The routers above a destination: a node identifier with physical indices, or a node beyond this package, which lies
behind the package spine. -/
def routersOf (node : Nat) : List Nat :=
  match nodeKind node with
  | 0 | 5 => routersOfCore (nodeIdx node)
  | 1 => routersOfHall (nodeIdx node)
  | 2 => [routerPlace 4 (nodeIdx node / 2), routerPlace 5 0]
  | _ => [routerPlace 5 0]

/-- The routers that a transfer enters from below on its way up: to the lowest one that is above the destination too. -/
def climb : List Nat → List Nat → List Nat
  | [], _ => []
  | r :: up, dst => if dst.contains r then [r] else r :: climb up dst

/-- The routers that a transfer of a class enters from below (R179, R375), one for each of its flits. Class V goes by a
hall of the partition that a free value names: its generator is private to the source (log 42). -/
def State.climbs (s : State) (core id node : Nat) (cls : Cls) (flits : Nat) : List Nat :=
  let src := routersOfCore core
  let dst := routersOf node
  let way :=
    match cls, s.partOf? core with
    | .v, some (_, p) =>
      let k := (Config.freeBits id 74 32).toNat % (p.hw * p.hh)
      let hall := (p.hy0 + k / p.hw) * 16 + p.hx0 + k % p.hw
      let up := routersOfHall hall
      climb src up ++ (if (up.take 1).any dst.contains then [] else climb (up.drop 1) dst)
    | _, _ => climb src dst
  (way.map fun r => List.replicate flits r).flatten

/-- Units of router budgets used along a way, until a counter is exhausted: how many, and the state. -/
def State.pay (s : State) (pnum code : Nat) : List Nat → Nat × State
  | [] => (0, s)
  | r :: way =>
    if s.admits pnum code 0 r then
      let (n, t) := (s.useUnit pnum code r).pay pnum code way
      (n + 1, t)
    else (0, s)

/-- A transfer goes on along its way (R375, R376): whether it has come through, the units used so far, and the state, in
which it waits at an exhausted counter. -/
def State.comesThrough (s : State) (pnum : Nat) (cls : Cls) (way : List Nat) (paid : Nat) (who : Who) : Bool × Nat × State :=
  let (n, t) := s.pay pnum (clsCode cls) (way.drop paid)
  if way.length ≤ paid + n then (true, paid + n, t) else (false, paid + n, t.stall who)

end Sys2Proof.Machine
end

