-- ==== Sys2Proof/Machine/Float.lean ====
section
/-! DEFINITION. The arithmetic promise (R235 to R243, R249): floating formats, exact values, one rounding to a format
with its events, and the operations on element patterns. -/
namespace Sys2Proof.Machine

/-! ## Events -/

/-- The events that one element of a result raises: bit k is event kevk (R249). -/
abbrev Ev := BitVec 16

/-- The event of counter k, where a condition holds. -/
def ev (k : Nat) (b : Bool) : Ev := if b then 1#16 <<< k else 0

/-- A pattern and the events it raised. -/
structure FRes where
  bits : Nat
  ev : Ev := 0
  deriving DecidableEq, Repr, Inhabited

/-- A result with more events. -/
def FRes.also (r : FRes) (e : Ev) : FRes := { r with ev := r.ev ||| e }

/-! ## Formats -/

/-- Which codes of a format are special (R237). -/
inductive FSpecial where
  | ieee | e4m3 | finite | scale
  deriving DecidableEq, Repr, Inhabited

/-- A floating format: exponent bits, fraction bits, bias, special codes (R237). -/
structure FFmt where
  eb : Nat
  fb : Nat
  bias : Nat
  sp : FSpecial
  deriving DecidableEq, Repr, Inhabited

/-- The floating format of a type (R237). -/
def fmtOf : Ty → FFmt
  | .fp64 => ⟨11, 52, 1023, .ieee⟩
  | .fp32 => ⟨8, 23, 127, .ieee⟩
  | .fp16 => ⟨5, 10, 15, .ieee⟩
  | .bf16 => ⟨8, 7, 127, .ieee⟩
  | .e4m3 => ⟨4, 3, 7, .e4m3⟩
  | .e5m2 => ⟨5, 2, 15, .ieee⟩
  | .e2m3 => ⟨2, 3, 1, .finite⟩
  | .e3m2 => ⟨3, 2, 3, .finite⟩
  | .e2m1 => ⟨2, 1, 1, .finite⟩
  | _ => ⟨8, 0, 127, .scale⟩

/-- Whether a type is a floating format (R237). -/
def isFloat : Ty → Bool
  | .fp64 | .fp32 | .fp16 | .bf16 | .e4m3 | .e5m2 | .e2m3 | .e3m2 | .e2m1 | .e8m0 => true
  | _ => false

/-- The sign bit of a format. -/
def FFmt.signBit (f : FFmt) : Nat := 2 ^ (f.eb + f.fb)

/-- The pattern of the largest finite magnitude (R237). -/
def FFmt.maxMag (f : FFmt) : Nat :=
  match f.sp with
  | .ieee => (2 ^ f.eb - 1) * 2 ^ f.fb - 1
  | .e4m3 => 2 ^ (f.eb + f.fb) - 2
  | .finite => 2 ^ (f.eb + f.fb) - 1
  | .scale => 254

/-- The canonical NaN (R237); the formats without one take +0 (R241). -/
def FFmt.nan (f : FFmt) : Nat :=
  match f.sp with
  | .ieee => (2 ^ f.eb - 1) * 2 ^ f.fb + 2 ^ (f.fb - 1)
  | .e4m3 => 0x7F
  | .finite => 0
  | .scale => 0xFF

/-- The canonical NaN of a type. -/
def nanOf (ty : Ty) : Nat := (fmtOf ty).nan

/-- emin of a format (R239). -/
def FFmt.emin (f : FFmt) : Int := 1 - (f.bias : Int)

/-- A magnitude with a sign. -/
def FFmt.signed (f : FFmt) (neg : Bool) (mag : Nat) : Nat := if neg then f.signBit + mag else mag

/-! ## Values -/

/-- The value of an element (R237, R238): a NaN, an infinity, or (−1)^s · m · 2^e. -/
inductive FVal where
  | qnan
  | snan
  | inf (neg : Bool)
  | num (neg : Bool) (m : Nat) (e : Int)
  deriving DecidableEq, Repr, Inhabited

/-- The value of a pattern (R237); bits above the format are ignored (R238). -/
def unpack (ty : Ty) (x : Nat) : FVal :=
  let f := fmtOf ty
  match f.sp with
  | .scale => if x % 256 = 255 then .qnan else .num false 1 ((x % 256 : Nat) - 127)
  | sp =>
    let neg := field x (f.eb + f.fb) 1 == 1
    let e := field x f.fb f.eb
    let m := field x 0 f.fb
    let top := 2 ^ f.eb - 1
    if sp = .ieee ∧ e = top then
      if m = 0 then .inf neg else if field x (f.fb - 1) 1 = 1 then .qnan else .snan
    else if sp = .e4m3 ∧ e = top ∧ m = 2 ^ f.fb - 1 then .qnan
    else if e = 0 then .num neg m (1 - (f.bias : Int) - f.fb)
    else .num neg (2 ^ f.fb + m) ((e : Int) - f.bias - f.fb)

/-- Whether a value is a NaN. -/
def FVal.isNan : FVal → Bool
  | .qnan | .snan => true
  | _ => false

/-- The sign of a value. -/
def FVal.neg : FVal → Bool
  | .inf s | .num s _ _ => s
  | _ => false

/-- Whether a value is a zero. -/
def FVal.isZero : FVal → Bool
  | .num _ 0 _ => true
  | _ => false

/-- Whether a value is an infinity. -/
def FVal.isInf : FVal → Bool
  | .inf _ => true
  | _ => false

/-- Whether a pattern is subnormal (kev14 of R249). -/
def isSubnormal (ty : Ty) (x : Nat) : Bool :=
  let f := fmtOf ty
  f.sp != .scale && field x f.fb f.eb == 0 && field x 0 f.fb != 0

/-- The events that an operand raises by itself: a signalling NaN, a subnormal (R249). -/
def operandEv (ty : Ty) (x : Nat) : Ev := ev 0 (unpack ty x == .snan) ||| ev 14 (isSubnormal ty x)

/-! ## Rounding -/

/-- RoundInt of a magnitude p/q with a sign (R239). -/
def roundInt (rm : Rm) (neg : Bool) (p q : Nat) : Nat :=
  let n := p / q
  let r := p % q
  let up : Bool :=
    match rm with
    | .rne | .dyn => decide (q < 2 * r) || (2 * r == q && n % 2 == 1)
    | .rna => decide (q ≤ 2 * r)
    | .rtz => false
    | .rup => !neg && r != 0
    | .rdn => neg && r != 0
  if up then n + 1 else n

/-- The numerator of (p/q)·2^k over `scaleDen q k`. -/
def scaleNum (p : Nat) (k : Int) : Nat := p * 2 ^ k.toNat

/-- The denominator of (p/q)·2^k. -/
def scaleDen (q : Nat) (k : Int) : Nat := q * 2 ^ (-k).toNat

/-- Floor(Log2(p/q)) of a positive ratio (R239). -/
def floorLog2 (p q : Nat) : Int :=
  let l : Int := (p.log2 : Int) - q.log2
  if scaleDen q (-l) ≤ scaleNum p (-l) then l else l - 1

/-- OverflowResult (R240), with its events. -/
def overflow (ty : Ty) (rm : Rm) (sat neg : Bool) : FRes :=
  let f := fmtOf ty
  let inf : Bool :=
    match rm with
    | .rne | .rna | .dyn => true
    | .rtz => false
    | .rup => !neg
    | .rdn => neg
  let bits :=
    if sat || !inf then f.signed neg f.maxMag
    else
      match f.sp with
      | .ieee => f.signed neg (f.maxMag + 1)
      | .e4m3 => f.nan
      | _ => f.signed neg f.maxMag
  { bits := bits, ev := ev 2 true ||| ev 4 true }

/-- Conversion of a magnitude to e8m0 (R242). -/
def roundScale (rm : Rm) (p q : Nat) : FRes :=
  if p = 0 then { bits := 0 }
  else
    let l := floorLog2 p q
    let exact := scaleNum p (-l) == scaleDen q (-l)
    let k : Int :=
      if exact then l
      else
        match rm with
        | .rne | .rna | .dyn =>
          if 2 * (scaleDen q (-l)) ^ 2 < (scaleNum p (-l)) ^ 2 then l + 1 else l
        | .rtz => if 0 ≤ l then l else l + 1
        | .rup => l + 1
        | .rdn => l
    let v := (max 0 (min 254 (k + 127))).toNat
    { bits := v, ev := ev 4 (!(exact && (v : Int) == k + 127)) }

/-- RoundToFormat of a finite exact value ±p/q (R239 to R242), with the events of R249. -/
def roundTo (ty : Ty) (rm : Rm) (sat neg : Bool) (p q : Nat) : FRes :=
  let f := fmtOf ty
  if f.sp = .scale then roundScale rm p q
  else if p = 0 then { bits := f.signed neg 0 }
  else
    let e := max (floorLog2 p q) f.emin
    let k := e - f.fb
    let a := scaleNum p (-k)
    let b := scaleDen q (-k)
    let n := roundInt rm neg a b
    let mag := (e - f.emin).toNat * 2 ^ f.fb + n
    if f.maxMag < mag then overflow ty rm sat neg
    else
      let inexact := a != n * b
      { bits := f.signed neg mag, ev := ev 4 inexact ||| ev 3 (inexact && decide (mag < 2 ^ f.fb)) }

/-- NaNResult (R241), with the event of a NaN that becomes zero. -/
def nanResult (ty : Ty) : FRes := { bits := nanOf ty, ev := ev 7 ((fmtOf ty).sp == .finite) }

/-- InfResult (R241, R242). -/
def infResult (ty : Ty) (sat neg : Bool) : FRes :=
  let f := fmtOf ty
  match f.sp with
  | .ieee => { bits := f.signed neg (f.maxMag + 1) }
  | .e4m3 => { bits := if sat then f.signed neg f.maxMag else f.nan }
  | .finite => { bits := f.signed neg f.maxMag }
  | .scale => { bits := 0xFF }

/-- RoundToFormat of m·2^e. -/
def roundNum (ty : Ty) (rm : Rm) (sat neg : Bool) (m : Nat) (e : Int) : FRes :=
  roundTo ty rm sat neg (scaleNum m e) (scaleDen 1 e)

/-- RoundToFormat of any value (R239). -/
def roundVal (ty : Ty) (rm : Rm) (sat : Bool) : FVal → FRes
  | .qnan | .snan => nanResult ty
  | .inf s => infResult ty sat s
  | .num s m e => roundNum ty rm sat s m e

/-! ## Exact sums -/

/-- A finite term (−1)^s · m · 2^e of an exact sum. -/
structure Term where
  neg : Bool
  m : Nat
  e : Int
  deriving DecidableEq, Repr, Inhabited

/-- The integer of a term scaled by 2^−lo, lo at most its exponent. -/
def Term.scaled (t : Term) (lo : Int) : Int :=
  let x : Int := (scaleNum t.m (t.e - lo) : Nat)
  if t.neg then -x else x

/-- The exact sum of finite terms as one term; an exact zero takes its sign under R254. -/
def sumTerms (rm : Rm) (ts : List Term) : Term :=
  let lo := ts.foldl (fun l t => min l t.e) 0
  let x : Int := (ts.map fun t => t.scaled lo).sum
  if x ≠ 0 then { neg := decide (x < 0), m := x.natAbs, e := lo }
  else if ts.all (fun t => t.m == 0 && t.neg) then { neg := true, m := 0, e := 0 }
  else if ts.all (fun t => t.m == 0 && !t.neg) then { neg := false, m := 0, e := 0 }
  else { neg := rm == .rdn, m := 0, e := 0 }

/-- The exact sum of values (R254): NaN, infinities, then the finite terms; with the event of opposite infinities. -/
def sumVals (rm : Rm) (vs : List FVal) : FVal × Ev :=
  if vs.any FVal.isNan then (.qnan, 0)
  else
    let pos := vs.contains (.inf false)
    let neg := vs.contains (.inf true)
    if pos && neg then (.qnan, ev 0 true)
    else if pos then (.inf false, 0)
    else if neg then (.inf true, 0)
    else
      let t := sumTerms rm (vs.filterMap fun v =>
        match v with
        | .num s m e => some { neg := s, m := m, e := e }
        | _ => none)
      (.num t.neg t.m t.e, 0)

/-- The exact product of two values (R254), with the event of 0·∞. -/
def mulVals (a b : FVal) : FVal × Ev :=
  match a, b with
  | .inf s, .inf t => (.inf (s != t), 0)
  | .inf s, .num t m _ => if m = 0 then (.qnan, ev 0 true) else (.inf (s != t), 0)
  | .num s m _, .inf t => if m = 0 then (.qnan, ev 0 true) else (.inf (s != t), 0)
  | .num s m e, .num t n f => (.num (s != t) (m * n) (e + f), 0)
  | _, _ => (.qnan, 0)

/-- A value with its sign inverted. -/
def FVal.negate : FVal → FVal
  | .inf s => .inf !s
  | .num s m e => .num (!s) m e
  | v => v

/-! ## Operations on patterns (R254, R256, R257) -/

/-- a + b, or a − b where `minus`. -/
def fAdd (ty : Ty) (rm : Rm) (sat minus : Bool) (a b : Nat) : FRes :=
  let v := unpack ty b
  let (x, e) := sumVals rm [unpack ty a, if minus then v.negate else v]
  (roundVal ty rm sat x).also (e ||| operandEv ty a ||| operandEv ty b)

/-- a · b. -/
def fMul (ty : Ty) (rm : Rm) (sat : Bool) (a b : Nat) : FRes :=
  let (x, e) := mulVals (unpack ty a) (unpack ty b)
  (roundVal ty rm sat x).also (e ||| operandEv ty a ||| operandEv ty b)

/-- ±(a · b) ± c with one rounding (R256): 0·∞ is invalid whatever c is. -/
def fFma (ty : Ty) (rm : Rm) (sat negP negC : Bool) (a b c : Nat) : FRes :=
  let (p, e) := mulVals (unpack ty a) (unpack ty b)
  let p := if negP then p.negate else p
  let w := unpack ty c
  let (x, e') := sumVals rm [p, if negC then w.negate else w]
  (roundVal ty rm sat x).also (e ||| e' ||| operandEv ty a ||| operandEv ty b ||| operandEv ty c)

/-- The order of two values that are no NaN: −1, 0 or 1; −0 equals +0. -/
def cmpVals (a b : FVal) : Int :=
  match a, b with
  | .inf s, .inf t => if s = t then 0 else if s then -1 else 1
  | .inf s, _ => if s then -1 else 1
  | _, .inf t => if t then 1 else -1
  | .num s m e, .num t n f =>
    let lo := min e f
    let x := ({ neg := s, m := m, e := e } : Term).scaled lo
    let y := ({ neg := t, m := n, e := f } : Term).scaled lo
    if x < y then -1 else if y < x then 1 else 0
  | _, _ => 0

/-- VMIN and VMAX on floating patterns (R257). -/
def fMinMax (ty : Ty) (isMax : Bool) (a b : Nat) : FRes :=
  let u := unpack ty a
  let v := unpack ty b
  let e := operandEv ty a ||| operandEv ty b
  if u.isNan && v.isNan then { bits := nanOf ty, ev := e }
  else if u.isNan then { bits := b, ev := e }
  else if v.isNan then { bits := a, ev := e }
  else
    let c := cmpVals u v
    let less := decide (c < 0) || (c == 0 && u.neg && !v.neg)
    { bits := if less == isMax then b else a, ev := e }

/-- a / b (R258). -/
def fDiv (ty : Ty) (rm : Rm) (sat : Bool) (a b : Nat) : FRes :=
  let e := operandEv ty a ||| operandEv ty b
  let r : FRes :=
    match unpack ty a, unpack ty b with
    | .num s m x, .num t n y =>
      if n = 0 then
        if m = 0 then { bits := nanOf ty, ev := ev 0 true } else (infResult ty sat (s != t)).also (ev 1 true)
      else roundTo ty rm sat (s != t) (scaleNum m (x - y)) (n * scaleDen 1 (x - y))
    | .inf s, .num t _ _ => infResult ty sat (s != t)
    | .num s _ _, .inf t => { bits := (fmtOf ty).signed (s != t) 0 }
    | .inf _, .inf _ => { bits := nanOf ty, ev := ev 0 true }
    | _, _ => nanResult ty
  r.also e

/-- Floor of the square root of n below 4^k. -/
def isqrt (k n : Nat) : Nat :=
  match k with
  | 0 => 0
  | k + 1 =>
    let r := isqrt k (n / 4)
    if (2 * r + 1) ^ 2 ≤ n then 2 * r + 1 else 2 * r

/-- The ratio that stands for a real between n/q and (n+1)/q, or equal to n/q where `exact`, under every rounding to
fewer bits: the place of a real is kept by one more bit. -/
def stickyNum (exact : Bool) (n : Nat) : Nat := if exact then 2 * n else 2 * n + 1

/-- √(p/q), rounded once (R258): 128 fraction bits and one more decide the rounding. -/
def roundSqrt (ty : Ty) (rm : Rm) (sat : Bool) (p q : Nat) : FRes :=
  let h : Int := (floorLog2 p q) / 2
  let k := 128 - h
  let a := scaleNum p (2 * k)
  let b := scaleDen q (2 * k)
  let r := isqrt 140 (a / b)
  roundTo ty rm sat false (scaleNum (stickyNum (r * r * b == a) r) (-(k + 1))) (scaleDen 1 (-(k + 1)))

/-- √a (R258). -/
def fSqrt (ty : Ty) (rm : Rm) (a : Nat) : FRes :=
  let r : FRes :=
    match unpack ty a with
    | .num s 0 _ => { bits := (fmtOf ty).signed s 0 }
    | .num false m e => roundSqrt ty rm false (scaleNum m e) (scaleDen 1 e)
    | .inf false => infResult ty false false
    | .num true _ _ | .inf true => { bits := nanOf ty, ev := ev 0 true }
    | _ => nanResult ty
  r.also (operandEv ty a)

/-- 1 / a (R258). -/
def fRcp (ty : Ty) (rm : Rm) (sat : Bool) (a : Nat) : FRes :=
  let r : FRes :=
    match unpack ty a with
    | .num s 0 _ => (infResult ty sat s).also (ev 1 true)
    | .num s m e => roundTo ty rm sat s (scaleDen 1 e) (scaleNum m e)
    | .inf s => { bits := (fmtOf ty).signed s 0 }
    | _ => nanResult ty
  r.also (operandEv ty a)

/-- 1 / √a (R258). -/
def fRsq (ty : Ty) (rm : Rm) (sat : Bool) (a : Nat) : FRes :=
  let r : FRes :=
    match unpack ty a with
    | .num s 0 _ => (infResult ty sat s).also (ev 1 true)
    | .num false m e => roundSqrt ty rm sat (scaleDen 1 e) (scaleNum m e)
    | .inf false => { bits := 0 }
    | .num true _ _ | .inf true => { bits := nanOf ty, ev := ev 0 true }
    | _ => nanResult ty
  r.also (operandEv ty a)

/-! ## Powers and logarithms of two (R258)

Both are irrational but where the operand gives a power of two. They are computed in fixed point with 320 fraction bits
and cut at 280: no operand of 32 bits has a result within 2^−280 of a place where the rounding changes (log 16). -/

/-- Fraction bits of the fixed-point numbers. -/
def fixBits : Nat := 320

/-- Σ 1/(k·2^k) for k from 1 to n, in fixed point: ln 2. -/
def ln2Fix : Nat → Nat
  | 0 => 0
  | n + 1 => ln2Fix n + 2 ^ fixBits / ((n + 1) * 2 ^ (n + 1))

/-- ln 2 in fixed point. -/
def ln2 : Nat := ln2Fix 340

/-- Σ x^j/j! from term j on, in fixed point: e^x for x below 1. -/
def expFix (n : Nat) (x j term : Nat) : Nat :=
  match n with
  | 0 => 0
  | n + 1 => term + expFix n x (j + 1) (term * x / 2 ^ fixBits / (j + 1))

/-- Σ z^(2j+1)/(2j+1), in fixed point: artanh z. -/
def atanhFix (n : Nat) (z2 j power : Nat) : Nat :=
  match n with
  | 0 => 0
  | n + 1 => power / (2 * j + 1) + atanhFix n z2 (j + 1) (power * z2 / 2 ^ fixBits)

/-- 2^(i + f/2^k) for a fraction f below 2^k, f ≠ 0, rounded once. -/
def roundExp2 (ty : Ty) (rm : Rm) (sat : Bool) (i : Int) (f k : Nat) : FRes :=
  let x := f * 2 ^ fixBits / 2 ^ k * ln2 / 2 ^ fixBits
  let r := expFix 90 x 0 (2 ^ fixBits) / 2 ^ 40
  roundNum ty rm sat false (stickyNum false r) (i - 281)

/-- 2^a (R258). -/
def fExp2 (ty : Ty) (rm : Rm) (sat : Bool) (a : Nat) : FRes :=
  let r : FRes :=
    match unpack ty a with
    | .num s m e =>
      let x := ({ neg := s, m := m, e := e } : Term).scaled (min e 0)
      let k := (-(min e 0)).toNat
      let i := x / (2 ^ k : Nat)
      let f := (x % (2 ^ k : Nat)).toNat
      if 100000 < i then overflow ty rm sat false
      else if i < -100000 then roundNum ty rm sat false 1 (-100000)
      else if f = 0 then roundNum ty rm sat false 1 i
      else roundExp2 ty rm sat i f k
    | .inf true => { bits := 0 }
    | .inf false => infResult ty sat false
    | _ => nanResult ty
  r.also (operandEv ty a)

/-- log₂(m·2^e), m not a power of two, rounded once. -/
def roundLog2 (ty : Ty) (rm : Rm) (m : Nat) (e : Int) : FRes :=
  let l := m.log2
  let z := (m - 2 ^ l) * 2 ^ fixBits / (m + 2 ^ l)
  let frac := 2 * atanhFix 110 (z * z / 2 ^ fixBits) 0 z * 2 ^ fixBits / ln2
  let x : Int := ((l : Int) + e) * (2 ^ fixBits : Nat) + frac
  roundNum ty rm false (decide (x < 0)) (stickyNum false (x.natAbs / 2 ^ 40)) (-281)

/-- log₂ a (R258). -/
def fLog2 (ty : Ty) (rm : Rm) (a : Nat) : FRes :=
  let r : FRes :=
    match unpack ty a with
    | .num _ 0 _ => (infResult ty false true).also (ev 1 true)
    | .num false m e =>
      if m = 2 ^ m.log2 then
        let i := (m.log2 : Int) + e
        roundNum ty rm false (decide (i < 0)) i.natAbs 0
      else roundLog2 ty rm m e
    | .inf false => infResult ty false false
    | .num true _ _ | .inf true => { bits := nanOf ty, ev := ev 0 true }
    | _ => nanResult ty
  r.also (operandEv ty a)

/-! ## Conversions (R243, R265) -/

/-- The range of an integer type as a signed type of its width, or an unsigned one. -/
def isSignedTy : Ty → Bool
  | .i8 | .i16 | .i32 | .i64 | .i4 => true
  | _ => false

/-- Least and greatest value of an integer type (R236). -/
def intRange (ty : Ty) : Int × Int :=
  let w := tyBits ty
  if isSignedTy ty then (-(2 ^ (w - 1) : Nat), (2 ^ (w - 1) : Nat) - 1) else (0, (2 ^ w : Nat) - 1)

/-- An integer placed in an integer type (R243). -/
def placeInt (ty : Ty) (sat : Bool) (x : Int) : FRes :=
  let (lo, hi) := intRange ty
  let w : Int := (2 ^ tyBits ty : Nat)
  if lo ≤ x ∧ x ≤ hi then { bits := (x % w).toNat }
  else if sat then { bits := ((if x < lo then lo else hi) % w).toNat, ev := ev 5 true }
  else { bits := (x % w).toNat, ev := ev 6 true }

/-- The integer that a pattern of an integer type holds. -/
def intOf (ty : Ty) (x : Nat) : Int :=
  let w := tyBits ty
  let p := x % 2 ^ w
  if isSignedTy ty && decide (2 ^ (w - 1) ≤ p) then (p : Int) - (2 ^ w : Nat) else p

/-- A floating value converted to an integer type (R243). -/
def toInt (ty : Ty) (rm : Rm) (sat : Bool) : FVal → FRes
  | .qnan | .snan => { bits := 0, ev := ev 0 true ||| ev 7 true }
  | .inf s =>
    let (lo, hi) := intRange ty
    { bits := ((if s then lo else hi) % (2 ^ tyBits ty : Nat)).toNat, ev := ev 0 true }
  | .num s m e =>
    let p := scaleNum m e
    let q := scaleDen 1 e
    let n := roundInt rm s p q
    (placeInt ty sat (if s then -(n : Int) else n)).also (ev 4 (n * q != p))

/-- Convert of R265. -/
def convert (src dst : Ty) (rm : Rm) (sat : Bool) (x : Nat) : FRes :=
  if !isFloat src then
    let v := intOf src x
    if isFloat dst then roundNum dst rm sat (decide (v < 0)) v.natAbs 0 else placeInt dst sat v
  else
    let v := unpack src x
    (if isFloat dst then roundVal dst rm sat v else toInt dst rm sat v).also (operandEv src x)

end Sys2Proof.Machine
end

