-- ==== Sys2Proof/Machine/Time.lean ====
section
/-! DEFINITION. The passing of cycles for everything that counts them (R348, R349, R352, R412, R133, R309, R327), and
the dropping of a cached translation. How many cycles pass is an input of the model (log 2). -/
namespace Sys2Proof.Machine

/-- Whether the core waits on an endpoint whose peer is held (R174). -/
def Core.peerHolds (c : Core) : Bool :=
  match c.wait with
  | some w =>
    decide (0x20 ≤ w.detail) && decide (w.detail ≤ 0x23)
      && (match w.args with
          | e :: _ => (c.eps[e]!).peerHeld
          | [] => false)
  | none => false

/-- Whether counts of the core are stopped: debug halt, hold, or away (R352, R349). -/
def Core.countsStopped (c : Core) (held : Bool) : Bool := c.halted || held || c.preempted || c.peerHolds

/-- Cycles until the core takes a watchdog trap, when n pass; none if it does not within them. -/
def Core.wdogIn (c : Core) (n : Nat) : Option Nat :=
  if bits c.kwdog 63 1 = 1 ∧ bits c.kwdog 0 32 ≤ n then some (bits c.kwdog 0 32) else none

/-- kwdog after n cycles (R349): REMAIN falls, and EN falls with it at zero. -/
def Core.tickWdog (c : Core) (n : Nat) : Core :=
  let r := bits c.kwdog 0 32
  if bits c.kwdog 63 1 = 0 then c
  else if n < r then { c with kwdog := setBits c.kwdog 0 32 (r - n) }
  else { c with kwdog := 0, wdogPending := true }

/-- The wait limit after n cycles (R348). A watchdog that runs out first withdraws the wait, whose limit counts no
further; in the cycle in which both run out the limit is reached (R395). -/
def Core.tickWait (c : Core) (n : Nat) : Core :=
  match c.wait with
  | some w =>
    let run (l : Nat) : Nat :=
      match c.wdogIn n with
      | some r => if r < l then l - r else l - n
      | none => l - n
    if w.counting then { c with wait := some { w with left := w.left.map run } } else c
  | none => c

/-- Whether a debug halt of a member halts the stair of core i (R352). -/
def State.stairHalted (s : State) (i : Nat) : Bool :=
  let c := s.core i
  c.memb && (match c.place with
    | some p =>
      match s.stairs.find? fun x => x.id == p.stair with
      | some x => (List.range x.len).any fun k => (s.core (x.head + k)).memb && (s.core (x.head + k)).halted
      | none => false
    | none => false)

/-- Whether an attached member keeps its stair from going on (R117): its instruction waits, a landing excepted, or it is
the head and the line of its next instruction is not in its cache. -/
def Core.stalls (c : Core) : Bool :=
  match c.wait with
  | some w => w.stage != .landed
  | none =>
    c.isHead && c.thread == .running && !c.intrap && !c.halted && !c.preempted && !c.diverting
      && !(c.icache.any fun l => l.addr == c.pc - word (bits c.pc 0 6))

/-- An attached member of a stair that another one's stall freezes (R117, R118). -/
def State.frozen (s : State) (i : Nat) : Bool :=
  let c := s.core i
  c.memb && !c.detached && !c.stalls && (match c.place with
    | some p =>
      match s.stairs.find? fun x => x.id == p.stair with
      | some x => (List.range x.len).any fun k =>
          let d := s.core (x.head + k)
          d.memb && !d.detached && d.stalls && (match d.place with
            | some q => q.stair == x.id
            | none => false)
      | none => false
    | none => false)

/-- A core after n cycles: its partition held, its stair halted, itself frozen by another member's stall. -/
def Core.tick (c : Core) (held halted frozen : Bool) (n : Nat) : Core :=
  if c.thread = .none ∨ c.thread = .loaded then c
  else
    let c := if held || c.preempted then c else { c with ktick := c.ktick + word n }
    if c.countsStopped held || halted then c
    else if c.thread = .running then (if frozen then c else c.tickWait n).tickWdog n else c

/-- A pending launch after n cycles since its posting took effect (R325, R327); `stuck` counts those at effective
priority 3. -/
def Launch.tick (l : Launch) (n : Nat) : Launch :=
  if !l.checked then l else
  let high := (3 - bits ((l.words[2]?).getD 0) 35 2) * 2 ^ 22
  { l with age := l.age + n, stuck := l.stuck + (l.age + n - max l.age high) }

/-- A partition after n cycles; a hold stops its counts (R352). -/
def Partition.tick (p : Partition) (n : Nat) : Partition :=
  if p.hold then p else { p with ran := p.ran + n, pending := p.pending.map fun l => l.tick n }

/-- Whether a partition is held. -/
def State.isHeld (s : State) (part : Nat) : Bool :=
  match s.part? part with
  | some p => p.hold
  | none => false

/-- Cycles of a budget period (R375). -/
def periodCycles : Nat := 65536

/-- A port that is up after n cycles: the slots that carried nothing held idle flits, which the counter counts (R381). How
many of them the line sent is a free value, at most one a cycle (log 117). -/
def Port.idles (p : Port) (sent n : Nat) : Port :=
  if p.works then { p with txSlot := min (p.txSlot + sent % (n + 1)) retrainAt } else p

/-- n cycles pass, in one budget period. -/
def elapse (s : State) (n : Nat) : State :=
  { s with
    clock := s.clock + n
    free := s.free + 1
    ports := tmap s.ports fun i p => p.idles (Config.freeBits s.free (2 ^ 41 + i) 64).toNat n
    cores := tmap s.cores fun i c => c.tick (s.heldPart i) (s.stairHalted i) (s.frozen i) n
    clusters := tmap s.clusters fun _ k => { k with comb := k.comb.map fun e => { e with age := e.age + n } }
    nodes := s.nodes.map fun d => if s.isHeld d.key.part then d else { d with left := d.left.map (· - n) }
    parts := tmap s.parts fun _ p => p.tick n }

/-- n cycles pass, and the turns after them: at the end of a budget period its event comes first (R375). -/
def pass (s : State) (n : Nat) (rest : List Turn) : State :=
  let left := periodCycles - s.clock
  if n < left then elapse { s with agenda := rest } n
  else elapse { s with agenda := .event .budgetPeriod :: (if n = left then rest else .elapse (n - left) :: rest) } left

/-- An interface drops one cached translation (R363; log 10). -/
def evict (s : State) (node entry : Nat) : State :=
  let f := tget {} s.ifaces node
  { s with ifaces := tset s.ifaces node { f with cache := f.cache.eraseIdx entry } }

end Sys2Proof.Machine
end

