-- ==== Sys2Proof/Machine/Issue.lean ====
section
/-! DEFINITION. What the current core does when it issues: its line and slots (R44, R45, R60, R61), pairs (R43), the
stream of a stair (R110, R115, R116), the watchdog (R349) and the step trap (R395). -/
namespace Sys2Proof.Machine

/-- What is done after an instruction of the issuing core. -/
structure Finish where
  /-- an attached follower executed this member of the stream -/
  item : Option StreamItem := none
  /-- raise the step trap after it (R395) -/
  dstep : Bool := false

/-- What the current core does. -/
inductive Plan where
  /-- nothing: it holds no thread, is halted, held or away, or its stair forwards nothing -/
  | rest
  /-- no instruction issues, but the state changes: a trap at the line, the encoding or the watchdog -/
  | done (s : State)
  /-- one instruction -/
  | one (s : State) (i : Instr) (f : Finish)
  /-- a pair: the second may be an illegal encoding -/
  | pair (s : State) (i : Instr) (f : Finish) (j : Except Illegal Instr) (g : Finish)
  /-- the line is fetched -/
  | fill (line : Word)
  /-- the watchdog trap is due (R349), unless the instruction that would issue takes a trap of its own (R395) -/
  | watchdog (first : Option (State × Instr × Finish))

/-- The predicate fields of an instruction (R48). -/
def predFields (i : Instr) : Option (Fin 8 × Bool) :=
  match view i with
  | .a _ o => some (o.pg, o.pn)
  | .m _ o => some (o.pg, o.pn)
  | .c _ o => some (o.pg, o.pn)
  | .event => none

/-- Whether a constructor is an event of the part, which no core fetches. -/
def isEvent (i : Instr) : Bool := (predFields i).isNone

/-- Bit 0 of the predicate decides execution (R28). -/
def Core.executes (c : Core) (n : Nat) (pg : Fin 8) (pn : Bool) : Bool := (c.qVal n 90 pg).getLsbD 0 != pn

/-- The illegal-encoding trap of the word in the slot at pc (R60). -/
def illegalAt (s : State) (d : Illegal) : State :=
  let c := s.self
  let w := match c.cached? c.pc with
    | some l => leNat (slotBytes l.bytes (slotNo c.pc))
    | none => 0
  s.takeTrap s.cur { cls := 0x01, detail := d.detail, tval := word w }

/-- Whether the instruction that the core issued on s has completed in t: it neither waits nor trapped. -/
def completed (s t : State) : Bool :=
  let c := s.self
  let d := t.core s.cur
  d.wait.isNone && d.trapSeq == c.trapSeq && d.monitored == c.monitored && d.thread == .running && !d.preempted

/-- Whether the instruction that the core issued on s has trapped in t. -/
def hasTrapped (s t : State) : Bool :=
  (t.core s.cur).trapSeq != s.self.trapSeq || (t.core s.cur).monitored != s.self.monitored

/-- A stair by number. -/
def State.stair? (s : State) (n : Nat) : Option Stair := s.stairs.find? fun x => x.id == n

/-- The state with one stair changed. -/
def State.onStair (s : State) (n : Nat) (f : Stair → Stair) : State :=
  { s with stairs := s.stairs.map fun x => if x.id = n then f x else x }

/-- A core that belongs to no stair any more (R112). -/
def Core.independent (c : Core) : Core := { c with kstair := 0, place := none }

/-- The stream of a head with one more instruction (R110). -/
def State.forward (t : State) (i stair : Nat) (f : Instr × Word × Bool) : State :=
  t.onStair stair fun x =>
    { x with stream := x.stream ++ [{ instr := f.1, addr := f.2.1, byHead := f.2.2, headNext := (t.core i).pc }] }

/-- The instructions whose next address R115 compares (R104, R340). -/
def isBranch : Instr → Bool
  | .br _ | .brc _ | .jmp _ | .callDirect _ | .callIndirect _ | .ret _ | .loop _ | .take _ => true
  | _ => false

/-- A member after one instruction of the stream (R115, R121): it moves on, steps off where its next address differs
from the head's, and becomes independent at the end of a dissolved stream. -/
def Core.afterItem (c : Core) (x : StreamItem) (done last : Bool) : Core :=
  match c.place with
  | none => c
  | some p =>
    let c := { c with place := some { p with next := p.next + 1 } }
    let c := if done && isBranch x.instr && c.follower && c.pc != x.headNext then c.stepOff else c
    if last && c.memb then c.independent else c

/-- Whether a member of a stream is the last of a stair that the head has dissolved. -/
def State.lastItem (s : State) (c : Core) : Bool :=
  match c.place with
  | some p =>
    match s.stair? p.stair with
    | some x => x.dissolved && x.base + x.stream.length == p.next + 1
    | none => false
  | none => false

/-- The cores of a stair's span. -/
def Stair.span (x : Stair) : List Nat := (List.range x.len).map (· + x.head)

/-- Whether a core relays or executes the stream of a stair. -/
def Core.inStair (c : Core) (n : Nat) : Bool :=
  match c.place with
  | some p => p.stair == n
  | none => false

/-- In a dissolved stair a detached member is independent (R112, R121), one that stepped off after the dissolution too,
and the stair is gone once no attached follower is left in it: the relays end. -/
def State.endStair (s : State) (n : Nat) : State :=
  match s.stair? n with
  | none => s
  | some x =>
    if !x.dissolved then s
    else
      let s := x.span.foldl (fun (t : State) i =>
        if (t.core i).inStair n && (t.core i).memb && (t.core i).detached then t.onCore i Core.independent else t) s
      if x.span.any fun i => (s.core i).inStair n && (s.core i).follower then s
      else
        let t := x.span.foldl (fun (t : State) i =>
          if (t.core i).inStair n then t.onCore i fun c => { c with place := none } else t) s
        { t with stairs := t.stairs.filter fun y => y.id != n }

/-- The stair whose stream a core relays or executes. -/
def Core.stairNo (c : Core) : Nat :=
  match c.place with
  | some p => p.stair
  | none => 0

/-- Whether the trap that a core has taken is the effect of a SYSCALL or BRK (R107, R396). -/
def trapIsEffect (i : Instr) (d : Core) : Bool :=
  match i with
  | .syscall _ => bits d.kcause 0 8 == 0x0D
  | .brk _ => bits d.kcause 0 16 == 0x010C
  | _ => false

/-- What follows an instruction that the issuing core of s executed, giving t: a head forwards it when it has completed,
when its wait will have ended, or when it is a SYSCALL or BRK whose effect is its trap (R116, R396). -/
def finishIssue (s t : State) (fwd : Option (Instr × Word × Bool)) (f : Finish) : State :=
  let ok := completed s t
  let n := s.self.stairNo
  let t := match fwd with
    | some x =>
      let d := t.core s.cur
      if ok || d.thread == .done then (t.forward s.cur n x).endStair n
      else if d.trapSeq != s.self.trapSeq then if trapIsEffect x.1 d then t.forward s.cur n x else t
      else t.onCore s.cur fun c => { c with wait := c.wait.map fun w => { w with forward := some x } }
    | none => t
  let t := match f.item with
    | some x =>
      if (t.core s.cur).wait.isSome then t
      else (t.onCore s.cur fun c => c.afterItem x ok (t.lastItem c)).endStair s.self.stairNo
    | none => t
  let t := if ok then t.onCore s.cur fun c => { c with stepping := false } else t
  if f.dstep && ok && !(t.core s.cur).wdogPending then
    (t.takeTrap s.cur { cls := 0x0C, detail := 0x02, epc := some (nextAddr s.self.pc) }).endStair n
  else t

/-- What a head forwards of an instruction: everything it issues outside its handler; a LAND that it executes is
forwarded by LAND's own meaning (R116, R119). -/
def Core.forwards (c : Core) (n : Nat) (i : Instr) (a : Word) : Option (Instr × Word × Bool) :=
  if c.isHead && !c.intrap then
    match i, predFields i with
    | .land _, some (pg, pn) => if c.executes n pg pn then none else some (i, a, false)
    | _, some (pg, pn) => some (i, a, c.executes n pg pn)
    | _, none => none
  else none

/-- Whether the step trap follows what a core issues now (R395). -/
def Core.steps (c : Core) : Bool := c.dstep && !c.intrap

/-- The line that a core issues from is read: its single-bit errors are corrected and counted (R398). -/
def State.correctLine (s : State) : State :=
  match s.self.cached? s.self.pc with
  | some l =>
    if l.soft.isEmpty then s
    else
      (s.onCore s.cur fun c =>
        { c with icache := c.icache.map fun x => if x.addr = l.addr then { x with soft := [] } else x }).countErrors
        (hallOf s.cur) l.soft.length
  | none => s

/-- A core that begins to issue from a line requests the next sequential one (R108): its fill is the next event. -/
def State.beginLine (s : State) : State :=
  let s := s.correctLine
  let c := s.self
  let l := lineAddr c.pc
  if c.fromLine = some l then s
  else
    let t := s.onCore s.cur fun c => { c with fromLine := some l }
    if (c.cached? (l + 64)).isSome then t else { t with agenda := .event (.lineFill s.cur (l + 64)) :: t.agenda }

/-- The plan for a core that fetches for itself. -/
def fetchPlan (s : State) : Plan :=
  let c := s.self
  match c.cached? c.pc with
  | none => .fill (lineAddr c.pc)
  | some l =>
    match l.failed with
    | some d => .done (s.takeTrap s.cur { cls := 0x02, detail := d, tval := lineAddr c.pc })
    | none =>
      match lineDetail l.bytes with
      | some d => .done (s.takeTrap s.cur { cls := 0x02, detail := d, tval := lineAddr c.pc })
      | none =>
        match decodeBytes (slotBytes l.bytes (slotNo c.pc)) with
        | .error d => .done (illegalAt s d)
        | .ok i =>
          if pairBit (lineWord l.bytes) (slotNo c.pc) then
            let j := decodeBytes (slotBytes l.bytes (slotNo c.pc + 1))
            .pair s.beginLine i {} j { dstep := c.steps }
          else .one s.beginLine i { dstep := c.steps }

/-- Whether an attached member west of core i has yet to execute item n of the stream (R110, R111). -/
def State.westBehind (s : State) (x : Stair) (i n : Nat) : Bool :=
  (x.span.takeWhile (· < i)).any fun j =>
    let c := s.core j
    c.follower && (match c.place with
      | some p => p.stair == x.id && decide (p.next ≤ n)
      | none => false)

/-- The plan for an attached follower: the next member of its stair's stream, after every member west of it (R110). -/
def streamPlan (s : State) (p : StairPlace) : Plan :=
  match s.stair? p.stair with
  | none => .rest
  | some x =>
    match x.stream[p.next - x.base]? with
    | none => .rest
    | some it =>
      if s.westBehind x s.cur p.next then .rest
      else .one (s.onCore s.cur fun c => { c with pc := it.addr }) it.instr { item := some it, dstep := s.self.steps }

/-- Whether a JOIN of the core has sent its access: the watchdog trap then waits for the JOIN unless its access is
withdrawn (log 41). -/
def Core.joins (c : Core) : Bool :=
  match c.wait with
  | some w =>
    match w.stage with
    | .joining _ => true
    | _ => false
  | none => false

/-- An attached follower whose head has accepted a pre-emption request executes what was forwarded, whatever holds its
partition (R405). -/
def State.drains (s : State) (c : Core) : Bool :=
  c.follower && (match c.place with
    | some p =>
      match s.stair? p.stair with
      | some x => (s.core x.head).diverting || (s.core x.head).preempted
      | none => false
    | none => false)

/-- A head issues nothing while a member of its stair is being saved or is away (R405). -/
def State.memberAway (s : State) (c : Core) : Bool :=
  c.isHead && (match s.stair? c.stairNo with
    | some x => x.span.any fun i => (s.core i).memb && ((s.core i).diverting || (s.core i).preempted)
    | none => false)

/-- A core whose JOIN has sent its access completes it before it accepts a HALT, whatever holds it (R403, log 41). -/
def Core.finishing (c : Core) : Bool := c.request == some true && c.joins

/-- What a stopped or held core may still issue: the instruction that a debugger lets it complete, unless its partition
is held too, and what R403 and R405 have it complete. -/
def State.goesOnHeld (s : State) (c : Core) : Bool :=
  (c.stepping && !s.heldPart s.cur) || s.drains c || c.finishing

/-- What the current core does: nothing where it is stopped or frozen, the watchdog trap where it is due, which comes
after a trap of the line, the encoding or the instruction itself (R395), and otherwise its next instruction. -/
def plan (s : State) : Plan :=
  let c := s.self
  if c.thread ≠ .running
      || ((c.halted || s.stairHalted s.cur || s.heldPart s.cur) && !s.goesOnHeld c) || c.preempted || c.diverting
      || s.memberAway c then .rest
  else
    let p := if c.follower then
        match c.place with
        | some p => streamPlan s p
        | none => .rest
      else fetchPlan s
    if c.wdogPending && !c.joins then
      if s.frozen s.cur then .watchdog none
      else
        match p with
        | .done t => .done t
        | .one t i f | .pair t i f _ _ => .watchdog (some (t, i, f))
        | _ => .watchdog none
    else if s.frozen s.cur then .rest
    else p

/-- The core with a thread at pc and a legal line there that holds the word in the slot at pc. -/
def placeWord (c : Core) (w : Slot) : Core :=
  { c with
    thread := .running
    halted := false
    preempted := false
    diverting := false
    request := none
    wdogPending := false
    wait := none
    kstair := 0
    place := none
    pc := lineAddr c.pc
    icache := { addr := lineAddr c.pc, bytes := lineOfSlot w } :: c.icache.filter fun l => l.addr != lineAddr c.pc }

/-- The state in which the next step issues the word (log 7). -/
def readyToFetch (s : State) (w : Slot) : State :=
  let s := { s with agenda := [], cur := if s.cur < Config.coreCount then s.cur else 0 }
  let s := match s.partOf? s.cur with
    | some (n, p) => if p.hold then s.setPart n { p with hold := false } else s
    | none => s
  s.setSelf (placeWord s.self w)

end Sys2Proof.Machine
end

