-- ==== Sys2Proof/Machine/Endpoints.lean ====
section
/-! DEFINITION. Endpoints: descriptors (R146), the checks of R156, transmitting (R162), the next delivery and its taking
(R164), ends of a channel (R152, R153), and pops of lattice ports (R173). -/
namespace Sys2Proof.Machine

/-- The code of MODE (R146). -/
def modeCode : EpMode → Nat
  | .unbound => 0 | .openM => 1 | .handover => 2 | .closedAt => 3 | .connecting => 4

/-- The MODE of a code. -/
def modeOfCode : Nat → EpMode
  | 1 => .openM | 2 => .handover | 3 => .closedAt | 4 => .connecting | _ => .unbound

/-- Whether an endpoint follows a built-in protocol (R147). -/
def Endpoint.builtin (e : Endpoint) : Bool := e.binding == .memline || e.binding == .scratch || e.binding == .link

/-- The four words of a descriptor (R146); for e0, e1 and a LINK port only MODE (R171). -/
def Endpoint.words (e : Endpoint) : List Word :=
  if e.builtin then [word (2 ^ 61), 0, 0, 0]
  else
    [word (modeCode e.mode * 2 ^ 61 + (if e.held then 2 ^ 60 else 0) + (if e.orderly then 2 ^ 59 else 0)
        + e.slot * 2 ^ 56 + e.state * 2 ^ 48 + e.peer * 2 ^ 24 + e.peerEp * 2 ^ 19),
     word (e.sseq * 2 ^ 48 + e.rseq * 2 ^ 32 + e.credit * 2 ^ 22 + e.outstd * 2 ^ 12),
     word (e.loopCnt * 2 ^ 48 + e.loopHd * 2 ^ 40 + e.rhead * 2 ^ 28 + e.rbase * 2 ^ 16 + e.rslots),
     word (e.protoId * 2 ^ 32)]

/-- The descriptor that four words hold (R146). -/
def endpointOf (ws : List Word) : Endpoint :=
  let w (i : Nat) : Word := (ws[i]?).getD 0
  { mode := modeOfCode (bits (w 0) 61 3), held := bits (w 0) 60 1 == 1, orderly := bits (w 0) 59 1 == 1,
    slot := bits (w 0) 56 3, state := bits (w 0) 48 5, peer := bits (w 0) 24 24, peerEp := bits (w 0) 19 5,
    sseq := bits (w 1) 48 16, rseq := bits (w 1) 32 16, credit := bits (w 1) 22 10, outstd := bits (w 1) 12 10,
    loopCnt := bits (w 2) 48 16, loopHd := bits (w 2) 40 5, rhead := bits (w 2) 28 10, rbase := bits (w 2) 16 12,
    rslots := bits (w 2) 0 10, protoId := bits (w 3) 32 32, binding := .user }

/-- An endpoint of a core; 0 to 15 are e registers, 16 to 19 the ports. -/
def Core.ep (c : Core) (e : Nat) : Endpoint := c.eps[e]!

/-- The core with one endpoint replaced. -/
def Core.setEp (c : Core) (e : Nat) (x : Endpoint) : Core := { c with eps := c.eps.set! e x }

/-- The state with one endpoint of a core changed. -/
def State.onEp (s : State) (i e : Nat) (f : Endpoint → Endpoint) : State :=
  s.onCore i fun c => c.setEp e (f (c.ep e))

/-- The number of an endpoint operand (R52, R157). -/
def epNo : Ep → Nat
  | .e n => n.val
  | .port p => 16 + p.val

/-- Whether a port has a peer (R15). -/
def State.hasPeer (s : State) (i e : Nat) : Bool := decide (e < 16) || (s.neighbour? i (e - 16)).isSome

/-- The acts that R156 tells apart. -/
inductive ChanAct where
  | send | sendv | sendt | select | recv | recvv | recvt | offer | deleg | adopt | close | abort | pop
  | connect | accept
  deriving DecidableEq, Repr

/-- The action code an act needs a transition for (R156, check 0x03). -/
def actionOf : ChanAct → Option Nat
  | .send | .sendv | .sendt => some 0
  | .recv | .recvv | .recvt | .pop => some 1
  | .select => some 2
  | .offer => some 3
  | .deleg => some 4
  | .adopt => some 5
  | _ => none

/-- The kind of type an act carries (R135). -/
def kindOf : ChanAct → Option Nat
  | .send | .recv | .pop => some 0
  | .sendv | .recvv => some 1
  | .sendt | .recvt => some 2
  | .deleg | .adopt => some 3
  | .select => some 4
  | _ => none

/-- Whether an act sends (R136). -/
def isSend : ChanAct → Bool
  | .send | .sendv | .sendt | .select | .deleg => true
  | _ => false

/-- DETAIL codes of R156 on a port bound to LINK (R147): SEND and RECV with MT 0 are in turn. -/
def linkRefusals (a : ChanAct) (mt : Nat) : List Nat :=
  match a with
  | .send | .recv => bad (mt != 0) 0x03
  | .sendv | .sendt | .recvv | .recvt => bad (mt != 0) 0x03 ++ [0x04]
  | .select | .offer => [0x03]
  | .deleg | .adopt => [0x03, 0x06]
  | .close | .abort => [0x06]
  | .pop | .connect | .accept => []

/-- DETAIL codes of R156 on a user protocol: the transition, the type's kind, OUTSTD, CLOSED-AT. -/
def userRefusals (slot : List Byte) (ep : Endpoint) (a : ChanAct) (mt : Nat) : List Nat :=
  let noTrans :=
    match actionOf a, a with
    | none, _ => false
    | some k, .offer => (anyTransition? slot ep.state k).isNone
    | some k, .pop => (anyTransition? slot ep.state k).isNone
    | some k, _ => (theTransition? slot ep.state k mt).isNone
  let badKind :=
    match kindOf a, a with
    | none, _ => false
    | some k, .pop =>
      match anyTransition? slot ep.state 1 with
      | some t => (typeEnt slot t.arg).kind != k
      | none => false
    | some k, _ => decide (nType slot ≤ mt) || (typeEnt slot mt).kind != k
  bad noTrans 0x03 ++ bad badKind 0x04
    ++ bad (isSend a && decide (storedOutMsg slot < ep.outstd + 1)) 0x05
    ++ bad (ep.mode == .closedAt && (isSend a || a == .pop)) 0x08

/-- DETAIL codes of R156 that an endpoint and an act meet, but those of DELEG's and ADOPT's S1 and of CLOSE's state. -/
def State.refusals (s : State) (i e : Nat) (a : ChanAct) (mt : Nat) : List Nat :=
  let c := s.core i
  let ep := c.ep e
  if e < 2 then [0x06]
  else
    (match a with
     | .connect | .accept =>
       bad (ep.mode == .connecting) 0x02
         ++ bad (if e < 16 then ep.mode != .unbound else !(ep.binding == .link && ep.linkIn.isEmpty)) 0x0A
     | _ =>
       bad (ep.mode == .unbound) 0x01
         ++ bad (ep.mode == .connecting
                  || (ep.mode == .handover && (a == .deleg || a == .close || a == .abort))) 0x02
         ++ (if ep.mode == .unbound || ep.mode == .connecting then []
             else if ep.binding == .link then linkRefusals a mt
             else userRefusals (s.slot i ep.slot) ep a mt))
    ++ bad (!s.hasPeer i e) 0x0B

/-- The protocol-refusal trap (R156). -/
def refusalTrap (ep : Endpoint) (d : Nat) : Trap :=
  { cls := 0x07, detail := d, tval := (ep.words[0]?).getD 0 }

/-- The close word of an endpoint (R152) with a cause. -/
def closeWord (slot : List Byte) (ep : Endpoint) (cause : Nat) (orderly : Bool) : Word :=
  word (cause * 2 ^ 56 + (if orderly then 2 ^ 48 else 0) + ep.loopCnt * 2 ^ 32 + nameIdx slot ep.state * 2 ^ 16
    + ep.state * 2 ^ 8 + 1)

/-- Where an endpoint's messages go: the physical node identifier of a node of this package, or a node beyond it. -/
def State.route (s : State) (i : Nat) (ep : Endpoint) : Nat :=
  let kind := ep.peer / 2 ^ 20
  let idx := ep.peer % 2 ^ 20
  if ep.peerPkg ≠ s.board.peer then beyond ep.peerPkg ep.peer
  else if kind = 0 ∨ kind = 5 then
    match s.physAt? i (idx % 1024) (idx / 1024) with
    | some j => kind * 2 ^ 20 + j
    | none => beyond 512 ep.peer
  else if kind = 1 then
    match s.partOf? i with
    | some (_, p) => 2 ^ 20 + (p.hy0 + idx / 16) * 16 + p.hx0 + idx % 16
    | none => ep.peer
  else ep.peer

/-- Send a body from an endpoint of core i to its peer. -/
def State.sendPeer (s : State) (i e : Nat) (cls : Cls) (b : Body) : State :=
  let ep := (s.core i).ep e
  match ep.binding with
  | .link =>
    match s.neighbour? i (e - 16) with
    | some j => s.send j (16 + opposite (e - 16)) 0 i cls b
    | none => s
  | _ => s.send (s.route i ep) ep.peerEp ep.chan i cls b

/-- Words that stand in a LINK port's queue or are on their way to it (R147). -/
def State.linkLoad (s : State) (j e : Nat) : Nat :=
  ((s.core j).ep e).linkIn.length
    + (s.net.filter fun p => p.dst == j && p.ep == e
        && (match p.body with
            | .word _ => true
            | _ => false)).length

/-- Whether a send from an endpoint would not wait (R142, R147): a credit is free, or the neighbour's queue has room. -/
def State.sendOk (s : State) (i e : Nat) : Bool :=
  let ep := (s.core i).ep e
  match ep.binding with
  | .link =>
    match s.neighbour? i (e - 16) with
    | some j => decide (s.linkLoad j (16 + opposite (e - 16)) < 16)
    | none => true
  | _ => decide (ep.credit + 1 ≤ storedOutMsg (s.slot i ep.slot))

/-- The endpoint in a new state, its loop head entered where it is one (R146, R162). -/
def Endpoint.enter (ep : Endpoint) (slot : List Byte) (st : Nat) : Endpoint :=
  if isLoopHead slot st then { ep with state := st, loopHd := st, loopCnt := 0 } else { ep with state := st }

/-- The endpoint after it has sent a message and taken its transition (R162). -/
def Endpoint.afterSend (ep : Endpoint) (slot : List Byte) (st : Nat) : Endpoint :=
  ({ ep with sseq := (ep.sseq + 1) % 2 ^ 16, credit := ep.credit + 1, outstd := ep.outstd + 1 }).enter slot st

/-- One more message counted in SENT (R332). -/
def State.countSent (s : State) (i : Nat) : State := s.onCore i fun c => { c with sent := (c.sent + 1) % 2 ^ 64 }

/-- One more message counted in RCVD (R332). -/
def State.countRcvd (s : State) (i : Nat) : State := s.onCore i fun c => { c with rcvd := (c.rcvd + 1) % 2 ^ 64 }

/-- Transmit a message of a type from a user endpoint (R162). -/
def State.transmit (s : State) (i e act mt : Nat) (cls : Cls) (data : List Byte) (poison : Bool)
    (deleg : Option Delegation) : State :=
  let ep := (s.core i).ep e
  let slot := s.slot i ep.slot
  let st := ((theTransition? slot ep.state act mt).map (·.dst)).getD ep.state
  let s := s.sendPeer i e cls (.msg ep.sseq mt data poison deleg)
  (s.onEp i e fun ep => ep.afterSend slot st).countSent i

/-- Send a word on a port bound to LINK (R162). -/
def State.linkSend (s : State) (i e : Nat) (w : Word) : State := (s.sendPeer i e .o (.word w)).countSent i

/-- The message numbered RSEQ, if it is in its slot (R164). -/
def Endpoint.nextMsg? (ep : Endpoint) : Option Arrived := ep.arrived.find? fun m => m.seq == ep.rseq

/-- Whether the next message to be delivered is numbered below a final number (R153), numbers counted modulo 2^16. -/
def Endpoint.below (ep : Endpoint) (final : Nat) : Bool :=
  let ahead := (final + 2 ^ 16 - ep.rseq) % 2 ^ 16
  decide (0 < ahead) && decide (ahead < 2 ^ 15)

/-- The close word, once every message below the final number has been delivered (R153). -/
def Endpoint.nextClose? (ep : Endpoint) : Option Word :=
  match ep.closeNote with
  | some (final, w) => if ep.mode = .closedAt ∧ !ep.below final then some w else none
  | none => none

/-- The TCM offset of the slot of a message (R145). -/
def Endpoint.slotAt (ep : Endpoint) (size seq : Nat) : Nat :=
  let k := if ep.rslots = 0 then 0 else (ep.rhead + (seq + 2 ^ 16 - ep.rseq) % 2 ^ 16) % ep.rslots
  ep.rbase * 32 + size * k

/-- The endpoint after one delivery (R164). -/
def Endpoint.afterRecv (ep : Endpoint) (slot : List Byte) (st : Nat) : Endpoint :=
  ({ ep with
      arrived := ep.arrived.filter fun m => m.seq != ep.rseq
      rseq := (ep.rseq + 1) % 2 ^ 16
      rhead := if ep.rslots = 0 then 0 else (ep.rhead + 1) % ep.rslots
      outstd := 0
      loopCnt := min (ep.loopCnt + 1) 0xFFFF }).enter slot st

/-- Take the message numbered RSEQ off a user endpoint: its credit returns and the state advances (R164). -/
def State.takeMsg (s : State) (i e act mt : Nat) : State :=
  let ep := (s.core i).ep e
  let slot := s.slot i ep.slot
  let st := ((theTransition? slot ep.state act mt).map (·.dst)).getD ep.state
  let s := s.sendPeer i e .o .credit
  (s.onEp i e fun ep => ep.afterRecv slot st).countRcvd i

/-- An endpoint that is no longer bound (R152): an e register is UNBOUND, a port returns to LINK (R147). -/
def Endpoint.unboundAt (ep : Endpoint) (e : Nat) : Endpoint :=
  if e < 16 then { requests := ep.requests }
  else { mode := .openM, binding := .link, linkIn := ep.linkIn, linkSoft := ep.linkSoft, requests := ep.requests }

/-- The buffer of a bound endpoint, kept until the peer's notice arrives (R142, R152). -/
def State.keepBuffer (s : State) (i e : Nat) : State :=
  let ep := (s.core i).ep e
  let size := storedSlotSize (s.slot i ep.slot)
  if ep.rslots = 0 then s
  else s.onCore i fun c =>
    { c with kept := c.kept ++ [{ chan := ep.chan, ep := e, base := ep.rbase * 32, len := ep.rslots * size,
                                  size := size }] }

/-- The CHANNEL-CLOSED notice of a close by failure (R153, R346): the node that failed, the close word, the endpoint. -/
def State.closedNotice (s : State) (i e node : Nat) (w : Word) : State := s.notice (s.pnum i) 4 (word node) w e

/-- The kept buffers of a core without that of an endpoint's channel. -/
def Core.dropKept (c : Core) (ep chan : Nat) : Core :=
  { c with kept := c.kept.filter fun k => !(k.ep == ep && k.chan == chan) }

/-- The kept buffer of an endpoint's channel. -/
def Core.kept? (c : Core) (ep chan : Nat) : Option KeptBuffer := c.kept.find? fun k => k.ep == ep && k.chan == chan

/-- A memory peer's abort posts its notice (R148, R153): a close word that is not orderly, from a node that is an
interface. -/
def State.peerFailed (s : State) (i e node : Nat) (w : Word) : State :=
  if 1 ≤ nodeKind node ∧ nodeKind node ≤ 3 ∧ bits w 48 1 = 0 then s.closedNotice i e node w else s

/-- A delegated endpoint that nobody adopts closes at the state it had at DELEG (R151, R168): its peer is notified and its
buffer freed; where a failure was the cause, a notice names the last holder (R153, R428). One whose peer has closed it is
only freed. The endpoints that its messages carry close as well, so many deep as the fuel says. An old holder in another package is told by core i. -/
def State.orphanFuel (i : Nat) : Nat → State → Delegation → Nat → Bool → State
  | 0, s, _, _, _ => s
  | n + 1, s, d, cause, failed =>
    if 2 ^ 24 ≤ d.holder then s.send d.holder d.holderEp d.chan i .o (.unadopted cause failed)
    else
      match (s.core d.holder).kept? d.holderEp d.chan with
      | none => s
      | some k =>
        match k.desc with
        | none => s
        | some x =>
          if k.newHolder.isSome then s
          else
            let w := closeWord d.enc x cause false
            let t := s.onCore d.holder fun c => c.dropKept k.ep k.chan
            let t := match k.closeNote with
              | some (_, v) => t.peerFailed d.holder k.ep k.closedBy v
              | none =>
                let u := t.send (s.route d.holder x) x.peerEp x.chan d.holder .o (.close x.sseq w)
                if failed then u.closedNotice d.holder d.holderEp (s.nodeOf d.holder) w else u
            k.msgs.foldl (fun (t : State) m =>
              match m.1.deleg with
              | some e => State.orphanFuel i n t e cause failed
              | none => t) t

/-- The closing of a delegated endpoint that nobody adopts, told at core i. -/
def State.orphan (s : State) (i : Nat) (d : Delegation) (cause : Nat) (failed : Bool) : State :=
  State.orphanFuel i 16 s d cause failed

/-- The endpoints that messages which nobody takes any more carry close. -/
def State.orphanAll (s : State) (i : Nat) (ms : List Arrived) (cause : Nat) (failed : Bool) : State :=
  ms.foldl (fun (t : State) m =>
    match m.deleg with
    | some d => t.orphan i d cause failed
    | none => t) s

/-- An endpoint is no longer bound, and the endpoints that its undelivered messages carry close (R151). -/
def State.unbindEp (s : State) (i e cause : Nat) (failed : Bool) : State :=
  (s.orphanAll i ((s.core i).ep e).arrived cause failed).onEp i e fun ep => ep.unboundAt e

/-- Close an endpoint as a failure or by ABORT (R152): the notice carries a cause, and the buffer is freed at once. -/
def State.abortEp (s : State) (i e cause : Nat) (failed : Bool) : State :=
  let ep := (s.core i).ep e
  let w := closeWord (s.slot i ep.slot) ep cause false
  (s.sendPeer i e .o (.close ep.sseq w)).unbindEp i e cause failed

/-- Close an endpoint as a failure of its holder (R152, R153); one whose peer has closed the channel is only unbound, as
under ABORT (R170). -/
def State.failEp (s : State) (i e cause : Nat) : State :=
  let ep := (s.core i).ep e
  if ep.mode = .closedAt then s.unbindEp i e cause true
  else (s.abortEp i e cause true).closedNotice i e (s.nodeOf i) (closeWord (s.slot i ep.slot) ep cause false)

/-- The reserved ranges of a core's channel buffer area (R142): bound endpoints and kept buffers. -/
def State.reserved (s : State) (i : Nat) : List (Nat × Nat) :=
  let c := s.core i
  ((List.range 20).filterMap fun e =>
    let ep := c.ep e
    if ep.binding == .user && ep.rslots != 0 then
      some (ep.rbase * 32, ep.rslots * storedSlotSize (s.slot i ep.slot)) else none)
  ++ (c.kept.filter fun k => k.len != 0).map fun k => (k.base, k.len)

/-- The lowest 32-byte-aligned offset where a buffer of n bytes fits (R142). -/
def State.fitBuffer (s : State) (i n : Nat) : Option Nat :=
  let lo := 0x1F000 - (s.core i).chb
  let taken := s.reserved i
  let free (a : Nat) := taken.all fun r => decide (a + n ≤ r.1) || decide (r.1 + r.2 ≤ a)
  ((List.range ((s.core i).chb / 32)).map fun k => lo + 32 * k).find? fun a => decide (a + n ≤ 0x1F000) && free a

/-- The RBASE and RSLOTS of a reservation for a slot's protocol (R142): nothing is reserved when INMSG is zero. -/
def State.reserve (s : State) (i : Nat) (slot : List Byte) : Option (Nat × Nat) :=
  let n := storedInMsg slot
  if n = 0 then some (0, 0) else (s.fitBuffer i (n * storedSlotSize slot)).map fun a => (a / 32, n)

/-! ## Pops (R78, R173) -/

/-- What a pop of a port finds. -/
inductive Popped where
  | word (w : Word) (s : State)
  /-- the message is poisoned: the instruction traps, has popped nothing, and the endpoint fails (R399) -/
  | poisoned (t : Trap) (e : Nat)
  | stall (w : Wait)

/-- The wait of a channel instruction on an endpoint (R157). -/
def chanWait (detail e : Nat) (left : Option Nat) : Wait := { detail := detail, left := left, args := [e] }

/-- kwait.LIMIT as a limit of the core (R348): at P0 an unbounded one is taken as 0xFFFF_FFFE. -/
def Core.defaultLimit (c : Core) : Option Nat :=
  let n := bits c.kwait 0 32
  if n = 0xFFFFFFFF then (if c.level = 0 then some 0xFFFFFFFE else none) else some n

/-- What is left of a limit: the running count of a wait in progress, or the limit itself. The wait of a pop has a limit
of its own, which no other wait of its instruction continues (R78, R157). -/
def Core.leftOf (c : Core) (limit : Option Nat) : Option Nat :=
  match c.wait with
  | some w => if w.detail = 0 ∨ w.stage = .popping then limit else w.left
  | none => limit

/-- The wait of a pop (R78): for the incoming word or for room at the opposite port, under one count of kwait.LIMIT. -/
def State.popWait (s : State) (i detail e : Nat) : Popped :=
  let c := s.core i
  let left := match c.wait with
    | some w => if w.stage = .popping then w.left else c.defaultLimit
    | none => c.defaultLimit
  .stall { chanWait detail e left with stage := .popping }

/-- The type of the message that a state's transition of an action carries; 0 where it has none. -/
def Endpoint.typeOf (ep : Endpoint) (slot : List Byte) (act : Nat) : Nat :=
  ((anyTransition? slot ep.state act).map (·.arg)).getD 0

/-- DETAIL of the refusal of a pop (R173). -/
def State.popDetail (s : State) (i e : Nat) : Option Nat :=
  if !s.hasPeer i e then some 0x0B
  else leastDetail (s.refusals i e .pop 0 ++ bad ((s.core i).ep e).nextClose?.isSome 0x08)

/-- DETAIL of the refusal of the send that a forward makes on a port; none at a port without a peer (R173). -/
def State.forwardDetail (s : State) (i e : Nat) : Option Nat :=
  let ep := (s.core i).ep e
  if !s.hasPeer i e || ep.binding == .link then none
  else leastDetail (s.refusals i e .send (ep.typeOf (s.slot i ep.slot) 0))

/-- An endpoint with its automaton moved on as a delivery or a send moves it; a LINK port has none (R147). -/
def State.advanced (s : State) (i e act : Nat) : State :=
  let ep := (s.core i).ep e
  let slot := s.slot i ep.slot
  if ep.binding == .link then s
  else s.onEp i e fun ep =>
    let st := ((anyTransition? slot ep.state act).map (·.dst)).getD ep.state
    if act = 0 then ep.afterSend slot st else ep.afterRecv slot st

/-- The endpoint and the DETAIL with which the pops of an instruction's fields, in order, are refused before it issues:
each field's own automaton and, under a forward, the opposite port's, as the pops before it leave them (R78, R173). -/
def State.popRefused? (s : State) (i : Nat) : List Opnd → Option (Nat × Nat)
  | [] => none
  | .port p fwd :: r =>
    let e := 16 + p.val
    let o := 16 + opposite p.val
    match s.popDetail i e with
    | some d => some (e, d)
    | none =>
      let t := s.advanced i e 1
      match if fwd then t.forwardDetail i o else none with
      | some d => some (o, d)
      | none => (if fwd then t.advanced i o 0 else t).popRefused? i r
  | _ :: r => s.popRefused? i r

/-- Send the forwarded copy of a popped word on the opposite port (R173): discarded without a peer, waiting, or sent. -/
def State.forwardWord (s : State) (i p : Nat) (w : Word) : Popped :=
  let e := 16 + opposite p
  let ep := (s.core i).ep e
  if !s.hasPeer i e then .word w s
  else if !s.sendOk i e then s.popWait i 0x21 e
  else if ep.binding == .link then .word w (s.linkSend i e w)
  else .word w (s.transmit i e 0 (ep.typeOf (s.slot i ep.slot) 0) .o (leBytes 8 w.toNat) false none)

/-- The word at the head of a LINK queue is read and leaves it: its single-bit errors are corrected and counted (R398). -/
def State.popLink (s : State) (i e : Nat) : State :=
  let hit := (((s.core i).ep e).linkSoft.filter (· == 0)).length
  let t := s.onEp i e fun ep =>
    { ep with linkIn := ep.linkIn.drop 1, linkSoft := (ep.linkSoft.filter (0 < ·)).map (· - 1) }
  if hit = 0 then t else t.countErrors (hallOf i) hit

/-- Pop one word of port p of core i, and forward it where the flag is set (R78, R173). A poisoned message aborts
the channel with CAUSE POISON and the pop is refused (R399). -/
def State.popPort (s : State) (i p : Nat) (fwd : Bool) : Popped :=
  let e := 16 + p
  let ep := (s.core i).ep e
  if ep.binding == .link then
    match ep.linkIn with
    | [] => s.popWait i 0x20 e
    | w :: _ =>
      let t := (s.popLink i e).countRcvd i
      if fwd then t.forwardWord i p w else .word w t
  else
    match ep.nextMsg? with
    | none => s.popWait i 0x20 e
    | some m =>
      let k := tcmKey i (ep.slotAt (storedSlotSize (s.slot i ep.slot)) m.seq)
      if poisoned s k 8 then .poisoned (refusalTrap ep 0x08) e
      else
        let t := (s.correct k 8).takeMsg i e 1 m.mt
        let w := word (leNat (readBytes s.mem k 8))
        if fwd then t.forwardWord i p w else .word w t

end Sys2Proof.Machine
end

