-- ==== Sys2Proof/Machine/Operands.lean ====
section
/-! DEFINITION. How an instruction executes: its predicate (R28), its privilege, use after last use and last uses (R30,
R61), its pops (R78), and the values of its operands (R76, R77). -/
namespace Sys2Proof.Machine

/-- The operand fields that every format has (R48 to R52). -/
structure Fields where
  pg : Fin 8
  pn : Bool
  s1 : Opnd
  s2 : Opnd
  s3 : Opnd
  l1 : Bool
  l2 : Bool
  l3 : Bool

/-- Operand fields of format A. -/
def fieldsA (o : OpA) : Fields :=
  { pg := o.pg, pn := o.pn, s1 := o.s1, s2 := o.s2, s3 := o.s3, l1 := o.l1, l2 := o.l2, l3 := o.l3 }

/-- Operand fields of format M. -/
def fieldsM (o : OpM) : Fields :=
  { pg := o.pg, pn := o.pn, s1 := o.s1, s2 := o.s2, s3 := o.s3, l1 := o.l1, l2 := o.l2, l3 := o.l3 }

/-- Operand fields of format C. -/
def fieldsC (o : OpC) : Fields :=
  { pg := o.pg, pn := o.pn, s1 := o.s1, s2 := o.s2, s3 := o.s3, l1 := o.l1, l2 := o.l2, l3 := o.l3 }

/-- Fields whose S3 is written and not read. -/
def Fields.noS3 (f : Fields) : Fields := { f with s3 := .none, l3 := false }

/-- The values of the source fields as 64-bit words. -/
structure Srcs where
  s1 : Word
  s2 : Word
  s3 : Word

/-- The value of a source field: a register, a timeline counter, or the word that was popped. -/
def Core.srcWord (c : Core) (n k : Nat) (o : Opnd) (popped : Word) : Word :=
  match o with
  | .g r => c.gVal n k r
  | .q r => (c.qVal n k r).zeroExtend 64
  | .tl t => word c.tl[t]
  | .port _ _ => popped
  | _ => 0

/-- The v register of a source field. -/
def Core.srcV (c : Core) (n k : Nat) (o : Opnd) : VReg :=
  match o with
  | .v r => c.vVal n k r
  | _ => 0

/-- The core after the last uses of an instruction (R30). -/
def Core.freeLast (c : Core) (f : Fields) : Core :=
  let c := if f.l1 then c.freeReg f.s1 else c
  let c := if f.l2 then c.freeReg f.s2 else c
  if f.l3 then c.freeReg f.s3 else c

/-- The first freed source, when LUTRAP is set (R30, R391). -/
def Core.usedFreed? (c : Core) (os : List Opnd) : Option Opnd :=
  if c.lutrap then os.find? c.isFreed else none

/-- Pop the port that a source field names (R78). -/
def State.popSrc (s : State) (o : Opnd) : Popped :=
  match o with
  | .port p f => s.popPort s.cur p.val f
  | _ => .word 0 s

/-- The three fields popped in order S1, S2, S3 (R78), then the rest on the words and the state after the pops. A pop that
an automaton refuses is refused before any of them waits (R173). A poisoned message fails its endpoint (R399). -/
def withPops (f : Fields) (s : State) (k : Word → Word → Word → State → Result) : Result :=
  match s.popRefused? s.cur [f.s1, f.s2, f.s3] with
  | some (e, d) => .trap s (refusalTrap (s.self.ep e) d)
  | none =>
    match s.popSrc f.s1 with
    | .poisoned t e => .trap (s.failEp s.cur e 0x04) t
    | .stall w => .wait s w
    | .word a s1 =>
      match s1.popSrc f.s2 with
      | .poisoned t e => .trap (s.failEp s.cur e 0x04) t
      | .stall w => .wait s w
      | .word b s2 =>
        match s2.popSrc f.s3 with
        | .poisoned t e => .trap (s.failEp s.cur e 0x04) t
        | .stall w => .wait s w
        | .word d s3 => k a b d s3

/-- The state in which an instruction writes: popped, last uses freed, one free value drawn (R30, log 5). -/
def State.begin (s : State) (f : Fields) : State :=
  { s with free := s.free + 1 }.onCore s.cur fun c => c.freeLast f

/-- An instruction that executes (items 3 and 4 of R61, then pops and its own effect). The body has the source values,
the state before the instruction, on which it traps or waits, and the state in which it writes. -/
def executing (f : Fields) (priv : Core → Option Trap) (also : List Opnd) (s : State)
    (body : Srcs → State → State → Result) : Result :=
  let c := s.self
  match priv c with
  | some t => .trap s t
  | none =>
    match c.usedFreed? ([f.s1, f.s2, f.s3] ++ also) with
    | some o => .trap s { cls := 0x06, detail := 0, tval := word (opndCode o) }
    | none =>
      withPops f s fun a b d s1 =>
        body { s1 := c.srcWord s.free 1 f.s1 a, s2 := c.srcWord s.free 2 f.s2 b, s3 := c.srcWord s.free 3 f.s3 d }
          s (s1.begin f)

/-- The trap of an instruction whose predicate register is freed, where LUTRAP is set (R30 item 4): PG is read before
anything else of the instruction, and ktval holds its specifier (log 99). -/
def Core.predTrap? (c : Core) (pg : Fin 8) : Option Trap :=
  (c.usedFreed? [.q pg]).map fun o => { cls := 0x06, detail := 0, tval := word (opndCode o) }

/-- An instruction governed by bit 0 of its predicate (R28): without effect where it does not execute. -/
def issued (f : Fields) (priv : Core → Option Trap) (also : List Opnd) (s : State)
    (body : Srcs → State → State → Result) : Host.Outcome State Fault Refusal :=
  .next (match s.self.predTrap? f.pg with
    | some t => .trap s t
    | none => if s.self.executes s.free f.pg f.pn then executing f priv also s body else .ok s : Result).state

/-- No privilege is needed. -/
def anyLevel (_ : Core) : Option Trap := none

/-- The privilege trap with its instruction bits (R391). -/
def privTrap (ir : Word) (detail : Nat) : Trap := { cls := 0x04, detail := detail, tval := ir }

/-- Bits 63:0 of an instruction (R60, R391). -/
def irOf (i : Instr) : Word := ((encode i).getD 0).truncate 64

/-- Only P1 and P2 may execute it (R391). -/
def needsP1 (ir : Word) (c : Core) : Option Trap := if c.level = 0 then some (privTrap ir 0x01) else none

/-- An unbounded limit in IMM32 is refused at P0 (R157, R348). -/
def limitPriv (ir : Word) (imm : BitVec 32) (c : Core) : Option Trap :=
  if c.level = 0 ∧ imm.toNat = 0xFFFFFFFF then some (privTrap ir 0x02) else none

/-- The limit that IMM32 gives (R348); none is unbounded. -/
def Core.limitOf (c : Core) (imm : BitVec 32) : Option Nat :=
  if imm.toNat = 0 then c.defaultLimit else if imm.toNat = 0xFFFFFFFF then none else some imm.toNat

/-- The count left of a wait with the limit of IMM32. -/
def Core.waitLeft (c : Core) (imm : BitVec 32) : Option Nat := c.leftOf (c.limitOf imm)

/-! ## Integers of a type (R76) -/

/-- Signed integer types: codes 0–3 and i4. -/
def tySigned : Ty → Bool
  | .i8 | .i16 | .i32 | .i64 | .i4 => true
  | _ => false

/-- ReadInt (R76). -/
def readInt (ty : Ty) (x : Word) : Int :=
  let w := tyBits ty
  if tySigned ty then signedOf w x.toNat else ((x.toNat % 2 ^ w : Nat) : Int)

/-- The least value of an integer type. -/
def tyMin (ty : Ty) : Int := if tySigned ty then -(2 ^ (tyBits ty - 1) : Nat) else 0

/-- The greatest value of an integer type. -/
def tyMax (ty : Ty) : Int :=
  if tySigned ty then ((2 ^ (tyBits ty - 1) : Nat) : Int) - 1 else ((2 ^ tyBits ty : Nat) : Int) - 1

/-- An integer clamped to a type's range. -/
def clampTy (ty : Ty) (x : Int) : Int := max (tyMin ty) (min (tyMax ty) x)

/-- The low w bits of an integer, as a number. -/
def lowBits (w : Nat) (x : Int) : Nat := (x % (2 ^ w : Nat)).toNat

/-- A w-bit pattern sign-extended for a signed type and zero-extended for an unsigned one (R76). -/
def extendTy (ty : Ty) (x : Nat) : Word :=
  if tySigned ty then BitVec.ofInt 64 (signedOf (tyBits ty) x) else word (x % 2 ^ tyBits ty)

/-- The result of an instruction from its exact integer (R76): clamped under SAT, narrowed, extended. -/
def resultOf (ty : Ty) (sat : Bool) (x : Int) : Word :=
  let y := if sat then clampTy ty x else x
  extendTy ty (lowBits (tyBits ty) y)

/-- Operand b of R77: S2, or the immediate. -/
def operandB (o : OpA) (s2 : Word) : Int :=
  if o.s2 ≠ .none then readInt o.ty s2
  else if tySigned o.ty then readInt o.ty (sext32 o.imm)
  else readInt o.ty (o.imm.zeroExtend 64)

/-- The amount of a shift (R82). -/
def amount (o : OpA) (s2 : Word) : Nat := if o.s2 ≠ .none then s2.toNat else o.imm.toNat

/-- The w-bit pattern of S1 (R82). -/
def patternOf (ty : Ty) (x : Word) : Nat := x.toNat % 2 ^ tyBits ty

/-- The bytes of one element: Size(TY) of R80. -/
def tySize (ty : Ty) : Nat := tyBits ty / 8

/-! ## Shapes of instructions -/

/-- A scalar instruction whose result goes to D (R76). -/
def scalarOp (o : OpA) (s : State) (val : Srcs → Word) : Host.Outcome State Fault Refusal :=
  issued (fieldsA o) anyLevel [] s fun x _ s1 => .ok (s1.setSelf (s1.self.setDst o.d (val x)))

/-- A scalar instruction that changes its own core from its sources. -/
def coreOp (o : OpA) (s : State) (f : Srcs → Core → Core) : Host.Outcome State Fault Refusal :=
  issued (fieldsA o) anyLevel [] s fun x _ s1 => .ok (s1.setSelf (f x s1.self))

end Sys2Proof.Machine
end

