-- ==== Sys2Proof/Machine/Flags.lean ====
section
/-! DEFINITION. Every flag computation: the conditions of a comparison (R59, R88), the resolving of DYN (R56), and the
counting of events in kev0 to kev15 (R249). -/
namespace Sys2Proof.Machine

/-- The rounding mode of an instruction, DYN resolved from kfp.RM at issue (R56, R239). -/
def Core.rm (c : Core) (rm : Rm) : Rm :=
  match rm with
  | .dyn => (rmOfCode (bits c.kfp 0 3)).getD .rne
  | m => m

/-- A condition of R59 on an order: 0 EQ, 1 NE, 2 LT, 3 LE, 4 GT, 5 GE, 6 UNO, 7 ORD. -/
def condOf (sub : Nat) (order : Int) : Bool :=
  match sub with
  | 0 => order == 0
  | 1 => order != 0
  | 2 => decide (order < 0)
  | 3 => decide (order ≤ 0)
  | 4 => decide (0 < order)
  | 5 => decide (0 ≤ order)
  | 6 => false
  | _ => true

/-- The order of two integers. -/
def cmpInt (a b : Int) : Int := if a < b then -1 else if b < a then 1 else 0

/-- A condition on two floating patterns (R88): unordered with a NaN, and its invalid event. -/
def fCond (ty : Ty) (sub : Nat) (a b : Nat) : Bool × Ev :=
  let u := unpack ty a
  let v := unpack ty b
  let tiny := ev 14 (isSubnormal ty a || isSubnormal ty b)
  if u.isNan || v.isNan then
    (sub == 1 || sub == 6, tiny ||| ev 0 (u == .snan || v == .snan || (decide (2 ≤ sub) && decide (sub ≤ 5))))
  else (condOf sub (cmpVals u v), tiny)

/-- A condition on two patterns of a type: integer or floating as TY gives (R88). -/
def condTy (ty : Ty) (sub : Nat) (a b : Nat) : Bool × Ev :=
  if isFloat ty then fCond ty sub a b else (condOf sub (cmpInt (intOf ty a) (intOf ty b)), 0)

/-- A counter with events added, saturating at 0xFFFF_FFFF (R249). -/
def countUp (x : Word) (n : Nat) : Word := word (min (bits x 0 32 + n) 0xFFFFFFFF)

/-- The core with the events of the elements of a result counted (R249, R254). -/
def Core.count (c : Core) (es : List Ev) : Core :=
  { c with kev := Vector.ofFn fun k => countUp c.kev[k] (es.filter fun e => e.getLsbD k.val).length }

end Sys2Proof.Machine
end

