-- ==== Sys2Proof/Machine/Scalar.lean ====
section
/-! DEFINITION. Family 0: integer arithmetic, logic, shifts, counts, selection, moves, bit fields and predicate logic
(R80 to R89), but CRD and CWR. -/
namespace Sys2Proof.Machine

/-- Division rounding toward zero with the cases of R81. -/
def divInt (ty : Ty) (a b : Int) : Int :=
  if b = 0 then (if tySigned ty then -1 else ((2 ^ tyBits ty : Nat) : Int) - 1) else Int.tdiv a b

/-- Remainder with the cases of R81. -/
def remInt (a b : Int) : Int := if b = 0 then a else a - b * Int.tdiv a b

/-- Count of leading zeros of a w-bit pattern, scanning from bit w−1 (R82). -/
def clzNat : Nat → Nat → Nat
  | 0, _ => 0
  | w + 1, p => if field p w 1 = 1 then 0 else 1 + clzNat w p

/-- Count of trailing zeros of a w-bit pattern (R82). -/
def ctzNat : Nat → Nat → Nat
  | 0, _ => 0
  | w + 1, p => if p % 2 = 1 then 0 else 1 + ctzNat w (p / 2)

/-- A w-bit pattern rotated left by n, 0 ≤ n < w (R82). -/
def rotlNat (w p n : Nat) : Nat := (p * 2 ^ n) % 2 ^ w + p / 2 ^ (w - n)

/-- Two operands combined as integers, narrowed and extended (R76, R77). -/
def intOp (o : OpA) (sat : Bool) (f : Int → Int → Int) (s : State) : Host.Outcome State Fault Refusal :=
  scalarOp o s fun x => resultOf o.ty sat (f (readInt o.ty x.s1) (operandB o x.s2))

/-- Two w-bit patterns combined bitwise (R82). -/
def bitOp (o : OpA) (f : Nat → Nat → Nat) (s : State) : Host.Outcome State Fault Refusal :=
  scalarOp o s fun x => extendTy o.ty (f (patternOf o.ty x.s1) (lowBits (tyBits o.ty) (operandB o x.s2)))

/-- One w-bit pattern and an amount (R82). -/
def shiftOp (o : OpA) (f : Nat → Nat → Nat → Nat) (s : State) : Host.Outcome State Fault Refusal :=
  scalarOp o s fun x => extendTy o.ty (f (tyBits o.ty) (patternOf o.ty x.s1) (amount o x.s2))

/-- ADD (R80). -/
def execAdd (o : OpA) (s : State) : Host.Outcome State Fault Refusal := intOp o o.sat (fun a b => a + b) s

/-- SUB (R80). -/
def execSub (o : OpA) (s : State) : Host.Outcome State Fault Refusal := intOp o o.sat (fun a b => a - b) s

/-- ADDI (R80): IMM32 is always an immediate, and S2 may be absent. -/
def execAddi (o : OpA) (s : State) : Host.Outcome State Fault Refusal :=
  scalarOp o s fun x => resultOf o.ty o.sat (readInt o.ty x.s1 + readInt o.ty x.s2 + o.imm.toInt)

/-- MUL (R80). -/
def execMul (o : OpA) (s : State) : Host.Outcome State Fault Refusal := intOp o o.sat (fun a b => a * b) s

/-- MULH (R80). -/
def execMulh (o : OpA) (s : State) : Host.Outcome State Fault Refusal :=
  intOp o false (fun a b => Int.fdiv (a * b) (2 ^ tyBits o.ty : Nat)) s

/-- MULHN (R80). -/
def execMulhn (o : OpA) (s : State) : Host.Outcome State Fault Refusal :=
  intOp o false (fun a b => Int.fdiv (a * b) (2 ^ tyBits o.ty : Nat)) s

/-- DIV (R80, R81). -/
def execDiv (o : OpA) (s : State) : Host.Outcome State Fault Refusal := intOp o o.sat (divInt o.ty) s

/-- DIVN (R80, R81). -/
def execDivn (o : OpA) (s : State) : Host.Outcome State Fault Refusal := intOp o false (divInt o.ty) s

/-- REM (R80, R81). -/
def execRem (o : OpA) (s : State) : Host.Outcome State Fault Refusal := intOp o false remInt s

/-- REMN (R80, R81). -/
def execRemn (o : OpA) (s : State) : Host.Outcome State Fault Refusal := intOp o false remInt s

/-- AND (R82). -/
def execAnd (o : OpA) (s : State) : Host.Outcome State Fault Refusal := bitOp o (fun a b => a &&& b) s

/-- OR (R82). -/
def execOr (o : OpA) (s : State) : Host.Outcome State Fault Refusal := bitOp o (fun a b => a ||| b) s

/-- XOR (R82). -/
def execXor (o : OpA) (s : State) : Host.Outcome State Fault Refusal := bitOp o (fun a b => a ^^^ b) s

/-- ANDN (R82). -/
def execAndn (o : OpA) (s : State) : Host.Outcome State Fault Refusal :=
  bitOp o (fun a b => a &&& (2 ^ tyBits o.ty - 1 - b)) s

/-- ORN (R82). -/
def execOrn (o : OpA) (s : State) : Host.Outcome State Fault Refusal :=
  bitOp o (fun a b => a ||| (2 ^ tyBits o.ty - 1 - b)) s

/-- SHL (R82): x is a · 2^n, clamped under SAT; an amount of w or more gives what w gives. -/
def execShl (o : OpA) (s : State) : Host.Outcome State Fault Refusal :=
  scalarOp o s fun x =>
    resultOf o.ty o.sat (readInt o.ty x.s1 * (2 ^ min (amount o x.s2) (tyBits o.ty) : Nat))

/-- SHR (R82). -/
def execShr (o : OpA) (s : State) : Host.Outcome State Fault Refusal :=
  shiftOp o (fun w p n => p / 2 ^ min n w) s

/-- SHRA (R82): S1 read as signed whatever TY. -/
def execShra (o : OpA) (s : State) : Host.Outcome State Fault Refusal :=
  shiftOp o (fun w p n => lowBits w (Int.fdiv (signedOf w p) (2 ^ min n w : Nat))) s

/-- ROTL (R82). -/
def execRotl (o : OpA) (s : State) : Host.Outcome State Fault Refusal :=
  shiftOp o (fun w p n => rotlNat w p (n % w)) s

/-- ROTR (R82). -/
def execRotr (o : OpA) (s : State) : Host.Outcome State Fault Refusal :=
  shiftOp o (fun w p n => rotlNat w p ((w - n % w) % w)) s

/-- CLZ (R82). -/
def execClz (o : OpA) (s : State) : Host.Outcome State Fault Refusal :=
  scalarOp o s fun x => word (clzNat (tyBits o.ty) (patternOf o.ty x.s1))

/-- CTZ (R82). -/
def execCtz (o : OpA) (s : State) : Host.Outcome State Fault Refusal :=
  scalarOp o s fun x => word (ctzNat (tyBits o.ty) (patternOf o.ty x.s1))

/-- POPC (R82). -/
def execPopc (o : OpA) (s : State) : Host.Outcome State Fault Refusal :=
  scalarOp o s fun x => word (onesOf (tyBits o.ty) (patternOf o.ty x.s1))

/-- MIN (R83). -/
def execMin (o : OpA) (s : State) : Host.Outcome State Fault Refusal := intOp o false (fun a b => min a b) s

/-- MAX (R83). -/
def execMax (o : OpA) (s : State) : Host.Outcome State Fault Refusal := intOp o false (fun a b => max a b) s

/-- MINN (R83). -/
def execMinn (o : OpA) (s : State) : Host.Outcome State Fault Refusal := intOp o false (fun a b => min a b) s

/-- MAXN (R83). -/
def execMaxn (o : OpA) (s : State) : Host.Outcome State Fault Refusal := intOp o false (fun a b => max a b) s

/-- SEL (R83): a where bit 0 of S3 is one, otherwise b; both are read. -/
def execSel (o : OpA) (s : State) : Host.Outcome State Fault Refusal :=
  scalarOp o s fun x =>
    resultOf o.ty false (if x.s3.getLsbD 0 then readInt o.ty x.s1 else operandB o x.s2)

/-- MOV (R86): all 64 bits; a q source is zero-extended, and a q destination receives bits 31:0. -/
def execMov (o : OpA) (s : State) : Host.Outcome State Fault Refusal := scalarOp o s fun x => x.s1

/-- MOVI (R87). -/
def execMovi (o : OpA) (s : State) : Host.Outcome State Fault Refusal :=
  scalarOp o s fun _ =>
    resultOf o.ty false (readInt o.ty (if tySigned o.ty then sext32 o.imm else o.imm.zeroExtend 64))

/-- MOVHI (R87). -/
def execMovhi (o : OpA) (s : State) : Host.Outcome State Fault Refusal :=
  scalarOp o s fun x => word (o.imm.toNat * 2 ^ 32 + x.s1.toNat % 2 ^ 32)

/-- LEA (R80): base plus scaled index plus offset, wrapping at 64 bits. -/
def execLea (o : OpA) (s : State) : Host.Outcome State Fault Refusal :=
  scalarOp o s fun x => x.s1 + x.s2 * word (tySize o.ty) + sext32 o.imm

/-- QAND (R89). -/
def execQand (o : OpA) (s : State) : Host.Outcome State Fault Refusal := scalarOp o s fun x => x.s1 &&& x.s2

/-- QOR (R89). -/
def execQor (o : OpA) (s : State) : Host.Outcome State Fault Refusal := scalarOp o s fun x => x.s1 ||| x.s2

/-- QXOR (R89). -/
def execQxor (o : OpA) (s : State) : Host.Outcome State Fault Refusal := scalarOp o s fun x => x.s1 ^^^ x.s2

/-- QNOT (R89). -/
def execQnot (o : OpA) (s : State) : Host.Outcome State Fault Refusal := scalarOp o s fun x => ~~~x.s1

/-- POS and LEN of a bit-field description (R84). -/
def bitField (imm : BitVec 32) : Nat × Nat := (field imm.toNat 0 6, field imm.toNat 8 7)

/-- BFX (R84). -/
def execBfx (o : OpA) (s : State) : Host.Outcome State Fault Refusal :=
  scalarOp o s fun x =>
    let (pos, len) := bitField o.imm
    let f := bits x.s1 pos len
    if tySigned o.ty then BitVec.ofInt 64 (signedOf len f) else word f

/-- BFI (R84). -/
def execBfi (o : OpA) (s : State) : Host.Outcome State Fault Refusal :=
  scalarOp o s fun x =>
    let (pos, len) := bitField o.imm
    setBits x.s2 pos len (bits x.s1 0 len)

/-- EXTS (R85). -/
def execExts (o : OpA) (s : State) : Host.Outcome State Fault Refusal :=
  scalarOp o s fun x => BitVec.ofInt 64 (signedOf (tyBits o.ty) x.s1.toNat)

/-- EXTZ (R85). -/
def execExtz (o : OpA) (s : State) : Host.Outcome State Fault Refusal :=
  scalarOp o s fun x => word (patternOf o.ty x.s1)

/-- CMP (R88): all ones or all zeros, with the invalid event counted, and no other (R249). -/
def execCmp (o : OpA) (s : State) : Host.Outcome State Fault Refusal :=
  issued (fieldsA o) anyLevel [] s fun x _ s1 =>
    let b := if isFloat o.ty then x.s2.toNat else lowBits (tyBits o.ty) (operandB o x.s2)
    let r := condTy o.ty o.sub.toNat (patternOf o.ty x.s1) (b % 2 ^ tyBits o.ty)
    let c := s1.self.setDst o.d (if r.1 then word 0xFFFFFFFF else 0)
    .ok (s1.setSelf (c.count [ev 0 (r.2.getLsbD 0)]))

end Sys2Proof.Machine
end

