-- ==== Sys2Proof/Machine/Local.lean ====
section
/-! DEFINITION. Local addresses and their checks (R92, R93, R124), local stores with their marks (R365, R233, R33), and
the instructions of family 2 (R94 to R101). -/
namespace Sys2Proof.Machine

/-- The two local windows (R92). -/
inductive Window where
  | tcm | scratch
  deriving DecidableEq, Repr

/-- Base of the TCM window. -/
def tcmBase : Nat := 0x8000000000000000

/-- Base of the scratchpad window. -/
def scratchBase : Nat := 0x8000000100000000

/-- The window that holds n bytes from an address, and the offset; none when a byte lies outside (R92). -/
def windowOf? (a : Word) (n : Nat) : Option (Window × Nat) :=
  let x := a.toNat
  if tcmBase ≤ x ∧ x + n ≤ tcmBase + Config.tcmBytes then some (.tcm, x - tcmBase)
  else if scratchBase ≤ x ∧ x + n ≤ scratchBase + Config.scratchBytes then some (.scratch, x - scratchBase)
  else none

/-- How an access uses its bytes (R93, R124). -/
inductive Use where
  | load | store | atomic
  deriving DecidableEq, Repr

/-- Whether region n of the guard registers covers an offset of a window (R124). -/
def Core.covers (c : Core) (n : Fin 8) (w : Window) (o : Nat) : Bool :=
  let k := c.kguard[n]
  bits k 63 1 == 1 && (bits k 60 1 == 1) == (w == .scratch)
    && decide (bits k 0 16 * 128 ≤ o) && decide (o < (bits k 0 16 + bits k 16 16) * 128)

/-- Whether a byte is granted at P0 (R124). -/
def Core.granted (c : Core) (u : Use) (w : Window) (o : Nat) : Bool :=
  let some? (bit : Nat) := (List.finRange 8).any fun n => c.covers n w o && bits c.kguard[n] bit 1 == 1
  match u with
  | .load => some? 62
  | .store => some? 61
  | .atomic => some? 62 && some? 61

/-- Length of the park area (R32); 0 when kspill is zero. -/
def Core.parkLen (c : Core) : Nat := if c.kspill = 0 then 0 else 256 + 32 * bits c.kspill 32 10

/-- Start of the park area (R32). -/
def Core.parkBase (c : Core) : Nat := bits c.kspill 0 17

/-- Whether two ranges of bytes meet. -/
def meets (a n b m : Nat) : Bool := decide (a < b + m) && decide (b < a + n) && decide (0 < n) && decide (0 < m)

/-- Check 0x03 of R93 for n bytes at a TCM offset. -/
def Core.areaBad (c : Core) (u : Use) (o n : Nat) : Bool :=
  let system := meets o n (0x1F000 - c.chb) (0x1000 + c.chb)
  if c.level = 0 then system || meets o n c.parkBase c.parkLen else u != .load && system

/-- The first check of R93 that an access of n bytes fails. -/
def Core.localDetail (c : Core) (u : Use) (a : Word) (n align : Nat) : Option Nat :=
  match windowOf? a n with
  | none => some 0x01
  | some (w, o) =>
    if a.toNat % align ≠ 0 then some 0x02
    else if w = .tcm ∧ c.areaBad u o n then some 0x03
    else if c.level = 0 ∧ !((List.range n).all fun k => c.granted u w (o + k)) then some 0x04
    else none

/-- The storage key of a local address (R92), as core i sees it. -/
def localKey (i : Nat) (a : Word) : Nat :=
  if a.toNat < scratchBase then tcmKey i (a.toNat - tcmBase) else scratchKey (clusterOf i) (a.toNat - scratchBase)

/-- The local-guard trap (R93). -/
def guardTrap (d : Nat) (a : Word) : Trap := { cls := 0x05, detail := d, tval := a }

/-- The trap that an address of family 2 meets: R93, and e1 under R98. DESIGN CHOICE (log 102): e1 not bound to SCRATCH
is refused with DETAIL 0x01, after every check of R93; the spec gives neither the DETAIL nor the place. -/
def Core.addressTrap (c : Core) (u : Use) (a : Word) (n align : Nat) : Option Trap :=
  match c.localDetail u a n align with
  | some d => some (guardTrap d a)
  | none => if scratchBase ≤ a.toNat ∧ (c.ep 1).binding ≠ .scratch then some (refusalTrap (c.ep 1) 0x01) else none

/-- The trap that an access of family 2 meets before it has any effect: its address, then poison under R399. -/
def State.localTrap (s : State) (u : Use) (a : Word) (n align : Nat) : Option Trap :=
  match s.self.addressTrap u a n align with
  | some t => some t
  | none =>
    let k := localKey s.cur a
    let hit := match u with
      | .store => partlyPoisoned s k n
      | _ => poisoned s k n
    if hit then some (guardTrap 0x10 a) else none

/-! ## Stores -/

/-- The cores of a cluster, by member index (R13). -/
def memberCore (cluster m : Nat) : Nat :=
  ((cluster / 256) * 4 + m / 4) * 1024 + (cluster % 256) * 4 + m % 4

/-- The member whose slice holds a scratchpad offset, and the offset in the slice (R126). -/
def sliceOf (o : Nat) : Nat × Nat := (o / 128 % 16, o / 2048 * 128 + o % 128)

/-- The dirty bit of one scratchpad byte at the core that contributes its slice (R365). -/
def State.touchScratch (s : State) (cluster o : Nat) : State :=
  s.onCore (memberCore cluster (sliceOf o).1) fun c =>
    { c with dirty := c.dirty ||| (1#96 <<< (32 + (sliceOf o).2 / 4096)) }

/-- Waiters of the monitor table whose word a served write has changed (R231, R233). -/
def fireMonitors (old new : List Host.Cell) (ms : List Monitor) : List Monitor :=
  ms.map fun m =>
    if readBytes old m.loc (m.width / 8) ≠ readBytes new m.loc (m.width / 8) then { m with fired := true } else m

/-- Bytes written to a cluster's scratchpad, with dirty bits and monitors. -/
def State.storeScratch (s : State) (cluster o : Nat) (bs : List Byte) : State :=
  let t := storeBytes s (scratchKey cluster o) bs
  let t := (List.range bs.length).foldl (fun (t : State) (k : Nat) =>
    if k = 0 ∨ (o + k) % 128 = 0 then t.touchScratch cluster (o + k) else t) t
  if (t.cluster cluster).monitors.isEmpty then t
  else t.setCluster cluster { t.cluster cluster with
    monitors := fireMonitors s.mem t.mem (t.cluster cluster).monitors }

/-- The TCM offset and length of an entry of the spill map (R32). -/
def Core.entryAt (c : Core) (e : Nat) : Nat × Nat :=
  if e < 96 then (c.parkBase + 2 * e, 2) else (c.parkBase + 192 + (e - 96), 1)

/-- Spill-map entry numbers of the registers whose entries lie in a changed range of the park area (R32, R33): 0–63
g, 64–95 v, 96–103 q. -/
def Core.entriesIn (c : Core) (o n : Nat) : List Nat :=
  if c.parkLen = 0 then []
  else
    ((List.range 96).filter fun k => meets o n (c.parkBase + 2 * k) 2)
      ++ ((List.range 8).filter fun k => meets o n (c.parkBase + 192 + k) 1).map (· + 96)

/-- Bytes written by core i to a local address in one of its windows. -/
def State.storeLocal (s : State) (i : Nat) (a : Word) (bs : List Byte) : State :=
  if a.toNat < scratchBase then s.storeTcm i (a.toNat - tcmBase) bs
  else s.storeScratch (clusterOf i) (a.toNat - scratchBase) bs

/-- Barrier objects in a range leave their fields undefined after an ordinary store there (R193). -/
def State.taintObjects (s : State) (k n : Nat) : State :=
  { s with objects := s.objects.map fun o => if meets o.1 32 k n then (o.1, true) else o }

/-! ## Two ordering domains (R206, R219) -/

/-- The aligned 8-byte parts that a range of keys touches. -/
def partsOf (k n : Nat) : List Nat :=
  if n = 0 then [] else (List.range ((k + n - 1) / 8 + 1 - k / 8)).map fun j => (k / 8 + j) * 8

/-- The parts of a range kept as they are before a write. -/
def State.keepOld (s : State) (k n : Nat) (x : OldPart) : State :=
  let new := (partsOf k n).map fun p => { x with key := p, old := leNat (readBytes s.mem p 8) }
  { s with unsettled := s.unsettled ++ new.filter fun y => !s.unsettled.contains y }

/-- Byte j of a part replaced by the byte that a store writes there. -/
def patchPart (k : Nat) (bs : List Byte) (x : OldPart) : OldPart :=
  { x with old := leNat ((leBytes 8 x.old).mapIdx fun j b =>
      if k ≤ x.key + j then (bs[x.key + j - k]?).getD b else b) }

/-- The state before a store of core i's own program: its commands may miss the store until the next FENCEX, and no load
of its own may miss it (R97, R219). -/
def State.storing (s : State) (i k : Nat) (bs : List Byte) : State :=
  let patch (x : OldPart) : OldPart := if x.cmd.isSome ∧ x.readers.contains i then patchPart k bs x else x
  { s with unsettled := s.unsettled.map patch }.keepOld k bs.length { key := 0, old := 0, core := i }

/-- A range read where each part may still have an older value (R219): a free value chooses among those that satisfy a
condition and the value in memory. -/
def State.readOld (s : State) (p : OldPart → Bool) (k n : Nat) : List Byte :=
  match s.unsettled.filter fun x => p x && meets x.key 8 k n with
  | [] => readBytes s.mem k n
  | l => (readBytes s.mem k n).mapIdx fun j b =>
    let part := (k + j) / 8 * 8
    let older := l.filter fun x => x.key == part
    match older[(Config.freeBits s.free (2 ^ 80 + part) 32).toNat % (older.length + 1)]? with
    | some x => ((leBytes 8 x.old)[(k + j) % 8]?).getD b
    | none => b

/-- Core i has observed commands of its own (R216): what they wrote is settled. -/
def State.observed (s : State) (i : Nat) (p : Nat × Nat → Bool) : State :=
  { s with unsettled := s.unsettled.filter fun x => !(x.core == i && x.cmd.any p) }

/-- A FENCEX of core i has completed (R213, R219): its stores and its commands' writes are settled. -/
def State.settled (s : State) (i : Nat) : State :=
  { s with unsettled := s.unsettled.filter fun x => x.core != i }

/-- Core i has observed a completed phase of the object at a key (R216, R217): it reads what the commands that counted
toward it wrote. -/
def State.sawObject (s : State) (i k : Nat) : State :=
  let saw (x : OldPart) : OldPart :=
    if x.obj = some k ∧ x.counted then { x with readers := x.readers.filter (· != i) } else x
  { s with unsettled := (s.unsettled.map saw).filter fun x => x.cmd.isNone || !x.readers.isEmpty }

/-- A phase of the object at a key completes: the writes that counted toward it can be observed there. -/
def State.countedAt (s : State) (k : Nat) : State :=
  let mark (x : OldPart) : OldPart := if x.obj = some k then { x with counted := true } else x
  { s with unsettled := s.unsettled.map mark }

/-- A store of the core's own program, which may change entries of the spill map at P1 (R33) or meet a barrier object
(R193). -/
def State.progStore (s : State) (a : Word) (bs : List Byte) : State :=
  let c := s.self
  let s := s.storing s.cur (localKey s.cur a) bs
  let t := (s.storeLocal s.cur a bs).taintObjects (localKey s.cur a) bs.length
  if a.toNat < scratchBase then
    match (c.entriesIn (a.toNat - tcmBase) bs.length).filter fun e =>
        let entry (m : List Host.Cell) := readBytes m (tcmKey s.cur (c.entryAt e).1) (c.entryAt e).2
        entry s.mem != entry t.mem with
    | [] => t
    | l => t.onCore s.cur fun c => { c with parkUndef := (c.parkUndef ++ l).eraseDups }
  else t

/-- Bytes that core i reads at a local address. -/
def State.loadLocal (s : State) (i : Nat) (a : Word) (n : Nat) : List Byte := readBytes s.mem (localKey i a) n

/-- Bytes that the program of core i loads: a part that a command wrote, and that the core has not observed, has its old
value or the new one (R219). -/
def State.loadSeen (s : State) (i : Nat) (a : Word) (n : Nat) : List Byte :=
  s.readOld (fun x => x.cmd.isSome && x.readers.contains i) (localKey i a) n

/-- Bytes that a command of core i reads: a part that the core's program stored since its last FENCEX has its old value or
the new one (R219). -/
def State.loadEngine (s : State) (i : Nat) (a : Word) (n : Nat) : List Byte :=
  s.readOld (fun x => x.cmd.isNone && x.core == i) (localKey i a) n

/-- The number that n bytes at a local address hold. -/
def State.localNat (s : State) (a : Word) (n : Nat) : Nat := leNat (s.loadLocal s.cur a n)

/-- The number that the program loads from n bytes at a local address. -/
def State.loadNat (s : State) (a : Word) (n : Nat) : Nat := leNat (s.loadSeen s.cur a n)

/-- The address of a family-2 instruction (R92). -/
def addrOf (o : OpA) (s1 : Word) : Word := s1 + sext32 o.imm

/-- A family-2 access: its pops, then its checks (R93, R98), then its effect. DESIGN CHOICE (log 100): a port in S2 of ST
or LATOM is popped, or refused, or waited for, before the address is checked; the spec does not order the two. -/
def localOp (o : OpA) (u : Use) (n align : Nat) (also : List Opnd) (s : State)
    (act : Srcs → Word → State → Result) : Host.Outcome State Fault Refusal :=
  issued (fieldsA o) anyLevel also s fun x s0 s1 =>
    let a := addrOf o x.s1
    match s0.localTrap u a n align with
    | some t => .trap s0 t
    | none => act x a (if u = .store then s1 else s1.correct (localKey s.cur a) n)

/-- LD (R94). -/
def execLd (o : OpA) (s : State) : Host.Outcome State Fault Refusal :=
  localOp o .load (tySize o.ty) (tySize o.ty) [] s fun _ a s1 =>
    .ok (s1.setSelf (s1.self.setDst o.d (extendTy o.ty (s.loadNat a (tySize o.ty)))))

/-- ST (R94). -/
def execSt (o : OpA) (s : State) : Host.Outcome State Fault Refusal :=
  localOp o .store (tySize o.ty) (tySize o.ty) [] s fun x a s1 =>
    .ok (s1.progStore a (leBytes (tySize o.ty) x.s2.toNat))

/-- The g register after the one an operand names. -/
def nextReg : Opnd → Opnd
  | .g r => .g (r + 1)
  | .v r => .v (r + 1)
  | o => o

/-- LDP (R95): two elements into g[D] and g[D+1]. -/
def execLdp (o : OpA) (s : State) : Host.Outcome State Fault Refusal :=
  localOp o .load (2 * tySize o.ty) (2 * tySize o.ty) [] s fun _ a s1 =>
    let n := tySize o.ty
    let c := s1.self.setDst o.d (extendTy o.ty (s.loadNat a n))
    .ok (s1.setSelf (c.setDst (nextReg o.d) (extendTy o.ty (s.loadNat (a + word n) n))))

/-- STP (R95). -/
def execStp (o : OpA) (s : State) : Host.Outcome State Fault Refusal :=
  localOp o .store (2 * tySize o.ty) (2 * tySize o.ty) [] s fun x a s1 =>
    let n := tySize o.ty
    .ok (s1.progStore a (leBytes n x.s2.toNat ++ leBytes n x.s3.toNat))

/-- The active elements of a vector instruction over n elements (R28); of 64 elements, two share a bit (R251). -/
def Core.active (c : Core) (free : Nat) (pg : Fin 8) (pn : Bool) (n : Nat) : List Nat :=
  (List.range n).filter fun i => (c.qVal free 90 pg).getLsbD (if n = 64 then i / 2 else i) != pn

/-- A vector instruction (R28): without effect where no element is active. The body also has the active elements. -/
def issuedV (f : Fields) (priv : Core → Option Trap) (also : List Opnd) (n : Nat) (s : State)
    (body : List Nat → Srcs → State → State → Result) : Host.Outcome State Fault Refusal :=
  let act := s.self.active s.free f.pg f.pn n
  .next (match s.self.predTrap? f.pg with
    | some t => .trap s t
    | none => if act.isEmpty then .ok s else executing f priv also s (body act) : Result).state

/-- Element i of width w of a register (R27). -/
def elem (w : Nat) (v : VReg) (i : Nat) : Nat := field v.toNat (w * i) w

/-- A register with element i of width w replaced. -/
def setElem (w : Nat) (v : VReg) (i x : Nat) : VReg :=
  BitVec.ofNat 256 (v.toNat - elem w v i * 2 ^ (w * i) + x % 2 ^ w * 2 ^ (w * i))

/-- A register whose listed elements of width w are those of a function, the others kept (R27, R96). -/
def mergeElems (w : Nat) (old : VReg) (act : List Nat) (f : Nat → Nat) : VReg :=
  act.foldl (fun v i => setElem w v i (f i)) old

/-- Write a v register that an operand names. -/
def Core.setDstV (c : Core) (o : Opnd) (x : VReg) : Core :=
  match o with
  | .v r => c.setV r x
  | _ => c

/-- VLD (R96). -/
def execVld (o : OpA) (s : State) : Host.Outcome State Fault Refusal :=
  let w := tyBits o.ty
  issuedV (fieldsA o) anyLevel [] (256 / w) s fun act x s0 s1 =>
    let a := addrOf o x.s1
    match s0.localTrap .load a 32 32 with
    | some t => .trap s0 t
    | none =>
      let m : VReg := BitVec.ofNat 256 (s.loadNat a 32)
      let t := s1.correct (localKey s.cur a) 32
      .ok (t.setSelf (t.self.setDstV o.d
        (mergeElems w (t.self.srcV s.free 4 o.d) act fun i => elem w m i)))

/-- The byte offsets of the active elements. -/
def activeBytes (w : Nat) (act : List Nat) : List Nat :=
  (act.map fun i => (List.range (w / 8)).map fun k => i * (w / 8) + k).flatten

/-- What a VST writes, as byte offsets and lengths: an aligned 8-byte part whose bytes are all active at once, which
replaces a poisoned part (R400), and the other active elements singly. -/
def vstPieces (w : Nat) (act : List Nat) : List (Nat × Nat) :=
  ((List.range 4).map fun p =>
    let mine := act.filter fun i => i * (w / 8) / 8 == p
    if mine.length * (w / 8) = 8 then [(8 * p, 8)] else mine.map fun i => (i * (w / 8), w / 8)).flatten

/-- VST (R96): the bytes of inactive elements are unchanged. A poisoned part that it covers only in part traps
(R399, R400). -/
def execVst (o : OpA) (s : State) : Host.Outcome State Fault Refusal :=
  let w := tyBits o.ty
  issuedV (fieldsA o) anyLevel [] (256 / w) s fun act x s0 s1 =>
    let a := addrOf o x.s1
    match s0.localTrap .store a 32 32 with
    | some t => .trap s0 t
    | none =>
      let v := s.self.srcV s.free 2 o.s2
      let on := activeBytes w act
      let k := localKey s.cur a
      let part (p : Nat) := (List.range 8).map (· + 8 * p)
      let cut (p : Nat) := (part p).any (on.contains ·) && !(part p).all (on.contains ·)
      if (List.range 4).any fun p => cut p && poisoned s0 (k + 8 * p) 8 then .trap s0 (guardTrap 0x10 a)
      else
        .ok ((vstPieces w act).foldl (fun t x => t.progStore (a + word x.1) (leBytes x.2 (field v.toNat (8 * x.1) (8 * x.2)))) s1)

/-- The new value of an atomic operation on integers (R99, R225): SUB 0 to 9. -/
def atomNew (sub : Nat) (ty : Ty) (old b c : Nat) : Nat :=
  let w := tyBits ty
  let sg (x : Nat) : Int := if tySigned ty then signedOf w x else x
  match sub with
  | 0 => (old + b) % 2 ^ w
  | 1 => old &&& b
  | 2 => old ||| b
  | 3 => old ^^^ b
  | 4 | 6 => if sg old ≤ sg b then old else b
  | 5 | 7 => if sg old ≤ sg b then b else old
  | 8 => b
  | _ => if old = c then b else old

/-- LATOM (R99). -/
def execLatom (o : OpA) (s : State) : Host.Outcome State Fault Refusal :=
  let n := tySize o.ty
  localOp o .atomic n n [] s fun x a s1 =>
    let old := s.localNat a n
    let new := atomNew o.sub.toNat o.ty old (patternOf o.ty x.s2) (patternOf o.ty x.s3)
    let t := s1.progStore a (leBytes n new)
    .ok (t.setSelf (t.self.setDst o.d (extendTy o.ty old)))

/-! ## Parking (R31, R32, R100, R101) -/

/-- The spill-map entry number of a register: 0–63 g, 64–95 v, 96–103 q (R32). -/
def entryNo : Opnd → Nat
  | .g r => r.val
  | .v r => 64 + r.val
  | .q r => 96 + r.val
  | _ => 104

/-- Where a parked register lies. -/
inductive Place where
  | column (n : Nat) | bank (n : Nat) | stack (n : Nat)
  deriving DecidableEq, Repr

/-- The place that a register's entry records (R32). -/
def State.parkedAt (s : State) (i e : Nat) : Option Place :=
  let c := s.core i
  if c.parkLen = 0 then none
  else
    let x := leNat (readBytes s.mem (tcmKey i (c.entryAt e).1) (c.entryAt e).2)
    if e < 96 then
      match field x 14 2 with
      | 1 => some (.column (field x 0 14))
      | 2 => some (.bank (field x 0 14))
      | 3 => some (.stack (field x 0 14))
      | _ => none
    else if field x 7 1 = 1 then some (.column (field x 0 6))
    else if field x 6 1 = 1 then some (.bank (field x 0 6))
    else none

/-- The contents of an entry for a place (R32). -/
def entryOf (e : Nat) (p : Option Place) : Nat :=
  match p with
  | none => 0
  | some (.column n) => if e < 96 then 2 ^ 14 + n else 2 ^ 7 + n % 64
  | some (.bank n) => if e < 96 then 2 * 2 ^ 14 + n else 2 ^ 6 + n % 64
  | some (.stack n) => 3 * 2 ^ 14 + n

/-- Columns that a matrix command names (R102, R291): an fp64 drain names pairs. -/
def Core.cmdColumns (c : Core) : EngineOp → List Nat
  | .mstream ty _ _ _ _ c0 rows => (List.range (if ty = .fp64 then 2 * rows else rows)).map (· + c0)
  | .mfmt _ _ _ c0 n | .mclr c0 n => (List.range n).map (· + c0)
  | .mdrain _ _ _ _ _ _ c0 n =>
    (List.range (if (c.acc[c0]!).state = .acc ∧ (c.acc[c0]!).fmt = .fp64 then 2 * n else n)).map (· + c0)
  | _ => []

/-- Whether an unfinished matrix command names a column (R102). -/
def Core.columnBusy (c : Core) (n : Nat) : Bool := c.cmds.any fun k => (c.cmdColumns k.op).contains n

/-- The place that PARK takes (R31): a FREE column, a bank entry, a stack slot. -/
def Core.freePlace (c : Core) (q : Bool) : Option Place :=
  let cols := if q then 64 else 256
  match (List.range cols).find? fun n => (c.acc[n]!).state == .free && !c.columnBusy n with
  | some n => some (.column n)
  | none =>
    match (List.range 32).find? fun n => !c.bankOcc.getLsbD n with
    | some n => some (.bank n)
    | none =>
      if q then none
      else ((List.range (bits c.kspill 32 10)).find? fun n => !c.stackOcc.getLsbD n).map .stack

/-- FMT of a parked register (R29). -/
def parkFmt : Opnd → Ty
  | .g _ => .i64 | .q _ => .n32 | _ => .fp32

/-- The bits of a register as 256 bits (R29). -/
def Core.parkBits (c : Core) (n : Nat) (o : Opnd) : VReg :=
  match o with
  | .g r => (c.gVal n 1 r).zeroExtend 256
  | .v r => c.vVal n 1 r
  | .q r => (c.qVal n 1 r).zeroExtend 256
  | _ => 0

/-- The TCM range of a stack slot (R32). -/
def Core.slotRange (c : Core) (n : Nat) : Nat × Nat := (c.parkBase + 256 + 32 * n, 32)

/-- The state with a place taken by 256 bits. -/
def State.takePlace (s : State) (i : Nat) (p : Place) (fmt : Ty) (b : VReg) : State :=
  match p with
  | .column n => s.onCore i fun c => { c with acc := c.acc.set! n { state := .park, fmt := fmt, bits := b } }
  | .bank n => s.onCore i fun c => { c with bank := c.bank.set! n b, bankOcc := c.bankOcc ||| (1#32 <<< n) }
  | .stack n =>
    let t := s.storeTcm i ((s.core i).slotRange n).1 (leBytes 32 b.toNat)
    t.onCore i fun c => { c with stackOcc := c.stackOcc ||| (1#512 <<< n) }

/-- The bits at a place. -/
def State.placeBits (s : State) (i : Nat) (p : Place) : VReg :=
  let c := s.core i
  match p with
  | .column n => (c.acc[n]!).bits
  | .bank n => c.bank[n]!
  | .stack n => BitVec.ofNat 256 (leNat (readBytes s.mem (tcmKey i (c.slotRange n).1) (c.slotRange n).2))

/-- The state with a place free again: a column FREE with its bits zero (R101). -/
def State.freePlaceAt (s : State) (i : Nat) (p : Place) : State :=
  s.onCore i fun c =>
    match p with
    | .column n => { c with acc := c.acc.set! n {} }
    | .bank n => { c with bankOcc := c.bankOcc &&& ~~~(1#32 <<< n) }
    | .stack n => { c with stackOcc := c.stackOcc &&& ~~~(1#512 <<< n) }

/-- The state with a register's entry written. -/
def State.setEntry (s : State) (i e : Nat) (p : Option Place) : State :=
  s.storeTcm i ((s.core i).entryAt e).1 (leBytes ((s.core i).entryAt e).2 (entryOf e p))

/-- PARK and UNPARK read a register's entry, and write it: a poisoned one is consumed as by a narrow store (R399, R400;
log 101). -/
def State.entryTrap (s : State) (i e : Nat) : Option Trap :=
  let c := s.core i
  if c.parkLen ≠ 0 ∧ poisoned s (tcmKey i (c.entryAt e).1) (c.entryAt e).2 then
    some (guardTrap 0x10 (word (tcmBase + (c.entryAt e).1)))
  else none

/-- UNPARK consumes the bits at a place: a poisoned column as AMOV does, a poisoned slot as a load does (R390, R399;
log 101). -/
def State.placeTrap (s : State) (i : Nat) (p : Place) : Option Trap :=
  let c := s.core i
  match p with
  | .column n => if (c.acc[n]!).bad then some (guardTrap 0x10 (word n)) else none
  | .bank _ => none
  | .stack n =>
    if poisoned s (tcmKey i (c.slotRange n).1) (c.slotRange n).2 then
      some (guardTrap 0x10 (word (tcmBase + (c.slotRange n).1)))
    else none

/-- A read of a place corrects its single-bit errors and counts them (R398). -/
def State.correctPlace (s : State) (i : Nat) (p : Place) : State :=
  let c := s.core i
  match p with
  | .column n => if (c.acc[n]!).soft.isEmpty then s else s.countErrors (hallOf i) (c.acc[n]!).soft.length
  | .bank _ => s
  | .stack n => s.correct (tcmKey i (c.slotRange n).1) (c.slotRange n).2

/-- The registers that are parked, as entry numbers (R32). -/
def State.parkedList (s : State) (i : Nat) : List Nat :=
  (List.range 104).filter fun e => (s.parkedAt i e).isSome

/-- Write a register that an operand names with the low bits of a 256-bit value. -/
def Core.setAny (c : Core) (o : Opnd) (b : VReg) : Core :=
  match o with
  | .g r => c.setG r (b.truncate 64)
  | .v r => c.setV r b
  | .q r => c.setQ r (b.truncate 32)
  | _ => c

/-- PARK (R100). Where R32 or R33 leaves it undefined, the bits it parks are undefined (log 5). -/
def execPark (o : OpA) (s : State) : Host.Outcome State Fault Refusal :=
  issued { fieldsA o with l1 := false } anyLevel [] s fun _ s0 s1 =>
    let c := s0.self
    let e := entryNo o.s1
    let q := match o.s1 with
      | .q _ => true
      | _ => false
    if c.kspill = 0 then .trap s0 (guardTrap 0x05 c.kspill)
    else
      match s0.entryTrap s0.cur e, s0.parkedAt s0.cur e, c.freePlace q with
      | some t, _, _ => .trap s0 t
      | none, some _, _ => .trap s0 (guardTrap 0x06 (word (opndCode o.s1)))
      | none, none, none => .trap s0 (guardTrap 0x05 c.kspill)
      | none, none, some p =>
        let b := if c.parkUndef.contains e then Config.freeBits s.free 5 256 else c.parkBits s.free o.s1
        let t := (s1.takePlace s0.cur p (parkFmt o.s1) b).setEntry s0.cur e (some p)
        .ok (t.setSelf (t.self.freeReg o.s1))

/-- UNPARK (R101). Where R32 or R33 leaves it undefined, the bits it restores are undefined (log 5). -/
def execUnpark (o : OpA) (s : State) : Host.Outcome State Fault Refusal :=
  issued (fieldsA o) anyLevel [] s fun _ s0 s1 =>
    let e := entryNo o.d
    match s0.entryTrap s0.cur e, s0.parkedAt s0.cur e with
    | some t, _ => .trap s0 t
    | none, none => .trap s0 (guardTrap 0x07 (word (opndCode o.d)))
    | none, some p =>
      match s0.placeTrap s0.cur p with
      | some t => .trap s0 t
      | none =>
        let s1 := s1.correctPlace s0.cur p
        let b := if s0.self.parkUndef.contains e then Config.freeBits s.free 5 256 else s0.placeBits s0.cur p
        let t := (s1.freePlaceAt s0.cur p).setEntry s0.cur e none
        .ok (t.setSelf { (t.self.setAny o.d b) with parkUndef := t.self.parkUndef.filter (· != e) })

end Sys2Proof.Machine
end

