-- ==== Sys2Proof/Machine/Translate.lean ====
section
/-! DEFINITION. Translation at the receiver (R356 to R364), the bounds of shared activities (R375), and the performing
of reads, writes and atomics at a destination. -/
namespace Sys2Proof.Machine

/-! ## Tables and walks -/

/-- Bytes that an entry of a level maps; level 0 is the window of a root (R360, R367). -/
def spanBytes : Nat → Nat
  | 0 => 2 ^ 36
  | 1 => 2 ^ 30
  | 2 => 2 ^ 21
  | _ => 2 ^ 16

/-- Index of an address at a level (R360). -/
def levelIndex (lv x : Nat) : Nat :=
  match lv with
  | 1 => x / 2 ^ 30 % 64
  | 2 => x / 2 ^ 21 % 512
  | _ => x / 2 ^ 16 % 32

/-- ADDR of an entry as an address (R360). -/
def entryAddr (e : Word) : Nat := bits e 12 40 * 4096

/-- A leaf (R360). -/
def isLeaf (e : Word) : Bool := bits e 62 1 == 1

/-- R of a leaf. -/
def mayRead (e : Word) : Bool := bits e 60 1 == 1

/-- W of a leaf. -/
def mayWrite (e : Word) : Bool := bits e 59 1 == 1

/-- Malformed(e, lv) of R361, but for the place of the next table. -/
def entryBad (lv : Nat) (e : Word) : Bool :=
  bits e 61 1 != 0 || bits e 52 4 != 0 || bits e 0 12 != 0
    || (if isLeaf e then entryAddr e % spanBytes lv != 0 else bits e 56 5 != 0 || lv == 3)

/-- How a walk ends. -/
inductive WRes where
  /-- a leaf: the entry, the address it gives, its level, and the storage key of the entry -/
  | leaf (e : Word) (addr lv place : Nat)
  /-- a miss: stage, level of the missing entry, and the address walked -/
  | miss (stage lv x : Nat)
  | fail (status : Nat)
  deriving DecidableEq, Repr, Inhabited

/-- What the read of a table entry gives: the entry and its place, or an end of the walk; and the entries met that a
translation cache may keep (R363). -/
inductive TRead where
  | entry (e : Word) (place : Nat) (seen : List CacheEntry)
  | stop (w : WRes) (seen : List CacheEntry)

/-- The levels of a walk (R361), from a table on. -/
def walkLevels (read : Nat → Nat → TRead) (stage x : Nat) : List Nat → Nat → WRes × List CacheEntry
  | [], _ => (.fail stTable, [])
  | lv :: r, table =>
    match read lv (table + 8 * levelIndex lv x) with
    | .stop w seen => (w, seen)
    | .entry e place seen =>
      if bits e 63 1 = 0 then (.miss stage lv x, seen)
      else if entryBad lv e then (.fail stTable, seen)
      else if isLeaf e then (.leaf e (entryAddr e + x % spanBytes lv) lv place, seen)
      else
        let (w, more) := walkLevels read stage x r (entryAddr e)
        (w, seen ++ more)

/-- A walk from a root (R361): a root is checked as an entry is. -/
def walkRoot (read : Nat → Nat → TRead) (stage x : Nat) (root : Word) : WRes × List CacheEntry :=
  if bits root 63 1 = 0 then (.miss stage 0 x, [])
  else if bits root 52 11 ≠ 0 ∨ bits root 0 12 ≠ 0 then (.fail stTable, [])
  else walkLevels read stage x [1, 2, 3] (entryAddr root)

/-- The cached entry of an interface for a level of a walk (R363): a cached entry is used while it stands (log 10). -/
def Iface.cached? (f : Iface) (part stage w lv x : Nat) : Option CacheEntry :=
  f.cache.find? fun e =>
    e.part == part && e.stage == stage && e.window == w && e.size == lv && e.page == x / spanBytes lv

/-- A table entry in the memory of its interface: inside the ranges, and not poisoned (R359, R361). -/
def State.tableRead (s : State) (node part stage w lv x a : Nat) (seen : List CacheEntry) : TRead :=
  if !physOk node (a / 4096 * 4096) 4096 then .stop (.fail stTable) seen
  else if poisoned s (physKey node a) 8 then .stop (.fail stPoison) seen
  else
    let e := word (leNat (readBytes s.mem (physKey node a) 8))
    let c : CacheEntry :=
      { part := part, stage := stage, window := w, page := x / spanBytes lv, size := lv, entry := e,
        place := physKey node a }
    .entry e (physKey node a) (if bits e 63 1 = 1 then seen ++ [c] else seen)

/-- A root (R358); an unlisted one is zero. -/
def Partition.root (p : Partition) (stage w : Nat) : Word := tget 0 p.roots (w * 2 + (stage - 1))

/-- The stage-2 walk of an intermediate address (R361), with the translation cache of `via`: the interface's own, or a
gateway's (R358, R363). -/
def State.walk2 (s : State) (via node pnum w x : Nat) (root : Word) : WRes × List CacheEntry :=
  if bits root 63 1 = 1 ∧ !physOk node (entryAddr root) 4096 then (.fail stTable, [])
  else
    walkRoot (fun lv a =>
      match (s.iface via).cached? pnum 2 w lv x with
      | some c => .entry c.entry c.place []
      | none => s.tableRead node pnum 2 w lv x a []) 2 x root

/-- The stage-1 walk: every table read goes through stage 2 and needs R there (R361). -/
def State.walk1 (s : State) (via node pnum w x : Nat) (root1 root2 : Word) : WRes × List CacheEntry :=
  walkRoot (fun lv a =>
    match (s.iface via).cached? pnum 1 w lv x with
    | some c => .entry c.entry c.place []
    | none =>
      match s.walk2 via node pnum w a root2 with
      | (.leaf e p _ _, seen) =>
        if mayRead e then s.tableRead node pnum 1 w lv x p seen else .stop (.fail stDenied) seen
      | (r, seen) => .stop r seen) 1 x root1

/-- Kinds of access (R362, R366): 0 read, 1 write, 2 atomic or JOIN, 3 fetch. -/
abbrev AccCode := Nat

/-- Whether both leaves grant an access (R362). -/
def grants (acc : AccCode) (e1 e2 : Word) : Bool :=
  let r := mayRead e1 && mayRead e2
  let w := mayWrite e1 && mayWrite e2
  match acc with
  | 0 | 3 => r
  | 1 => w
  | _ => r && w

/-- How a translation ends. -/
inductive TRes where
  /-- physical and intermediate address, the two leaves and their places -/
  | ok (p i : Nat) (e1 e2 : Word) (place1 place2 : Nat)
  | miss (stage lv x : Nat)
  | fail (status : Nat)
  deriving DecidableEq, Repr, Inhabited

/-- Translate of R361 with the checks of R362, and the entries that the cache of `via` keeps. -/
def State.translate (s : State) (pnum : Nat) (p : Partition) (via node w v n : Nat) (acc : AccCode) :
    TRes × List CacheEntry :=
  let root2 := p.root 2 w
  match s.walk1 via node pnum w v (p.root 1 w) root2 with
  | (.miss st lv x, seen) => (.miss st lv x, seen)
  | (.fail st, seen) => (.fail st, seen)
  | (.leaf e1 i _ p1, seen) =>
    match s.walk2 via node pnum w i root2 with
    | (.miss st lv x, more) => (.miss st lv x, seen ++ more)
    | (.fail st, more) => (.fail st, seen ++ more)
    | (.leaf e2 a _ p2, more) =>
      if !physOk node a n then (.fail stTable, seen ++ more)
      else if !grants acc e1 e2 then (.fail stDenied, seen ++ more)
      else (.ok a i e1 e2 p1 p2, seen ++ more)

/-- The state with entries kept in an interface's cache (R363). -/
def State.keep (s : State) (node : Nat) (seen : List CacheEntry) : State :=
  if seen.isEmpty then s
  else
    let f := s.iface node
    s.setIface node { f with cache := (f.cache ++ seen).eraseDups }

/-! ## Dirty tracking -/

/-- D set in a leaf whose D is 0, in memory and in the cached copy of an interface or a gateway (R364). -/
def State.setD (s : State) (node : Nat) (e : Word) (place : Nat) : State :=
  if bits e 56 1 = 1 then s
  else
    let f := s.iface node
    let mark (c : CacheEntry) : CacheEntry := if c.place = place then { c with entry := setBits c.entry 56 1 1 } else c
    { s with mem := writeByte s.mem (place + 7) (readByte s.mem (place + 7) ||| 1) }.setIface node
      { f with cache := f.cache.map mark }

/-- The bit of the dirty bitmap for an intermediate address (R364). -/
def State.markDirty (s : State) (p : Partition) (w i : Nat) : State :=
  if p.dBase = 0 then s
  else
    let pg := i / 65536 % 2 ^ 20
    match dpaOf? (p.dBase.toNat + 0x20000 * w + pg / 8) with
    | some (node, a) =>
      let k := physKey node a
      { s with mem := writeByte s.mem k (readByte s.mem k ||| (1#8 <<< (pg % 8))) }
    | none => s

/-! ## Budgets -/

/-- The counter of an access at a destination: far memory or the host interface (R375). -/
def nodeBudget (node : Nat) : Option (Nat × Nat × Nat) :=
  match nodeKind node with
  | 2 => some (3, nodeIdx node, nodeIdx node)
  | 3 => some (5, 0, 0)
  | _ => none

/-! ## Serving an access -/

/-- What an access does at its destination. -/
inductive Req where
  | read (n : Nat) (fetch : Bool)
  /-- bytes at offsets from the address -/
  | write (bs : List (Nat × Byte))
  /-- SUB, TY, operand, expected value (R225) -/
  | atomic (sub : Nat) (ty : Ty) (b e : Nat)
  /-- R341 -/
  | join
  deriving DecidableEq, Repr, Inhabited

/-- ACC of an access (R366). -/
def Req.acc : Req → AccCode
  | .read _ f => if f then 3 else 0
  | .write _ => 1
  | .atomic _ _ _ _ | .join => 2

/-- Bytes of an access. -/
def Req.size : Req → Nat
  | .read n _ => n
  | .write bs => (bs.map (·.1 + 1)).foldl max 0
  | .atomic _ ty _ _ => tyBits ty / 8
  | .join => 8

/-- The alignment that an access needs (R228, R341); 1 where none is checked here. -/
def Req.align : Req → Nat
  | .atomic _ ty _ _ => tyBits ty / 8
  | .join => 8
  | _ => 1

/-- The new value of a remote atomic (R225, R226). -/
def remoteNew (sub : Nat) (ty : Ty) (old b e : Nat) : Nat :=
  if sub = 10 then (fAdd ty .rne false false old b).bits else atomNew sub ty old b e

/-- A write that covers only part of a poisoned part (R400). -/
def cutsPoison (s : State) (k : Nat) (bs : List (Nat × Byte)) : Bool :=
  bs.any fun b =>
    let p := (k + b.1) / 8
    s.poison.contains p && !((List.range 8).all fun i => bs.any fun c => k + c.1 == p * 8 + i)

/-- Bytes written at offsets from a key; parts wholly covered lose poison and single-bit errors (R398, R400). -/
def State.writeAt (s : State) (k : Nat) (bs : List (Nat × Byte)) : State :=
  let t := storeEach s (bs.map fun b => (k + b.1, b.2))
  let whole (p : Nat) : Bool := (List.range 8).all fun i => bs.any fun c => k + c.1 == p * 8 + i
  let touched (p : Nat) : Bool := bs.any fun c => (k + c.1) / 8 == p
  { t with poison := t.poison.filter (!whole ·), soft := t.soft.filter (!touched ·) }

/-- Reading, writing or changing memory at a key (R208, R228, R341, R399): a status, the bytes returned, the state. -/
def State.performAt (s : State) (k : Nat) (r : Req) : Nat × List Byte × State :=
  match r with
  | .read n _ =>
    let s := s.correct k n
    if poisoned s k n then (stPoison, [], s) else (stOk, readBytes s.mem k n, s)
  | .write bs => if cutsPoison s k bs then (stPoison, [], s) else (stOk, [], s.writeAt k bs)
  | .atomic sub ty b e =>
    let n := tyBits ty / 8
    let s := s.correct k n
    if poisoned s k n then (stPoison, [], s)
    else
      let old := leNat (readBytes s.mem k n)
      (stOk, leBytes n old, storeBytes s k (leBytes n (remoteNew sub ty old (b % 2 ^ tyBits ty) (e % 2 ^ tyBits ty))))
  | .join =>
    let s := s.correct k 8
    if poisoned s k 8 then (stPoison, [], s)
    else
      let old := leNat (readBytes s.mem k 8)
      (stOk, leBytes 8 old, if old = 0 then s else storeBytes s k (leBytes 8 (old - 1)))

/-- How a served access ends. -/
inductive Served where
  /-- performed or failed: a status and the bytes returned -/
  | done (status : Nat) (bytes : List Byte)
  /-- a miss at a node and window: stage, level and the address walked -/
  | miss (node w stage lv x : Nat)
  /-- its counter is exhausted: it waits for the next period (R376) -/
  | stalled
  /-- its interface is down for now: it waits there (R370, R446) -/
  | waits
  /-- it leaves for another package -/
  | away
  deriving DecidableEq, Repr, Inhabited

/-- A SYSTEM page is marked by either leaf (R362). -/
def isSystem (e1 e2 : Word) : Bool := bits e1 57 1 == 1 || bits e2 57 1 == 1

/-- The line of host memory that the host interface takes for an atomic (R433): it holds 64 lines, the oldest goes
back. -/
def State.hostTake (s : State) (line : Nat) : State :=
  let l := (s.hostLines.filter (· != line)) ++ [line]
  { s with hostLines := l.drop (l.length - 64) }

/-- The host gives up its copies of a line of device memory (R224, R433): one that it had changed was written back by a
host write before. -/
def State.backInvalidate (s : State) (line : Nat) : State :=
  if s.hostCopies.contains line then { s with hostCopies := s.hostCopies.filter (· != line) } else s

/-- The access translated and performed at its interface (R361, R362, R364, R222, R224), translated by `via`. -/
def State.serveHere (s : State) (pnum : Nat) (p : Partition) (via node w v : Nat) (r : Req) : Served × State :=
  let (t, seen) := s.translate pnum p via node w v r.size r.acc
  let s := s.keep via seen
  match t with
  | .miss st lv x => (.miss via w st lv x, s)
  | .fail st => (.done st [], s)
  | .ok a i e1 e2 p1 p2 =>
    if r.acc = 2 ∧ nodeKind node = 3 ∧ !isSystem e1 e2 then (.done stAtomPlace [], s)
    else
      let s := if r.acc = 2 ∧ nodeKind node ≠ 3 ∧ isSystem e1 e2 then s.backInvalidate (physKey node a / 64) else s
      let (st, bs, t) := s.performAt (physKey node a) r
      let t := if r.acc = 2 ∧ nodeKind node = 3 then t.hostTake (a / 64) else t
      let wrote := r.acc = 1 ∨ r.acc = 2
      let t := if st = stOk ∧ wrote then ((t.setD via e1 p1).setD via e2 p2).markDirty p w i else t
      (.done st bs, t)

/-- The storage key of a global address for an access of n bytes, where its translation succeeds now. -/
def State.keyOf? (s : State) (pnum : Nat) (a : Word) (n : Nat) (acc : AccCode) : Option Nat :=
  match s.dest pnum a, s.part? pnum with
  | .here node w v, some p =>
    match (s.translate pnum p node node w v n acc).1 with
    | .ok x _ _ _ _ _ => some (physKey node x)
    | _ => none
  | _, _ => none

/-- Poison that a write has carried along (R398): the parts of the written bytes at some offsets. -/
def State.spoil (s : State) (pnum : Nat) (a : Word) (offs : List Nat) : State :=
  offs.foldl (fun (t : State) o =>
    match t.keyOf? pnum (a + word o) 1 1 with
    | some k => t.poisonRange k 1
    | none => t) s

/-- The die of an interface (R13, R18); the host interface has none. -/
def nodeDie? (node : Nat) : Option (Fin 4) :=
  let h := nodeIdx node
  match nodeKind node with
  | 1 => some (Fin.ofNat 4 (h / 80 * 2 + h % 16 / 8))
  | 2 => some (Fin.ofNat 4 (h / 2))
  | _ => none

/-- Whether the die of an interface is down after a die reset (R446). -/
def State.nodeDown (s : State) (node : Nat) : Bool := (nodeDie? node).any fun d => s.board.dieDown[d]

/-- An access of a partition to a global address, served at its destination: translated there, or, for another package's
access, by the gateway `via` (R358). An interface that is powered down keeps it until it wakes (R370); a reset die fails
what targets a hall of it (R402) and keeps what targets its controllers (R446). -/
def State.serveBy (s : State) (via : Option Nat) (pnum : Nat) (a : Word) (r : Req) : Served × State :=
  if a.toNat % r.align ≠ 0 then (.done stAddress [], s)
  else
    match s.dest pnum (if via.isSome then s.ownPeer a else a), s.part? pnum with
    | .malformed, _ => (.done stAddress [], s)
    | .noPeer, _ => (.done stNoPeer [], s)
    | .away _, _ => (.away, s)
    | .here _ _ _, none => (.done stNoPeer [], s)
    | .here node w v, some p =>
      let by' := via.getD node
      if s.nodeDown node ∧ nodeKind node = 1 then (.done stReset [], s)
      else if s.nodeDown node ∨ !(s.iface node).powered ∨ !(s.iface by').powered then (.waits, s)
      else
        match nodeBudget node with
        | some (code, ctrl, place) =>
          let n := unitsOf r.size
          if s.admits pnum code ctrl place n then (s.useUnit pnum code place n).serveHere pnum p by' node w v r
          else (.stalled, s)
        | none => s.serveHere pnum p by' node w v r

/-- An access of this package served at its destination. -/
def State.serve (s : State) (pnum : Nat) (a : Word) (r : Req) : Served × State := s.serveBy none pnum a r

end Sys2Proof.Machine
end

