-- ==== Sys2Proof/Machine/Requests.lean ====
section
/-! DEFINITION. Fault records (R190, R191), events and interrupts of the host (R437, R438), and page requests (R366,
R367). -/
namespace Sys2Proof.Machine

/-! ## Fault records (R186, R190, R191) -/

/-- The two words of a fault record. -/
def FaultRec.words (r : FaultRec) : List Word :=
  [r.addr, word (r.status * 2 ^ 56 + r.ctx * 2 ^ 54 + (if r.posted then 2 ^ 53 else 0) + r.item % 2 ^ 16 * 2 ^ 32
    + r.tlnum % 2 ^ 32)]

/-- A record that finds its queue full becomes a fault-overflow notice. -/
def State.overflowNotice (s : State) (i : Nat) (r : FaultRec) : State :=
  s.notice (s.pnum i) 6 ((r.words[0]?).getD 0) ((r.words[1]?).getD 0) 0

/-- A record for a core's posted fault queue (R186). -/
def State.postedFault (s : State) (i : Nat) (a : Word) (status : Nat) : State :=
  let r : FaultRec := { addr := a, status := status, posted := true }
  if (s.core i).postedQ.length < 16 then s.onCore i fun c => { c with postedQ := c.postedQ ++ [r] }
  else s.overflowNotice i r

/-- A record for a context's fault queue (R190). -/
def State.contextFault (s : State) (i : Nat) (r : FaultRec) : State :=
  let q := (s.core i).faultQ[r.ctx]!
  if q.length < 16 then s.onCore i fun c => { c with faultQ := c.faultQ.set! r.ctx (q ++ [r]) }
  else s.overflowNotice i r

/-! ## Rings in host memory -/

/-- Storage key of a byte of host memory. -/
def hostKey (a : Nat) : Nat := memKey 4 0 a

/-- Address of the slot of an index: entries of n bytes (R434). -/
def Ring.slotAt (r : Ring) (n : Nat) (i : BitVec 32) : Nat := r.base.toNat + n * (i.toNat % 2 ^ r.log)

/-- Entries in a ring. -/
def Ring.count (r : Ring) : Nat := (r.prod - r.cons).toNat

/-- Whether a ring is enabled (R434). -/
def Ring.enabled (r : Ring) : Bool := r.log != 0

/-- Whether a ring has no space. -/
def Ring.full (r : Ring) : Bool := decide (2 ^ r.log ≤ r.count)

/-- MSI-X of a function and vector. Function 0 is the PF and n + 1 is VF n. -/
def State.signal (s : State) (fn vector : Nat) : State :=
  { s with board := { s.board with msix := s.board.msix ++ [(fn, vector)] } }

/-- Write an entry at the producer index of a ring: the memory and the ring after it. -/
def Ring.push (r : Ring) (m : List Host.Cell) (bs : List Byte) : List Host.Cell × Ring :=
  (writeBytes m (hostKey (r.slotAt bs.length r.prod)) bs, { r with prod := r.prod + 1 })

/-! ## Page requests (R366, R367, R438) -/

/-- The request ring of a stage of a partition (R438). -/
def State.reqRing (s : State) (pnum stage : Nat) : Ring :=
  tget {} (if stage = 1 then s.board.rq1 else s.board.rq2) pnum

/-- The state with that ring replaced. -/
def State.setReqRing (s : State) (pnum stage : Nat) (r : Ring) : State :=
  if stage = 1 then { s with board := { s.board with rq1 := tset s.board.rq1 pnum r } }
  else { s with board := { s.board with rq2 := tset s.board.rq2 pnum r } }

/-- A partition's own node identifier of an interface: virtual for a hall interface (R19). -/
def State.virtNode (s : State) (pnum node : Nat) : Nat :=
  match s.part? pnum with
  | some p =>
    if nodeKind node = 1 then hallNode ((nodeIdx node / 16 - p.hy0) * 16 + (nodeIdx node % 16 - p.hx0)) else node
  | none => node

/-- The four words of a request (R366): the node identifier is the partition's own, in either stage's ring (R422). -/
def State.reqWords (s : State) (node : Nat) (r : PageReq) : List Word :=
  [r.addr,
   word (r.tag * 2 ^ 48 + (if r.rep = 0 then 0 else 2 ^ 39) + r.rep * 2 ^ 36 + r.stage * 2 ^ 34 + r.acc * 2 ^ 32
     + s.virtNode r.part node),
   if r.stage = 2 then word r.iaddr else 0, 0]

/-- The oldest request of an interface that has not entered its ring, and whose ring has space (R438). -/
def State.postable? (s : State) (node : Nat) : Option PageReq :=
  (s.iface node).requests.find? fun r => !r.posted && !(s.reqRing r.part r.stage).full

/-- Post a request in its ring: the entry, RQPROD and MSI-X vector 0 of the function (R438). -/
def State.postRequest (s : State) (node : Nat) (r : PageReq) : State :=
  let (m, ring) := (s.reqRing r.part r.stage).push s.mem ((s.reqWords node r).map fun w => leBytes 8 w.toNat).flatten
  let f := s.iface node
  let s := { s with mem := m }.setIface node
    { f with requests := f.requests.map fun (x : PageReq) => if x.tag = r.tag then { x with posted := true } else x }
  (s.setReqRing r.part r.stage ring).signal (if r.stage = 1 then r.part + 1 else 0) 0

/-- Post what fits of an interface's waiting requests: one. -/
def State.postWaiting (s : State) (node : Nat) : State :=
  match s.postable? node with
  | some r => s.postRequest node r
  | none => s

/-- The span of a miss as one number: interface, window, stage, level and place (R367). -/
def spanKey (node w stage lv x : Nat) : Nat :=
  (((node * 1024 + w) * 4 + stage) * 4 + lv) * 2 ^ 40 + x / spanBytes lv

/-- A request with one more holder. -/
def PageReq.add (r : PageReq) (who : Who) (reps : List (Nat × Nat)) : PageReq :=
  match who with
  | .access id => { r with accesses := r.accesses ++ [id] }
  | .item i => { r with items := r.items ++ [i] }
  | .fetch c l => { r with fetches := r.fetches ++ [(c, l, reps)] }
  | .peer n => { r with peers := r.peers ++ [n] }
  | .inbound n => { r with inbound := r.inbound ++ [n] }
  | .command _ _ _ | .packet _ => r

/-- What becomes of an access that misses. -/
inductive Missed where
  /-- a request holds it; the repeats of its command are these -/
  | held (reps : List (Nat × Nat))
  | failed (status : Nat)
  /-- 256 requests are outstanding at the interface: it waits there, unrequested -/
  | full

/-- The key of a request's span (R367). -/
def PageReq.key (r : PageReq) (node : Nat) : Nat := spanKey node r.window r.stage r.level (r.span * spanBytes r.level)

/-- The key under which the repeats of a command hold the count of the request that it is walked again for: no span has
it. -/
def againKey : Nat := 0

/-- The repeats of a command that is walked again after a reply to a request that it shared with count n (R367). -/
def again (reps : List (Nat × Nat)) (n : Nat) : List (Nat × Nat) := tset reps againKey n

/-- The repeats of a command whose walk is over. -/
def walked (reps : List (Nat × Nat)) : List (Nat × Nat) := tdel reps againKey

/-- The count with which a command asks for a span (R367): one higher than that of the request that it is walked again
for, at whichever stage that was; its own where it shares a request that stands; and otherwise one higher than its last
for the span, zero for a first one. -/
def repeatOf (reps : List (Nat × Nat)) (k : Nat) (stands : Bool) : Nat :=
  match tget? reps againKey, tget? reps k with
  | some n, _ => n + 1
  | none, some n => if stands then n else n + 1
  | none, none => 0

/-- An access of a command with these repeats misses (R367): it fails after the fourth repeat, shares the outstanding
request of its span, or raises one. A disabled ring answers FAIL at once (R438). -/
def State.missed (s : State) (pnum node w stage lv x : Nat) (a : Word) (acc : AccCode) (who : Who)
    (reps : List (Nat × Nat)) : Missed × State :=
  let f := s.iface node
  let k := spanKey node w stage lv x
  let same (r : PageReq) : Bool :=
    r.part == pnum && r.stage == stage && r.window == w && r.level == lv && r.span == x / spanBytes lv
  let n := repeatOf reps k (f.requests.any same)
  let reps := tset (walked reps) k n
  if 4 < n then (.failed stUnresolved, s)
  else
    match f.requests.find? same with
    | some _ =>
      (.held reps, s.setIface node
        { f with requests := f.requests.map fun q => if same q then q.add who reps else q })
    | none =>
      if !(s.reqRing pnum stage).enabled then (.failed stPage, s)
      else if 256 ≤ f.requests.length then (.full, s)
      else
        let r : PageReq :=
          { tag := f.nextTag % 65536, part := pnum, stage := stage, window := w, span := x / spanBytes lv, level := lv,
            addr := a, iaddr := x, acc := acc, rep := n }
        let s := s.setIface node { f with requests := f.requests ++ [r.add who reps], nextTag := f.nextTag + 1 }
        (.held reps, s.postWaiting node)

/-- What an access meets whose turn has not come at its interface (R369). -/
inductive Ahead where
  /-- its walk misses: a request holds it -/
  | held (reps : List (Nat × Nat))
  /-- it is translated -/
  | clear
  /-- it fails, or nothing can be said now -/
  | barred
  deriving DecidableEq, Repr

/-- Translate an access at its interface, or at a gateway, without serving it (R367, R369). -/
def State.lookAhead (s : State) (via : Option Nat) (pnum : Nat) (a : Word) (r : Req) (who : Who) (reps : List (Nat × Nat)) :
    Ahead × State :=
  match s.dest pnum (if via.isSome then s.ownPeer a else a), s.part? pnum with
  | .here node w v, some p =>
    let by' := via.getD node
    if a.toNat % r.align ≠ 0 ∨ s.nodeDown node ∨ !(s.iface node).powered ∨ !(s.iface by').powered then (.barred, s)
    else
      match s.translate pnum p by' node w v r.size r.acc with
      | (.miss st lv x, seen) =>
        (match (s.keep by' seen).missed pnum by' w st lv x a r.acc who reps with
         | (.held reps, u) => (.held reps, u)
         | (_, u) => (.barred, u))
      | (.ok _ _ _ _ _ _, seen) => (.clear, s.keep by' seen)
      | (.fail _, seen) => (.barred, s.keep by' seen)
  | _, _ => (.barred, s)

/-- How an access ends for its source. -/
inductive Got where
  | done (status : Nat) (bytes : List Byte)
  | held (reps : List (Nat × Nat))
  /-- nothing happened: a counter is exhausted -/
  | stalled
  /-- nothing happened: the interface holds 256 requests, or is down for now -/
  | full
  | away
  deriving DecidableEq, Repr, Inhabited

/-- Serve an access, by a gateway where one is named, raising a page request where it misses. -/
def State.reachBy (s : State) (via : Option Nat) (pnum : Nat) (a : Word) (r : Req) (who : Who) (reps : List (Nat × Nat)) :
    Got × State :=
  match s.serveBy via pnum a r with
  | (.done st bs, t) => (.done st bs, t)
  | (.stalled, t) => (.stalled, t.stall who)
  | (.waits, t) => (.full, t)
  | (.away, t) => (.away, t)
  | (.miss node w stage lv x, t) =>
    match t.missed pnum node w stage lv x a r.acc who reps with
    | (.held reps, u) => (.held reps, u)
    | (.failed st, u) => (.done st [], u)
    | (.full, u) => (.full, u)

/-- Serve an access of this package. -/
def State.reach (s : State) (pnum : Nat) (a : Word) (r : Req) (who : Who) (reps : List (Nat × Nat)) : Got × State :=
  s.reachBy none pnum a r who reps

end Sys2Proof.Machine
end

