-- ==== Sys2Proof/Machine/Barrier.lean ====
section
/-! DEFINITION. Barrier objects (R192, R193), where failed items are recorded (R190), BINIT (R194), and the waits on
phases and timelines (R203 to R205). -/
namespace Sys2Proof.Machine

/-- A wait without a limit of its own that the core stands in at issue (R117): it counts toward nothing. -/
def stallWait : Wait := { detail := 0, left := none, counting := false }

/-! ## The object -/

/-- The four words of a barrier object (R192). -/
structure Obj where
  w0 : Word
  w1 : Word
  w2 : Word
  w3 : Word
  deriving DecidableEq, Repr

/-- ARRV. -/
def Obj.arrv (o : Obj) : Nat := bits o.w0 32 32

/-- ARRINIT. -/
def Obj.arrinit (o : Obj) : Nat := bits o.w0 0 32

/-- PHASE. -/
def Obj.phase (o : Obj) : Nat := bits o.w1 63 1

/-- BYTES. -/
def Obj.bytes (o : Obj) : Nat := bits o.w1 0 48

/-- FCNT. -/
def Obj.fcnt (o : Obj) : Nat := bits o.w2 48 16

/-- FCAP. -/
def Obj.fcap (o : Obj) : Nat := bits o.w2 32 16

/-- The 32 bytes of an object. -/
def Obj.toBytes (o : Obj) : List Byte :=
  leBytes 8 o.w0.toNat ++ leBytes 8 o.w1.toNat ++ leBytes 8 o.w2.toNat ++ leBytes 8 o.w3.toNat

/-- The object of four words held as one number. -/
def objOf (x : Nat) : Obj :=
  { w0 := word x, w1 := word (x / 2 ^ 64), w2 := word (x / 2 ^ 128), w3 := word (x / 2 ^ 192) }

/-- Whether the fields at a key are undefined: an ordinary store met the live object (R193), or a word of it is
poisoned (R398). -/
def State.objUndef (s : State) (k : Nat) : Bool := s.objects.any (fun o => o.1 == k && o.2) || poisoned s k 32

/-- The object at a storage key; undefined fields are free values (log 5). -/
def State.obj (s : State) (k : Nat) : Obj :=
  objOf (if s.objUndef k then (Config.freeBits s.free 70 256).toNat else leNat (readBytes s.mem k 32))

/-- AddBytes of R193. -/
def Obj.addBytes (o : Obj) (n : Nat) : Obj := { o with w1 := setBits o.w1 0 48 (min (o.bytes + n) (2 ^ 48 - 1)) }

/-- Update of R193: arrivals, and bytes landed or failed. -/
def Obj.update (o : Obj) (arrivals n : Nat) : Obj :=
  let a := o.arrv - arrivals
  let b := o.bytes - n
  if a = 0 ∧ b = 0 then
    { o with w0 := setBits o.w0 32 32 o.arrinit, w1 := setBits (setBits o.w1 0 48 0) 63 1 (1 - o.phase) }
  else { o with w0 := setBits o.w0 32 32 a, w1 := setBits o.w1 0 48 b }

/-- The state with the object of a core's local address replaced. -/
def State.setObj (s : State) (i : Nat) (a : Word) (o : Obj) : State :=
  { s.storeLocal i a o.toBytes with free := s.free + 1 }

/-- A core that waits in BWAIT on the object at a key has seen its phase complete (R203). -/
def Core.sawPhase (c : Core) (k : Nat) : Core :=
  match c.wait with
  | some w =>
    match w.args with
    | [a, j, _] => if w.detail = 0x24 ∧ j = k then { c with wait := some { w with args := [a, j, 1] } } else c
    | _ => c
  | none => c

/-- Update of the object at a core's local address (R193). -/
def State.updateObj (s : State) (i : Nat) (a : Word) (arrivals n : Nat) : State :=
  let k := localKey i a
  let o := s.obj k
  let o' := o.update arrivals n
  let t := s.setObj i a o'
  if o.phase = o'.phase then t else { t with cores := tmap t.cores fun _ c => c.sawPhase k }.countedAt k

/-- AddBytes at issue of a command (R193). -/
def State.addObjBytes (s : State) (i : Nat) (a : Option Word) (n : Nat) : State :=
  match a with
  | some a => s.setObj i a ((s.obj (localKey i a)).addBytes n)
  | none => s

/-- The 16 bytes of a fault record. -/
def FaultRec.toBytes (r : FaultRec) : List Byte := (r.words.map fun w => leBytes 8 w.toNat).flatten

/-- A failed item's record (R190, R193): into the object's array, or into the context's queue; then FCNT, the last two
bytes of word 2, and nothing else of the object. -/
def State.recordFault (s : State) (i : Nat) (a : Option Word) (r : FaultRec) : State :=
  match a with
  | none => s.contextFault i r
  | some a =>
    let o := s.obj (localKey i a)
    let p := o.w3 + word (16 * o.fcnt)
    let t :=
      if o.w3 ≠ 0 ∧ o.fcnt < o.fcap ∧ p.toNat % 16 = 0 ∧ (windowOf? p 16).isSome then s.storeLocal i p r.toBytes
      else s.contextFault i r
    { t.storeLocal i (a + 22) (leBytes 2 (min ((t.obj (localKey i a)).fcnt + 1) 0xFFFF)) with free := t.free + 1 }

/-! ## BINIT -/

/-- The check of an object named at issue (R194): a 32-byte read and write. -/
def Core.objDetail (c : Core) (a : Word) : Option Nat := c.localDetail .atomic a 32 32

/-- BINIT (R194). -/
def execBinit (o : OpM) (s : State) : Host.Outcome State Fault Refusal :=
  issued (fieldsM o) anyLevel [] s fun x s0 s1 =>
    let c := s0.self
    let fcap := bits x.s2 32 16
    if bits x.s2 48 16 ≠ 0 ∨ 4096 < fcap then .trap s0 (guardTrap 0x08 x.s3)
    else
      match c.objDetail x.s3 with
      | some d => .trap s0 (guardTrap d x.s3)
      | none =>
        match if x.s1 = 0 ∨ fcap = 0 then none else c.localDetail .store x.s1 (16 * fcap) 16 with
        | some d => .trap s0 (guardTrap d x.s1)
        | none =>
          if x.s1 ≠ 0 ∧ x.s1.toNat % 16 ≠ 0 then .trap s0 (guardTrap 0x02 x.s1)
          else
            let n := bits x.s2 0 32
            let k := localKey s.cur x.s3
            let t := s1.progStore x.s3
              ({ w0 := word (n * 2 ^ 32 + n), w1 := 0, w2 := word (fcap * 2 ^ 32), w3 := x.s1 } : Obj).toBytes
            .ok { t with objects := tset (tdel t.objects k) k false }

/-! ## Waits on phases and timelines -/

/-- The check of an observed object (R203): a 32-byte read. -/
def Core.observeDetail (c : Core) (a : Word) : Option Nat := c.localDetail .load a 32 32

/-- Whether a BWAIT in progress on an object saw its phase complete. -/
def Core.phaseSeen (c : Core) : Bool :=
  match c.wait with
  | some w =>
    match w.args with
    | [_, _, f] => w.detail == 0x24 && f == 1
    | _ => false
  | none => false

/-- BWAIT (R203); with ORD 1 it acquires (R216). -/
def execBwait (o : OpM) (s : State) : Host.Outcome State Fault Refusal :=
  issued (fieldsM o) (limitPriv (irOf (.bwait o)) o.imm) [] s fun x s0 s1 =>
    let c := s0.self
    match c.observeDetail x.s3 with
    | some d => .trap s0 (guardTrap d x.s3)
    | none =>
      let k := localKey s.cur x.s3
      let b := s0.obj k
      if c.phaseSeen ∨ b.phase ≠ bits x.s2 0 1 then
        let t := if o.ord = .acq then s1.sawObject s.cur k else s1
        .ok (t.setSelf (t.self.setDst o.d (word b.fcnt)))
      else .wait s0 { detail := 0x24, left := c.waitLeft o.imm, args := [x.s3.toNat, k, 0] }

/-- BTEST (R203); with ORD 1 and a phase complete it acquires (R216). -/
def execBtest (o : OpM) (s : State) : Host.Outcome State Fault Refusal :=
  issued (fieldsM o) anyLevel [] s fun x s0 s1 =>
    match s0.self.observeDetail x.s3 with
    | some d => .trap s0 (guardTrap d x.s3)
    | none =>
      let k := localKey s.cur x.s3
      let b := s0.obj k
      let done := if b.phase ≠ bits x.s2 0 1 then 1 else 0
      let t := if o.ord = .acq ∧ done = 1 then s1.sawObject s.cur k else s1
      .ok (t.setSelf (t.self.setDst o.d (word (b.fcnt * 2 ^ 48 + done))))

/-- TLWAIT (R204); with ORD 1 it acquires (R216). -/
def execTlwait (o : OpM) (s : State) : Host.Outcome State Fault Refusal :=
  issued (fieldsM o) (limitPriv (irOf (.tlwait o)) o.imm) [] s fun x s0 s1 =>
    let c := s0.self
    if x.s2.toNat ≤ c.tl[o.ctx] then
      .ok (if o.ord = .acq then s1.observed s.cur fun k => k.1 == o.ctx.val && decide (k.2 ≤ x.s2.toNat) else s1)
    else .wait s0 { detail := 0x25, left := c.waitLeft o.imm, args := [o.ctx.val, x.s2.toNat] }

/-- Commands of a context that have not finished (R187). -/
def Core.unfinished (c : Core) (ctx : Nat) : Nat := (c.cmds.filter fun k => k.ctx == ctx).length

/-- A core's fault queue: a context's, or the posted one. -/
def Core.faults (c : Core) (posted : Bool) (ctx : Fin 4) : List FaultRec := if posted then c.postedQ else c.faultQ[ctx]

/-- TLREAD (R205). -/
def execTlread (o : OpM) (s : State) : Host.Outcome State Fault Refusal :=
  issued (fieldsM o) anyLevel [] s fun _ _ s1 =>
    let c := s1.self
    let posted := o.imm.getLsbD 8
    let q := c.faults posted o.ctx
    let first (n : Nat) : Word := match q with
      | r :: _ => (r.words[n]?).getD 0
      | [] => 0
    let x : Word := match o.imm.toNat % 256 with
      | 0 => word c.tl[o.ctx]
      | 1 => word c.issued[o.ctx]
      | 2 =>
        if posted then word q.length
        else word (q.length + (if c.bstall[o.ctx] then 256 else 0) + c.unfinished o.ctx * 2 ^ 16)
      | 3 => first 0
      | _ => first 1
    let c := match o.imm.toNat % 256 with
      | 2 => if posted then c else { c with bstall := c.bstall.set o.ctx false }
      | 4 => if posted then { c with postedQ := q.drop 1 } else { c with faultQ := c.faultQ.set o.ctx (q.drop 1) }
      | _ => c
    .ok (s1.setSelf (c.setDst o.d x))

end Sys2Proof.Machine
end

