-- ==== Sys2Proof/Machine/Spill.lean ====
section
/-! DEFINITION. The diversion of what arrives for a core that is stopped or saved (R407, R408), and hardware's own
writes of global memory. -/
namespace Sys2Proof.Machine

/-- The pieces of a range of bytes by 64-byte line: offset in the range and length. -/
def linePieces (a : Word) (n : Nat) : List (Nat × Nat) :=
  (List.range ((a.toNat % 64 + n + 63) / 64)).map fun j =>
    let lo := if j = 0 then 0 else j * 64 - a.toNat % 64
    (lo, min n ((j + 1) * 64 - a.toNat % 64) - lo)

/-- The router of core i writes bytes of its save area (R404, R407): each line at once where its memory takes it, and
otherwise, or behind one that waits, by an access of its own, which a page request may hold (R366). -/
def State.queueWrite (s : State) (i : Nat) (a : Word) (bs : List Byte) : State :=
  (linePieces a bs.length).foldl (fun (t : State) x =>
    let part := ((bs.drop x.1).take x.2).mapIdx fun k b => (k, b)
    let b := a + word x.1
    match if (t.core i).queueIds.isEmpty then t.serve (t.pnum i) b (.write part) else (.waits, t) with
    | (.done st _, u) => if st = stOk then u else u.onCore i fun c => { c with queueFailed := true }
    | _ =>
      (t.launchAccess { id := 0, core := i, cls := .o, addr := b, kind := .store part, after := (t.core i).queueIds,
                        posted := false, stream := false }).onCore i fun c =>
        { c with queueIds := c.queueIds ++ [t.fresh] }) s

/-- KIND, SRC, SEQ, DATA and payload of a spill-queue entry (R408). -/
def Spilled.parts : Spilled → Nat × Nat × Nat × Nat × Nat × List Byte
  | .packet p =>
    match p.body with
    | .msg seq mt bs _ _ => (1, p.ep, p.src, seq, mt, bs)
    | .word w => (3, p.ep, p.src, 0, 0, leBytes 8 w.toNat)
    | .close f w => (2, p.ep, p.src, 0, 0, leBytes 8 w.toNat ++ leBytes 8 f)
    | .request r => (6, p.ep, p.src, 0, 0, r.enc)
    | _ => (2, p.ep, p.src, 0, 0, [])
  | .arrival a n src _ => (4, 0, src, 0, a.toNat % 2 ^ 48, leBytes 16 n)
  | .result r => (5, 0, 0, 0, r.level * 2 ^ 32 + r.n % 2 ^ 32, (r.elems.map fun x => leBytes 8 x).flatten)

/-- Bytes of an entry in its spill queue. -/
def Spilled.size (x : Spilled) : Nat := 16 + (x.parts.2.2.2.2.2.length + 15) / 16 * 16

/-- The bytes of an entry: its header and its payload (R408). -/
def Spilled.toBytes (x : Spilled) : List Byte :=
  let (kind, ep, src, seq, data, bs) := x.parts
  leBytes 8 (kind * 2 ^ 60 + ep * 2 ^ 55 + src % 2 ^ 24 * 2 ^ 16 + seq % 2 ^ 16)
    ++ leBytes 8 (bs.length * 2 ^ 48 + data % 2 ^ 48) ++ bs ++ List.replicate ((16 - bs.length % 16) % 16) 0

/-- Bytes that a spill queue holds. -/
def Core.spillTail (c : Core) : Nat := (c.spill.map Spilled.size).sum

/-- The save area's address, ksave.ADDR (R34). -/
def Core.saveArea (c : Core) : Word := c.ksave - word (bits c.ksave 0 8)

/-- The 64 bytes of a spill-queue header with a TAIL (R408). -/
def spillHeader (tail : Nat) : List Byte := leBytes 8 (tail * 2 ^ 32) ++ List.replicate 56 0

/-- Whether everything addressed to a core is diverted (R407). -/
def Core.diverts (c : Core) : Bool := c.diverting || c.preempted

/-- Divert what arrived for a core into its spill queue; nothing when the queue is full (R407, R408). -/
def State.divert (s : State) (i : Nat) (x : Spilled) : Option State :=
  let c := s.core i
  if 0x10000 < c.spillTail + x.size then none
  else
    let t := s.setCore i { c with spill := c.spill ++ [x] }
    if bits c.ksave 8 56 = 0 then some t
    else
      let t := t.queueWrite i (c.saveArea + word (0x25040 + c.spillTail)) x.toBytes
      some (t.queueWrite i (c.saveArea + word 0x25000) (spillHeader (c.spillTail + x.size)))

end Sys2Proof.Machine
end

