-- ==== Sys2Proof/Machine/Image.lean ====
section
/-! DEFINITION. JIF images (R72 to R75): their tables, the loader's checks, and the bytes that it loads. -/
namespace Sys2Proof.Machine

/-- A section descriptor (R74). -/
structure Section where
  kind : Nat
  align : Nat
  reserved : Nat
  name : Nat
  off : Nat
  size : Nat
  load : Nat
  deriving DecidableEq, Repr, Inhabited

/-- A symbol record (R74). -/
structure Symbol where
  name : Nat
  sect : Nat
  binding : Nat
  kind : Nat
  value : Nat
  deriving DecidableEq, Repr, Inhabited

/-- A relocation record (R74). -/
structure Reloc where
  off : Nat
  sect : Nat
  ty : Nat
  reserved : Nat
  sym : Nat
  addend : Int
  deriving DecidableEq, Repr, Inhabited

/-- The section table of a file. -/
def sectionsOf (f : List Byte) : List Section :=
  (List.range (fieldAt f 8 2)).map fun n =>
    let a := fieldAt f 16 8 + 32 * n
    { kind := fieldAt f a 2, align := fieldAt f (a + 2) 1, reserved := fieldAt f (a + 3) 1, name := fieldAt f (a + 4) 4,
      off := fieldAt f (a + 8) 8, size := fieldAt f (a + 16) 8, load := fieldAt f (a + 24) 8 }

/-- The sections of a kind. -/
def sectionsIn (f : List Byte) (kind : Nat) : List Section := (sectionsOf f).filter fun x => x.kind == kind

/-- The bytes of a section in the file. DESIGN CHOICE (log 106): of a section that reaches beyond the file, which R75 does
not refuse, those that the file holds. -/
def Section.bytes (x : Section) (f : List Byte) : List Byte := (f.drop x.off).take x.size

/-- The symbols of a file. -/
def symbolsOf (f : List Byte) : List Symbol :=
  ((sectionsIn f 7).map fun x =>
    let b := x.bytes f
    (List.range (x.size / 16)).map fun n =>
      let a := 16 * n
      { name := fieldAt b a 4, sect := fieldAt b (a + 4) 2, binding := fieldAt b (a + 6) 1, kind := fieldAt b (a + 7) 1,
        value := fieldAt b (a + 8) 8 : Symbol }).flatten

/-- The relocations of a file. -/
def relocsOf (f : List Byte) : List Reloc :=
  ((sectionsIn f 8).map fun x =>
    let b := x.bytes f
    (List.range (x.size / 16)).map fun n =>
      let a := 16 * n
      { off := fieldAt b a 4, sect := fieldAt b (a + 4) 2, ty := fieldAt b (a + 6) 1, reserved := fieldAt b (a + 7) 1,
        sym := fieldAt b (a + 8) 4, addend := signedOf 32 (fieldAt b (a + 12) 4) : Reloc }).flatten

/-- A zero-terminated string of the strings sections. -/
def stringAt (f : List Byte) (n : Nat) : List Byte :=
  match sectionsIn f 6 with
  | x :: _ => ((x.bytes f).drop n).takeWhile (· != 0)
  | [] => []

/-- The kind of the section that a symbol stands in; 0 for an absolute one. -/
def Symbol.place (x : Symbol) (f : List Byte) : Nat :=
  match (sectionsOf f)[x.sect]? with
  | some s => s.kind
  | none => 0

/-- The value of a code or global symbol where the image lies (R72). -/
def Symbol.at (x : Symbol) (base : Word) : Word := base + word x.value

/-! ## Checks of R75 -/

/-- Whether a header, a descriptor, a symbol or a relocation breaks the tables of R73 and R74. DESIGN CHOICE (log 107):
beside the cases of R75 the loader refuses a SECTAB, a SIZE, an ALIGN or a binding that these tables do not allow, and it
takes a file with IMAGE = 0. -/
def badTables (f : List Byte) : Bool :=
  fieldAt f 0 4 != 0x0046494A || fieldAt f 4 2 != 1 || decide (4 ≤ fieldAt f 6 2) || fieldAt f 10 2 != 0
    || (f.drop 32).take 32 != List.replicate 32 0 || fieldAt f 16 8 % 32 != 0 || fieldAt f 24 8 != f.length
    || (crc32 (f.mapIdx fun n b => if 12 ≤ n ∧ n < 16 then 0 else b)).toNat != fieldAt f 12 4
    || (sectionsOf f).any (fun x => x.kind == 0 || decide (9 < x.kind) || decide (12 < x.align) || x.reserved != 0)
    || (symbolsOf f).any (fun x => decide (2 < x.binding) || decide (7 < x.kind))
    || (relocsOf f).any (fun x => x.reserved != 0)

/-- Whether a code section breaks R75. -/
def badCode (f : List Byte) : Bool :=
  (sectionsIn f 1).any fun x =>
    x.size % 64 != 0 || x.load % 64 != 0
      || (List.range (x.size / 64)).any fun n => (lineDetail (((x.bytes f).drop (64 * n)).take 64)).isSome

/-- Whether a tcm section reaches an offset. -/
def tcmReaches (f : List Byte) (limit : Nat) : Bool := (sectionsIn f 2).any fun x => decide (limit < x.load + x.size)

/-- The canonical encodings of an image, with their slots (R74). -/
def protocolsOf (f : List Byte) : List (Nat × List Byte) := (sectionsIn f 5).map fun x => (x.load, x.bytes f)

/-- Whether the protocol sections break R75. -/
def badProtocols (f : List Byte) : Bool :=
  let ps := protocolsOf f
  !distinct (ps.map (·.1))
    || ps.any fun p => decide (7 < p.1) || decide (p.2.length < encBytes) || (refusal p.2 0x10000 false).isSome

/-- Whether a relocation remains that is not the loader's (R72). -/
def badRelocs (f : List Byte) : Bool :=
  (relocsOf f).any fun r =>
    match (symbolsOf f)[r.sym]? with
    | none => true
    | some x =>
      decide (r.ty < 1) || decide (4 < r.ty) || x.binding == 2 || !(x.place f == 1 || x.place f == 4)

/-- The signature sections of a file (R74). -/
def signatures (f : List Byte) : List Section := sectionsIn f 9

/-- The digest that a file's signature signs (R74): SHA-512 of the file with the signature bytes and the CRC as zero. -/
def signedDigest (f : List Byte) : BitVec 512 :=
  Config.sha512 (f.mapIdx fun n b =>
    if (12 ≤ n ∧ n < 16) ∨ (signatures f).any (fun x => decide (x.off ≤ n) && decide (n < x.off + x.size)) then 0 else b)

/-- Whether a file is signed as R74 says: SIGNED, with one signature section of 512 bytes that verifies (R75). -/
def isSigned (f : List Byte) : Bool :=
  fieldAt f 6 2 / 2 % 2 == 1
    && (match signatures f with
        | [x] => x.size == 512 && (x.bytes f).length == 512
            && Config.signatureValid (signedDigest f) (BitVec.ofNat 4096 (leNat (x.bytes f)))
        | _ => false)

/-- Whether the loader refuses an image (R75). Monitor firmware's own images need a signature as well (R382). -/
def imageRefused (f : List Byte) (firmware : Bool) : Bool :=
  badTables f || badCode f || tcmReaches f 0x1EFC0 || badProtocols f || badRelocs f
    || (firmware && !isSigned f)

/-! ## Loading -/

/-- Bytes written over others from an offset. -/
def patch (bs : List Byte) (off : Nat) (new : List Byte) : List Byte :=
  bs.mapIdx fun n b => if off ≤ n ∧ n < off + new.length then (new[n - off]?).getD b else b

/-- A code line with the PAR bit of a slot made right (R42) after the loader has patched it. DESIGN CHOICE (log 108): R72
has the loader patch IMM32 and names no PAR bit; without this every line so patched would fail R44. -/
def setPar (bs : List Byte) (off : Nat) : List Byte :=
  let line := off / 64 * 64
  let n := off % 64 / 12
  let l := (bs.drop line).take 64
  let p := onesOf 96 (leNat (slotBytes l n)) % 2
  let w := lineWord l
  patch bs (line + 60) (leBytes 4 (w - field w n 1 * 2 ^ n + p * 2 ^ n))

/-- A section's bytes with its relocations made (R72). -/
def Section.loaded (x : Section) (n : Nat) (f : List Byte) (base : Word) : List Byte :=
  (relocsOf f).foldl (fun bs r =>
    if r.sect ≠ n then bs
    else
      match (symbolsOf f)[r.sym]? with
      | none => bs
      | some y =>
        let v := (y.at base + BitVec.ofInt 64 r.addend).toNat
        match r.ty with
        | 1 => patch bs r.off (leBytes 8 v)
        | 2 => patch bs r.off (leBytes 4 v)
        | 3 => setPar (patch bs r.off (leBytes 4 v)) r.off
        | _ => setPar (patch bs r.off (leBytes 4 (v / 2 ^ 32))) r.off) (x.bytes f)

/-- The sections of a kind with their relocated bytes, by load offset. -/
def loadedSections (f : List Byte) (kind : Nat) (base : Word) : List (Nat × List Byte) :=
  (sectionsOf f).zipIdx.filterMap fun x =>
    if x.1.kind = kind then some (x.1.load, x.1.loaded x.2 f base) else none

/-- Hardware writes bytes from a global address, line by line; nothing where an access of it does not end OK. -/
def State.writeGlobal? (s : State) (pnum : Nat) (a : Word) (bs : List Byte) : Option State :=
  (List.range ((a.toNat % 64 + bs.length + 63) / 64)).foldl (fun (r : Option State) j =>
    let lo := if j = 0 then 0 else j * 64 - a.toNat % 64
    let hi := min bs.length ((j + 1) * 64 - a.toNat % 64)
    match r with
    | none => none
    | some t =>
      match t.serve pnum (a + word lo) (.write (((bs.drop lo).take (hi - lo)).mapIdx fun k b => (k, b))) with
      | (.done st _, u) => if st = stOk then some u else none
      | _ => none) (some s)

/-- The code and global sections written at the image's base (R75); nothing where an access does not end OK. -/
def State.writeImage? (s : State) (pnum : Nat) (f : List Byte) (base : Word) : Option State :=
  (loadedSections f 1 base ++ loadedSections f 4 base).foldl (fun (r : Option State) (x : Nat × List Byte) =>
    r.bind fun t => t.writeGlobal? pnum (base + word x.1) x.2) (some s)

/-! ## What a launch takes from an image -/

/-- Whether a code address lies in an image's code. -/
def Image.hasCode (m : Image) (a : Word) : Bool :=
  (sectionsIn m.bytes 1).any fun x =>
    let off := (a - m.base).toNat
    decide (x.load ≤ off) && decide (off < x.load + x.size)

/-- The line of the trap handler of the kernel at an entry, or 0 (R74, R322). -/
def Image.handler (m : Image) (entry : Word) : Word :=
  let f := m.bytes
  let names := ((symbolsOf f).filter fun x => x.kind == 1 && x.at m.base == entry).map fun x =>
    stringAt f x.name ++ [0x2E, 0x74, 0x72, 0x61, 0x70]
  match (symbolsOf f).find? fun x => x.kind == 6 && names.contains (stringAt f x.name) with
  | some x => lineAddr (x.at m.base)
  | none => 0

/-- The protocol that byte s of PROTO names: nothing, a missing section, or its encoding (R320). -/
def Image.proto (m : Image) (proto : Word) (slot : Nat) : Option (Option (List Byte)) :=
  match bits proto (8 * slot) 8 with
  | 0 => none
  | n + 1 => some (((protocolsOf m.bytes)[n]?).map (·.2))

end Sys2Proof.Machine
end

