-- ==== Sys2Proof/Machine/Remote.lean ====
section
/-! DEFINITION. The ordinary stream of a core (R178): the combining buffer (R132 to R134), same-line holds (R181),
remote stores, RFLUSH and RATOMP (R183 to R185, R230), arrivals (R202), fences (R213), and the events that serve and
acknowledge them. -/
namespace Sys2Proof.Machine

/-! ## What is outstanding -/

/-- An access of a core's ordinary stream that is not acknowledged: in the combining buffer or in flight. -/
structure Pend where
  id : Nat
  cls : Cls
  /-- its line, for an access to global memory -/
  line : Option Nat
  /-- destination node (R178) -/
  node : Nat
  /-- performed at its destination, or on its way to another package behind what left before it -/
  performed : Bool
  /-- at its interface, where a page request or its turn keeps it (R369) -/
  there : Bool := false
  /-- target of an arrival: package and virtual node identifier -/
  target : Option (Nat × Nat)
  deriving DecidableEq, Repr

/-- The line of an address. -/
def lineNo (a : Word) : Nat := a.toNat / 64

/-- Address of the first byte an entry holds. -/
def CombEntry.addr (e : CombEntry) : Word :=
  word (e.line * 64 + (match e.bytes with
    | b :: _ => b.1
    | [] => 0))

/-- Whether an access is an arrival, on whichever object. -/
def AccKind.target : AccKind → Option (Nat × Nat)
  | .arrival p n _ _ => some (p, n)
  | _ => none

/-- The line of an access to global memory. -/
def Access.line (a : Access) : Option Nat :=
  match a.kind with
  | .arrival _ _ _ _ | .ownArrival _ _ => none
  | _ => some (lineNo a.addr)

/-- The entries of the combining buffer that a core owns, oldest first. -/
def State.ownEntries (s : State) (i : Nat) : List CombEntry :=
  (s.cluster (clusterOf i)).comb.filter fun e => e.owner == i

/-- The unacknowledged accesses of a core's ordinary stream. -/
def State.pending (s : State) (i : Nat) : List Pend :=
  ((s.ownEntries i).map fun e =>
    { id := e.id, cls := e.cls, line := some e.line, node := s.nodeFor (s.pnum i) e.addr, performed := false,
      target := none })
  ++ ((s.flight.filter fun a => a.core == i && a.stream && !a.acked).map fun a =>
    { id := a.id, cls := a.cls, line := a.line, node := a.node, performed := a.done || a.phase == .away,
      there := a.phase == .held || a.phase == .waits,
      target := a.kind.target })

/-- Numbers of the unacknowledged accesses of a core in some classes. -/
def State.pendIds (s : State) (i : Nat) (p : Cls → Bool) : List Nat :=
  ((s.pending i).filter fun a => p a.cls).map (·.id)

/-- The number under which a fence awaits a command that stands behind its release hold (R213): no access has it. -/
def Cmd.fenceId (k : Cmd) : Nat := 2 ^ 60 + k.ctx * 2 ^ 50 + k.tl

/-- Whether an access of core i has been acknowledged (R181), or a command that a fence awaits has finished. -/
def State.acked (s : State) (i id : Nat) : Bool :=
  !((s.ownEntries i).any fun e => e.id == id)
    && (match s.access? id with
        | some a => a.acked
        | none => true)
    && !((s.core i).cmds.any fun k => k.fenceId == id)

/-- Whether all of some accesses of core i have been acknowledged. -/
def State.allAcked (s : State) (i : Nat) (ids : List Nat) : Bool := ids.all (s.acked i)

/-- The class that bit k of a mask names (R213). -/
def inMask (m : Nat) : Cls → Bool
  | .o => m % 2 == 1
  | .a => m / 2 % 2 == 1
  | .v => m / 4 % 2 == 1

/-- Accesses of core i that hold a new one to a line in a class (R181). -/
def State.lineHolds (s : State) (i : Nat) (cls : Cls) (line : Nat) : List Nat :=
  ((s.pending i).filter fun a => a.line == some line && (a.cls != cls || cls != .o)).map (·.id)

/-- Whether an access in class O stands behind an earlier one to its node (R180). -/
def State.behindOrder (s : State) (i id node : Nat) (cls : Cls) : Bool :=
  cls == .o && (s.pending i).any fun a => a.cls == .o && a.node == node && decide (a.id < id) && !a.performed

/-- Whether everything in class O that an access stands behind is at their interface already (R369). -/
def State.orderThere (s : State) (i id node : Nat) : Bool :=
  (s.pending i).all fun a => !(a.cls == .o && a.node == node && decide (a.id < id) && !a.performed) || a.there

/-- Requests outstanding on e0 (R147). -/
def State.slotsFull (s : State) (i : Nat) : Bool :=
  decide (32 ≤ (s.flight.filter fun a => a.core == i && a.stream && !a.acked && a.line.isSome).length)

/-! ## Draining -/

/-- The write that an entry drains as (R133). -/
def State.drainedAs (s : State) (e : CombEntry) : Access :=
  let lo := match e.bytes with
    | b :: _ => b.1
    | [] => 0
  { id := e.id, core := e.owner, cls := e.cls, addr := e.addr, kind := .store (e.bytes.map fun b => (b.1 - lo, b.2)),
    after := e.after, node := s.nodeFor (s.pnum e.owner) e.addr }

/-- Entries that drain, with the older ones of their owners, and those that stay (R133). -/
def splitDrain (p : CombEntry → Bool) : List CombEntry → List CombEntry × List CombEntry
  | [] => ([], [])
  | e :: r =>
    let g := splitDrain p r
    if p e || g.1.any (fun x => x.owner == e.owner) then (e :: g.1, g.2) else (g.1, e :: g.2)

/-- Drain the entries of a cluster that satisfy a condition, and their owners' older ones. -/
def State.drain (s : State) (cluster : Nat) (p : CombEntry → Bool) : State :=
  let k := s.cluster cluster
  let g := splitDrain p k.comb
  if g.1.isEmpty then s
  else { s.setCluster cluster { k with comb := g.2 } with flight := s.flight ++ g.1.map s.drainedAs }

/-- Drain a core's own entries that satisfy a condition. -/
def State.drainOwn (s : State) (i : Nat) (p : CombEntry → Bool) : State :=
  s.drain (clusterOf i) fun e => e.owner == i && p e

/-- Whether an entry holds a byte of a range of global addresses (R134). -/
def CombEntry.holds (e : CombEntry) (a : Word) (n : Nat) : Bool :=
  e.bytes.any fun b => decide (a.toNat ≤ e.line * 64 + b.1) && decide (e.line * 64 + b.1 < a.toNat + n)

/-- The entries of a core that hold bytes of a range. -/
def State.heldEntries (s : State) (i : Nat) (a : Word) (n : Nat) : List Nat :=
  ((s.ownEntries i).filter fun e => e.holds a n).map (·.id)

/-- The owner's entries that hold bytes of a range drained (R134). -/
def State.drainRead (s : State) (i : Nat) (a : Word) (n : Nat) : State := s.drainOwn i fun e => e.holds a n

/-! ## Entering the buffer -/

/-- A fresh access put in flight with what it waits for. -/
def State.sendAccess (s : State) (i : Nat) (cls : Cls) (a : Word) (k : AccKind) (after : List Nat) : State :=
  s.launchAccess { id := 0, core := i, cls := cls, addr := a, kind := k, after := after }

/-- Bytes added to those of an entry, later ones replacing earlier (R132). -/
def addBytesTo (old new : List (Nat × Byte)) : List (Nat × Byte) := new.foldl (fun l b => tset l b.1 b.2) old

/-- A store enters the combining buffer (R132): merged, or in a fresh entry under a number, the oldest entry drained when
all 32 are taken (R133). Bytes are at offsets from the address. -/
def State.enterBuffer (s : State) (i id : Nat) (cls : Cls) (a : Word) (bs : List (Nat × Byte)) (merge : Bool)
    (after : List Nat) : State :=
  let n := clusterOf i
  let line := lineNo a
  let bs := bs.map fun b => (a.toNat % 64 + b.1, b.2)
  let merges (e : CombEntry) : Bool := e.owner == i && e.cls == cls && e.line == line && e.latest
  if merge && (s.cluster n).comb.any merges then
    s.setCluster n { s.cluster n with
      comb := (s.cluster n).comb.map fun e => if merges e then { e with bytes := addBytesTo e.bytes bs } else e }
  else
    let s := if (s.cluster n).comb.length < 32 then s
      else match (s.cluster n).comb with
        | o :: _ => s.drain n fun e => e.id == o.id
        | [] => s
    let k := s.cluster n
    let older := k.comb.map fun e => if e.owner = i then { e with latest := false } else e
    let e : CombEntry := { id := id, owner := i, cls := cls, line := line, bytes := addBytesTo [] bs, after := after }
    s.setCluster n { k with comb := older ++ [e] }

/-- A posted access that is not sent (R182, R186): its record is written, behind its release hold where it has one. -/
def State.failPosted (s : State) (i : Nat) (cls : Cls) (a : Word) (status : Nat) (after : List Nat) : State :=
  if after.isEmpty then s.postedFault i a status
  else
    s.launchAccess
      { id := 0, core := i, cls := cls, addr := a, kind := .ownArrival 0 0, after := after,
        phase := .performed status [] }

/-- e0 is not bound to MEMLINE (R131). -/
def memlineTrap (c : Core) : Option Trap :=
  if (c.ep 0).binding = .memline then none else some (refusalTrap (c.ep 0) 0x01)

/-! ## Stores (R184) -/

/-- The state after a release has drained its core's entries, and what it waits for (R133, R184). -/
def State.releasing (s : State) (i : Nat) (on : Bool) : State × List Nat :=
  if on then
    let t := s.drainOwn i fun _ => true
    (t, t.pendIds i fun _ => true)
  else (s, [])

/-- RST and RSTV from the address on: issued on s0, written on s1. -/
def remoteStore (o : OpM) (a : Word) (size : Nat) (bs : List (Nat × Byte)) (s0 s1 : State) : Result :=
  let i := s0.cur
  match memlineTrap s0.self with
  | some t => .trap s0 t
  | none =>
    if s0.slotsFull i then .wait s0 stallWait
    else
      let rel := o.ord == .rel
      let (s, held) := s1.releasing i rel
      if malformed a || a.toNat % size != 0 then .ok (s.failPosted i o.cls a stAddress held)
      else if s.dest (s.pnum i) a = .noPeer then .ok (s.failPosted i o.cls a stNoPeer held)
      else
        let s := s.drainOwn i fun e => e.line == lineNo a && e.cls != o.cls
        let after := (held ++ s.lineHolds i o.cls (lineNo a)).eraseDups
        if winOf a = 2 then .ok (s.sendAccess i o.cls a (.store bs) after)
        else if rel && !held.isEmpty then .ok (s.sendAccess i o.cls a (.release bs) after)
        else .ok (s.bump.enterBuffer i s.fresh o.cls a bs (!rel) after)

/-- The address of a family-4 access: S1 plus the offset. -/
def remoteAddr (o : OpM) (s1 : Word) : Word := s1 + sext32 o.imm

/-- RST (R184). -/
def execRst (o : OpM) (s : State) : Host.Outcome State Fault Refusal :=
  issued (fieldsM o) anyLevel [] s fun x s0 s1 =>
    let n := tySize o.ty
    remoteStore o (remoteAddr o x.s1) n ((leBytes n x.s2.toNat).mapIdx fun k b => (k, b)) s0 s1

/-- RSTV (R184): the bytes of the active elements. -/
def execRstv (o : OpM) (s : State) : Host.Outcome State Fault Refusal :=
  let w := tyBits o.ty
  issuedV (fieldsM o) anyLevel [] (256 / w) s fun act x s0 s1 =>
    let v := s.self.srcV s.free 2 o.s2
    remoteStore o (remoteAddr o x.s1) 32
      ((activeBytes w act).map fun k => (k, BitVec.ofNat 8 (field v.toNat (8 * k) 8))) s0 s1

/-- RFLUSH (R185). -/
def execRflush (o : OpM) (s : State) : Host.Outcome State Fault Refusal :=
  issued (fieldsM o) anyLevel [] s fun x s0 s1 =>
    .ok (s1.drainOwn s0.cur fun e => o.s1 == .none || (bits x.s1 63 1 == 0 && e.line == lineNo x.s1))

/-- RATOMP (R230). -/
def execRatomp (o : OpM) (s : State) : Host.Outcome State Fault Refusal :=
  issued (fieldsM o) anyLevel [] s fun x s0 s1 =>
    let i := s0.cur
    let a := remoteAddr o x.s1
    let n := tySize o.ty
    match memlineTrap s0.self with
    | some t => .trap s0 t
    | none =>
      if s0.slotsFull i then .wait s0 stallWait
      else
        let (s, held) := s1.releasing i (o.ord == .rel)
        if malformed a || a.toNat % n != 0 then .ok (s.failPosted i o.cls a stAddress held)
        else if s.dest (s.pnum i) a = .noPeer then .ok (s.failPosted i o.cls a stNoPeer held)
        else
          let reads := s.heldEntries i a n
          let s := (s.drainRead i a n).drainOwn i fun e => e.line == lineNo a && e.cls != o.cls
          .ok (s.sendAccess i o.cls a (.ratomp o.sub.toNat o.ty x.s2)
            (held ++ reads ++ s.lineHolds i o.cls (lineNo a)).eraseDups)

/-! ## Arrivals (R202) -/

/-- The general area or the cluster scratchpad holds a 32-byte-aligned object there, as core i sees it (R202). -/
def State.objectAt (s : State) (i : Nat) (a : Word) : Bool :=
  a.toNat % 32 == 0
    && (match windowOf? a 32 with
        | some (.tcm, o) => decide (o + 32 ≤ 0x1F000 - (s.core i).chb)
        | some (.scratch, _) => true
        | none => false)

/-- Where a target word leads (R202): nowhere with a status, to a core of this package, or away. -/
inductive Target where
  | fails (status : Nat)
  | core (j : Nat)
  | away (peer : Nat)
  deriving DecidableEq, Repr

/-- The target of an arrival from core i. -/
def State.target (s : State) (i : Nat) (t : Word) : Target :=
  if bits t 57 7 ≠ 0 ∨ bits t 24 24 ≠ 0 ∨ nodeKind (bits t 0 24) ≠ 0 then .fails stAddress
  else
    match s.partOf? i with
    | none => .fails stNoPeer
    | some (_, p) =>
      if peerOf t ≠ s.board.peer ∧ p.home ≠ some (peerOf t) then
        (if s.reachesPeer p (peerOf t) then .away (peerOf t) else .fails stNoPeer)
      else
        match (s.nodeNamed i (peerOf t) (bits t 0 24)).bind (s.physNode? i) with
        | some j => .core j
        | none => .fails stNoPeer

/-- SendArrival of R202: target word, object, count, the target's package and destination node. -/
def State.sendArrival (s : State) (i : Nat) (cls : Cls) (t obj : Word) (count pkg node : Nat) (after : List Nat) :
    State :=
  let a : Access := { id := s.fresh, core := i, cls := cls, addr := t, kind := .arrival pkg (bits t 0 24) obj count,
                      after := after, node := node }
  { s with flight := s.flight ++ [a], fresh := s.fresh + 1 }

/-- What a core holds behind a release hold and waits for nothing more takes effect, oldest first: arrivals on its own
objects (R202), release stores, which enter the buffer (R132), and records of posted failures. -/
def State.settle (s : State) (i : Nat) : State :=
  s.flight.foldl (fun (t : State) (a : Access) =>
    match a.kind, a.phase with
    | .release bs, .sent =>
      if a.core = i ∧ t.allAcked i a.after then (t.dropAccess a.id).enterBuffer i a.id a.cls a.addr bs false [] else t
    | .ownArrival o n, .sent => if a.core = i ∧ t.allAcked i a.after then (t.dropAccess a.id).updateObj i o n 0 else t
    | .ownArrival _ _, .performed st _ =>
      if a.core = i ∧ t.allAcked i a.after then (t.dropAccess a.id).postedFault i a.addr st else t
    | _, _ => t) s

/-- ARRIVE (R202). -/
def execArrive (o : OpM) (s : State) : Host.Outcome State Fault Refusal :=
  issued (fieldsM o) anyLevel [] s fun x s0 s1 =>
    let i := s0.cur
    let count := max (o.imm.toNat % 2 ^ 16) 1
    let mask := o.imm.toNat / 2 ^ 16 % 8
    let covered (c : Cls) := o.sub == 0 && inMask mask c
    match if o.s2 = .none then s0.self.objDetail x.s3 else none with
    | some d => .trap s0 (guardTrap d x.s3)
    | none =>
      let s := s1.drainOwn i fun e => covered e.cls
      let held := s.pendIds i covered
      if o.s2 = .none then
        if held.isEmpty then .ok (s.updateObj i x.s3 count 0)
        else .ok (s.sendAccess i o.cls x.s3 (.ownArrival x.s3 count) held)
      else
        match s.target i x.s2 with
        | .fails st => .ok (s.failPosted i o.cls x.s2 st held)
        | .core j =>
          let t := s.sendArrival i o.cls x.s2 x.s3 count s.board.peer j held
          .ok (if j = i then t else t.countSent i)
        | .away p =>
          .ok ((s.sendArrival i o.cls x.s2 x.s3 count p (beyond p (bits x.s2 0 24)) held).countSent i)

/-- Whether an access may reach its destination now: sent, its holds over, and its turn in class O (R180, R181). -/
def State.mayArrive (s : State) (a : Access) : Bool :=
  (a.phase == .sent || a.phase == .waits) && s.allAcked a.core a.after
    && !(a.stream && s.behindOrder a.core a.id a.node a.cls)

/-- Whether an access may come to its interface behind others that wait there (R369). -/
def State.mayCome (s : State) (a : Access) : Bool :=
  a.phase == .sent && s.allAcked a.core a.after && a.stream && s.orderThere a.core a.id a.node

/-! ## The destination's side -/

/-- What an access asks of its destination. -/
def AccKind.req : AccKind → Option Req
  | .store bs => some (.write bs)
  | .read n => some (.read n false)
  | .ratomp sub ty b => some (.atomic sub ty b.toNat 0)
  | .join => some .join
  | .arrival _ _ _ _ | .ownArrival _ _ | .release _ => none

/-- What an access asks of another package (R129). -/
def AccKind.farReq : AccKind → Option FarReq
  | .store bs => some (.write bs)
  | .read n => some (.read n false)
  | .ratomp sub ty b => some (.atomic sub ty b.toNat 0)
  | .join => some .join
  | .arrival _ _ o n => some (.arrival o n)
  | .ownArrival _ _ | .release _ => none

/-- Bytes that an access moves toward its destination. -/
def AccKind.bytes : AccKind → Nat
  | .store bs => (bs.map (·.1 + 1)).foldl max 0
  | _ => 0

/-- What a node of this package sends to another package for a tenant (R129, R374). -/
def State.transfer (s : State) (ttag node : Nat) (cls : Cls) (what : FarWhat) : Transfer :=
  { pkg := s.board.peer, node := s.asSeen node, ttag := ttag, cls := cls, what := what }

/-- What core i's partition sends from it. -/
def State.transferOf (s : State) (i : Nat) (cls : Cls) (what : FarWhat) : Transfer :=
  s.transfer (s.tagOf (s.partOfSource i)) i cls what

/-- An access leaves for the package of its destination (R129). -/
def State.leaveAccess (s : State) (a : Access) : State :=
  match a.kind.farReq with
  | some q =>
    (s.leave (s.placeOf a.node).1 (s.transferOf a.core a.cls (.access a.addr q))).onAccess a.id fun a =>
      { a with phase := .away }
  | none => s

/-- An access on its way through the routers (R375, R376): whether it has come through, and the state, in which it may
wait at an exhausted counter. -/
def State.routedAccess (s : State) (a : Access) : Bool × State :=
  if Config.coreCount ≤ a.core then (true, s)
  else
    match s.comesThrough (s.pnum a.core) a.cls (s.climbs a.core a.id a.node a.cls (unitsOf a.kind.bytes)) a.paid (.access a.id) with
    | (ok, paid, t) => (ok, if paid = a.paid then t else t.onAccess a.id fun a => { a with paid := paid })

/-- An access is served at its destination (R361), or waits there. -/
def State.serveAccess (s : State) (a : Access) : State :=
  match a.kind.req with
  | none => s
  | some r =>
    match s.reach (s.partOfSource a.core) a.addr r (.access a.id) a.reps with
    | (.done st bs, t) =>
      let t := if st = stOk then t.spoil (s.partOfSource a.core) a.addr a.hurt else t
      t.onAccess a.id fun a => { a with phase := .performed st bs }
    | (.held reps, t) => t.onAccess a.id fun a => { a with phase := .held, reps := reps }
    | (.away, t) => t.leaveAccess a
    | (_, t) => t

/-- An access that comes to its interface before its turn is translated there (R369). -/
def State.comeAccess (s : State) (a : Access) : Ahead × State :=
  match a.kind.req with
  | none => (.barred, s)
  | some r =>
    match s.lookAhead none (s.partOfSource a.core) a.addr r (.access a.id) a.reps with
    | (.held reps, t) => (.held reps, t.onAccess a.id fun a => { a with phase := .held, reps := reps })
    | (.clear, t) => (.clear, t.onAccess a.id fun a => { a with phase := .waits })
    | (.barred, t) => (.barred, t)

/-- An access in flight arrives (R361); one for another package leaves through its gateway (R129). -/
def State.arriveFlight (s : State) (id : Nat) : State :=
  match s.access? id with
  | some a =>
    if s.mayArrive a then
      match s.routedAccess a with
      | (true, t) => t.serveAccess a
      | (false, t) => t
    else if s.mayCome a then
      match s.routedAccess a with
      | (true, t) => (t.comeAccess a).2
      | (false, t) => t
    else s
  | none => s

/-! ## Accesses of other packages (R129, R358) -/

/-- An access of another package by number. -/
def State.inbound? (s : State) (id : Nat) : Option Inbound := s.inbound.find? fun x => x.id == id

/-- The state with one of them changed. -/
def State.onInbound (s : State) (id : Nat) (f : Inbound → Inbound) : State :=
  { s with inbound := s.inbound.map fun x => if x.id = id then f x else x }

/-- An access of another package ends: its outcome goes back (R129). -/
def State.answerInbound (s : State) (x : Inbound) (status : Nat) (bytes : List Byte) : State :=
  { s with inbound := s.inbound.filter fun y => y.id != x.id }.leave x.pkg
    (s.transfer (s.tagOf x.part) x.node x.cls (.reply status bytes))

/-- What an access of another package asks of this one's memory. -/
def farAsks : FarReq → Option Req
  | .read n f => some (.read n f)
  | .write bs => some (.write bs)
  | .atomic sub ty b e => some (.atomic sub ty b e)
  | .join => some .join
  | .mcast _ bs => some (.write (bs.mapIdx fun k b => (k, b)))
  | .arrival _ _ => none

/-- Whether an access of another package waits behind an earlier one: class O from one node to one destination (R180). -/
def State.inboundHeld (s : State) (x : Inbound) : Bool :=
  x.held || s.inbound.any fun y =>
    y.cls == .o && x.cls == .o && y.pkg == x.pkg && y.src == x.src && y.node == x.node && decide (y.id < x.id)

/-- An access of another package is translated by its gateway and served (R358, R361, R379). -/
def State.serveInbound (s : State) (x : Inbound) : State :=
  match farAsks x.req with
  | none => s
  | some r =>
    match s.reachBy (some (gatewayNode x.port)) x.part x.addr r (.inbound x.id) x.reps with
    | (.done st bs, t) => t.answerInbound x st bs
    | (.held reps, t) => t.onInbound x.id fun x => { x with held := true, reps := reps }
    | (_, t) => t

/-- An access of another package arrives at its destination. -/
def State.arriveInbound (s : State) (id : Nat) : State :=
  match s.inbound? id with
  | some x => if s.inboundHeld x then s else s.serveInbound x
  | none => s

/-! ## Arrivals at their target (R202) -/

/-- An arrival is applied at core j, or its router diverts it (R407): a status, or nothing where the spill queue is full. -/
def State.applyArrival (s : State) (j : Nat) (o : Word) (n src : Nat) (own : Bool) : Option (Nat × State) :=
  if !s.objectAt j o then some (stAddress, s)
  else if (s.core j).diverts then (s.divert j (.arrival o n src own)).map fun t => (stOk, t)
  else
    let t := s.updateObj j o n 0
    some (stOk, if own then t else t.countRcvd j)

/-- An arrival that another package sent. -/
def State.arriveFrom (s : State) (id : Nat) : State :=
  match s.inbound? id with
  | none => s
  | some x =>
    match x.req with
    | .arrival o n =>
      if s.inboundHeld x then s
      else
        match s.applyArrival x.node o n x.src false with
        | some (st, t) => t.answerInbound x st []
        | none => s
    | _ => s

/-- REMOTE_ARRIVAL (R202): the target applies the arrival that an access carries; one for another package leaves. -/
def execRemoteArrival (access : Nat) (s : State) : Host.Outcome State Fault Refusal :=
  .next (match s.access? access with
    | none => s.arriveFrom access
    | some a =>
      match a.kind with
      | .arrival p _ o n =>
        if !s.mayArrive a then s
        else
          match s.routedAccess a with
          | (false, t) => t
          | (true, t) =>
            if p ≠ s.board.peer then t.leaveAccess a
            else
              match t.applyArrival a.node o n (s.nodeOf a.core) (a.core == a.node) with
              | some (st, u) => u.onAccess access fun a => { a with phase := .performed st [] }
              | none => s
      | _ => s)

/-- An acknowledgement with a status and bytes has returned to the source (R181, R186). -/
def State.acknowledge (s : State) (a : Access) (st : Nat) (bs : List Byte) : State :=
  if 2 ^ 20 ≤ a.core then (s.dropAccess a.id).noticeWritten (a.core - 2 ^ 20) st
  else if !a.posted then s.onAccess a.id fun a => { a with phase := .returned st bs }
  else
    let s := s.dropAccess a.id
    (if st = stOk then s else s.postedFault a.core a.addr st).settle a.core

/-- Whether an access is answered by another package (R129). -/
def State.isAway (s : State) (a : Access) : Bool :=
  match a.kind with
  | .arrival p _ _ _ => p != s.board.peer
  | .ownArrival _ _ | .release _ => false
  | _ =>
    match s.dest (s.partOfSource a.core) a.addr with
    | .away _ => true
    | _ => false

/-- ACKNOWLEDGEMENT (R181): of an access performed here, or with another package's answer. -/
def execAcknowledgement (access : Nat) (outside : Reply) (s : State) : Host.Outcome State Fault Refusal :=
  .next (match s.access? access with
    | none => s
    | some a =>
      match a.phase, outside with
      | .performed st bs, _ => if s.allAcked a.core a.after then s.acknowledge a st bs else s
      | .away, some (st, bs) => if s.isAway a ∧ s.allAcked a.core a.after then s.acknowledge a st bs else s
      | _, _ => s)

/-- ENTRY_DRAIN (R133): an entry that has stood 32 cycles. -/
def execEntryDrain (cluster entry : Nat) (s : State) : Host.Outcome State Fault Refusal :=
  .next (s.drain cluster fun e => e.id == entry && decide (32 ≤ e.age))

/-- PAGE_REQUEST_POST (R438). -/
def execPageRequestPost (iface : Nat) (s : State) : Host.Outcome State Fault Refusal := .next (s.postWaiting iface)

/-! ## Fences -/

/-- A scope word that R212 refuses for core i. -/
def State.scopeBad (s : State) (i : Nat) (w : Word) : Bool :=
  let v := s.virt i
  bits w 58 6 != 0 || bits w 42 6 != 0 || bits w 26 6 != 0 || bits w 10 6 != 0
    || decide (bits w 32 10 < bits w 0 10) || decide (bits w 48 10 < bits w 16 10)
    || decide (v.1 < bits w 0 10) || decide (bits w 32 10 < v.1)
    || decide (v.2 < bits w 16 10) || decide (bits w 48 10 < v.2)

/-- Whether a virtual core node of a package lies in a scope (R212); no word is the system scope. -/
def State.inScope (s : State) (scope : Option Word) (pkg node : Nat) : Bool :=
  match scope with
  | none => true
  | some w =>
    let x := node % 1024
    let y := node % 2 ^ 20 / 1024
    pkg == s.board.peer && decide (bits w 0 10 ≤ x) && decide (x ≤ bits w 32 10)
      && decide (bits w 16 10 ≤ y) && decide (y ≤ bits w 48 10)

/-- The accesses that a fence of core i awaits (R213), a RATOM behind its release hold among them. -/
def State.fenced (s : State) (i mask : Nat) (scope : Option Word) : List Nat :=
  ((s.pending i).filter fun a =>
    inMask mask a.cls
      && (match a.target with
          | some (p, n) => s.inScope scope p n
          | none => true)).map (·.id)
  ++ (((s.core i).cmds.filter fun k => inMask mask k.cls && !s.allAcked i k.after).map Cmd.fenceId)

/-- What a fence in progress awaits. -/
def Core.fenceStage (c : Core) : Option (List Nat × List Nat) :=
  match c.wait with
  | some w =>
    match w.stage with
    | .fence ids tls => some (ids, tls)
    | _ => none
  | none => none

/-- FENCE and FENCEX from the checked scope on (R213): entries drain, what is outstanding is awaited; FENCEX also awaits
the core's commands and settles what the two ordering domains wrote (R219). -/
def fencing (mask : Nat) (scope : Option Word) (engines : Bool) (detail : Nat) (imm : BitVec 32) (s0 s1 : State) :
    Result :=
  let i := s0.cur
  let drain (t : State) := t.drainOwn i fun e => inMask mask e.cls
  let d := drain s0
  let (ids, tls) := (s0.self.fenceStage).getD
    (d.fenced i mask scope, (if engines then s0.self.issued else Vector.replicate 4 0).toList)
  if d.allAcked i ids && (tls.zipIdx.all fun t => decide (t.1 ≤ s0.self.tl[t.2]!)) then
    .ok (if engines then (drain s1).settled i else drain s1)
  else .wait d { detail := detail, left := s0.self.waitLeft imm, stage := .fence ids tls }

/-- FENCE or FENCEX. -/
def fence (o : OpM) (ir : Word) (engines : Bool) (detail : Nat) (s : State) : Host.Outcome State Fault Refusal :=
  issued (fieldsM o) (limitPriv ir o.imm) [] s fun x s0 s1 =>
    let scope := if o.s3 = .none then none else some x.s3
    match scope with
    | some w =>
      if s0.scopeBad s0.cur w then .trap s0 (guardTrap 0x09 w)
      else fencing o.sub.toNat scope engines detail o.imm s0 s1
    | none => fencing o.sub.toNat scope engines detail o.imm s0 s1

/-- FENCE (R213). -/
def execFence (o : OpM) (s : State) : Host.Outcome State Fault Refusal :=
  fence o (irOf (.fence o)) false 0x26 s

/-- FENCEX (R213). -/
def execFencex (o : OpM) (s : State) : Host.Outcome State Fault Refusal :=
  fence o (irOf (.fencex o)) true 0x27 s

/-! ## The instruction cache (R108) -/

/-- The DETAIL of a failed fetch (R108). -/
def fetchDetail (status : Nat) : Nat :=
  if status = stUnresolved then 0x07
  else if status = stPoison then 0x08
  else if status = stNoPeer then 0x09
  else if status = stAddress then 0x0A
  else if status = stDenied then 0x0B
  else if status = stTable then 0x0C
  else 0x0D

/-- A line placed in a cache of 128 lines; the oldest gives way (log 11). -/
def Core.placeLine (c : Core) (l : ILine) : Core :=
  { c with icache := (l :: c.icache.filter fun x => x.addr != l.addr).take 128 }

/-- The fill of a line ends with a status and its bytes. -/
def State.fillEnds (s : State) (i : Nat) (line : Word) (st : Nat) (bs : List Byte) : State :=
  s.onCore i fun c =>
    c.placeLine (if st = stOk then { addr := line, bytes := bs }
                 else { addr := line, bytes := [], failed := some (fetchDetail st) })

/-- A line is read at the memory peer that holds it (R108). A line of another package has the bytes that the package
answers with, which this one does not know (log 5, log 15). -/
def State.fillLine (s : State) (i : Nat) (line : Word) (reps : List (Nat × Nat)) : State :=
  match s.reach (s.pnum i) line (.read 64 true) (.fetch i line) reps with
  | (.done st bs, t) => t.fillEnds i line st bs
  | (.away, t) =>
    let u := t.leave (peerOf line) (t.transferOf i .o (.access line (.read 64 true)))
    { u.fillEnds i line stOk (leBytes 64 (Config.freeBits u.free 71 512).toNat) with free := u.free + 1 }
  | (_, t) => t

/-- Whether a page request holds the fetch of a line. -/
def State.fetchHeld (s : State) (i : Nat) (line : Word) : Bool :=
  s.ifaces.any fun f => f.2.requests.any fun r => r.fetches.any fun x => x.1 == i && x.2.1 == line

/-- LINE_FILL (R108). -/
def execLineFill (core : Nat) (line : Word) (s : State) : Host.Outcome State Fault Refusal :=
  .next (if s.fetchHeld core line then s else s.fillLine core line [])

end Sys2Proof.Machine
end

