-- ==== Sys2Proof/Machine/Control.lean ====
section
/-! DEFINITION. Control flow (R103 to R109) and stairs (R110 to R121). -/
namespace Sys2Proof.Machine

/-! ## Branches -/

/-- BranchTarget of R50. -/
def branchTarget (pc : Word) (imm : BitVec 32) : Word :=
  (lineAddr pc + ((imm.toInt / 8 * 64 : Int) : BitVec 64)) ||| word (imm.toNat % 8)

/-- The member of its stair's stream that an attached follower executes. -/
def State.streamItem? (s : State) (i : Nat) : Option StreamItem :=
  let c := s.core i
  match c.place with
  | some p => if c.follower then (s.stair? p.stair).bind fun x => x.stream[p.next - x.base]? else none
  | none => none

/-- The illegal-branch-target trap (R47). -/
def targetTrap (d : Nat) (a : Word) : Trap := { cls := 0x03, detail := d, tval := a }

/-- What CheckTarget of R47 finds. -/
inductive TargetCheck where
  | good
  | bad (t : Trap)
  /-- the target's line is not cached: its fill is under way -/
  | fills (s : State)

/-- CheckTarget of R47 at the issuing core. A target to which the head itself has branched was checked there (R110). -/
def State.checkTarget (s : State) (tgt : Word) : TargetCheck :=
  let i := s.cur
  if (s.streamItem? i).any (fun x => x.byHead && x.headNext == tgt && tgt != nextAddr x.addr) then .good
  else if 4 < bits tgt 0 3 ∨ bits tgt 3 3 ≠ 0 then .bad (targetTrap 0x02 tgt)
  else
    match s.self.cached? tgt with
    | none => .fills (if s.fetchHeld i (lineAddr tgt) then s else s.fillLine i (lineAddr tgt) [])
    | some l =>
      match targetDetail l tgt with
      | some d => .bad (targetTrap d tgt)
      | none => .good

/-- CheckTarget, then the branch: a wrong target traps, one in a line that is not cached waits for the fill. -/
def taken (s0 : State) (tgt : Word) (k : Unit → Result) : Result :=
  match s0.checkTarget tgt with
  | .good => k ()
  | .bad t => .trap s0 t
  | .fills t => .wait t stallWait

/-- A branch that is always taken. -/
def branch (o : OpA) (s : State) (tgt : Srcs → Word) (upd : Core → Core) : Host.Outcome State Fault Refusal :=
  issued (fieldsA o) anyLevel [] s fun x s0 s1 =>
    taken s0 (tgt x) fun _ => .jump (s1.setSelf (upd s1.self)) (tgt x)

/-- BR (R104). -/
def execBr (o : OpA) (s : State) : Host.Outcome State Fault Refusal :=
  branch o s (fun _ => branchTarget s.self.pc o.imm) id

/-- BRC (R104). -/
def execBrc (o : OpA) (s : State) : Host.Outcome State Fault Refusal :=
  issued (fieldsA o) anyLevel [] s fun x s0 s1 =>
    let b := if o.s2 = .none then 0 else readInt o.ty x.s2
    let tgt := branchTarget s.self.pc o.imm
    if condOf o.sub.toNat (cmpInt (readInt o.ty x.s1) b) then taken s0 tgt fun _ => .jump s1 tgt else .ok s1

/-- JMP (R104). -/
def execJmp (o : OpA) (s : State) : Host.Outcome State Fault Refusal := branch o s (·.s1) id

/-- The link of a call: the address after it (R104), pushed on the return stack of 4 entries (R105). -/
def linkTo (o : OpA) (pc : Word) (c : Core) : Core := { c.setDst o.d (nextAddr pc) with calls := min 4 (c.calls + 1) }

/-- CALL to a label (R104). -/
def execCallDirect (o : OpA) (s : State) : Host.Outcome State Fault Refusal :=
  branch o s (fun _ => branchTarget s.self.pc o.imm) (linkTo o s.self.pc)

/-- CALL to a register's address (R104). -/
def execCallIndirect (o : OpA) (s : State) : Host.Outcome State Fault Refusal :=
  branch o s (·.s1) (linkTo o s.self.pc)

/-- RET (R105): as JMP; it pops the return stack, which affects timing only. -/
def execRet (o : OpA) (s : State) : Host.Outcome State Fault Refusal :=
  branch o s (·.s1) fun c => { c with calls := c.calls - 1 }

/-- LOOP (R104). -/
def execLoop (o : OpA) (s : State) : Host.Outcome State Fault Refusal :=
  issued (fieldsA o) anyLevel [o.d] s fun _ s0 s1 =>
    let x := s0.self.srcWord s.free 4 o.d 0 - 1
    let tgt := branchTarget s.self.pc o.imm
    let t := s1.setSelf (s1.self.setDst o.d x)
    if x ≠ 0 then taken s0 tgt fun _ => .jump t tgt else .ok t

/-- NOP (R106). -/
def execNop (o : OpA) (s : State) : Host.Outcome State Fault Refusal :=
  issued (fieldsA o) anyLevel [] s fun _ _ s1 => .ok s1

/-- IFENCE (R109). -/
def execIfence (o : OpA) (s : State) : Host.Outcome State Fault Refusal :=
  issued (fieldsA o) anyLevel [] s fun _ _ s1 => .ok (s1.setSelf { s1.self with icache := [] })

/-! ## Completing from outside the core's own issue -/

/-- A waiting instruction of a core completes by an event: the core goes on, a head forwards the instruction, an attached
follower moves on in its stream (R110, R115), and the step trap follows where it is due (R395). -/
def State.finishWait (s : State) (i : Nat) (pc : Word) : State :=
  let c := s.core i
  let n := c.stairNo
  let t := s.onCore i fun c => { c with pc := pc, wait := none, stepping := false }
  let t := match c.wait.bind (·.forward) with
    | some x => (t.forward i n x).endStair n
    | none => t
  let t := match s.streamItem? i with
    | some x => (t.onCore i fun c => c.afterItem x true (t.lastItem c)).endStair n
    | none => t
  if c.steps && !c.wdogPending then
    (t.takeTrap i { cls := 0x0C, detail := 0x02, epc := some (nextAddr c.pc) }).endStair n
  else t

/-- Write the g register that a specifier code names. -/
def Core.setCode (c : Core) (code : Nat) (x : Word) : Core :=
  match opndOfCode code with
  | some o => c.setDst o x
  | none => c

/-- Free the register that a specifier code names (R30). -/
def Core.freeCode (c : Core) (code : Nat) : Core :=
  match opndOfCode code with
  | some o => c.freeReg o
  | none => c

/-! ## Forming a stair (R113, R114) -/

/-- A core in no stair that neither relays one nor is claimed (R113). -/
def Core.isFree (c : Core) : Bool := !c.memb && c.place.isNone && c.claimed.isNone

/-- The number of cycles of a tread code. -/
def treadOf (code : Nat) : Nat := 2 ^ code

/-- The result code of the first check of R113 that fails. -/
def State.stairCode (s : State) (i len sub : Nat) : Option Nat :=
  let span := (List.range (min len (1024 - coreX i))).map (· + i)
  let x := (s.virt i).1
  let c := s.core i
  if !c.isFree || (span.drop 1).any (fun j => !(s.core j).isFree) then some 4
  else if len < 2 ∨ 1024 < len then some 1
  else if x < bits c.kgroup 0 10 ∨ bits c.kgroup 32 10 < x + len - 1 then some 2
  else if sub = 0 ∧ coreX i ≤ 511 ∧ 512 ≤ coreX i + len - 1 then some 3
  else none

/-- A core that waits in FOLLOW, claimed (R114): its limit stops counting. -/
def Core.attach (c : Core) (head : Nat) : Core :=
  match c.wait with
  | some w =>
    match w.stage with
    | .following none => { c with wait := some { w with stage := .following (some head), counting := false } }
    | _ => c
  | none => c

/-- Whether a core is attached to a forming head. -/
def Core.attachedTo (c : Core) (head : Nat) : Bool :=
  match c.wait with
  | some w => w.stage == .following (some head)
  | none => false

/-- kstair of a member (R35, R112). -/
def kstairOf (pos code len : Nat) : Word :=
  word (2 ^ 28 + (if pos = 0 then 2 ^ 27 else 0) + pos * 2 ^ 16 + code * 2 ^ 12 + len)

/-- Whether every core of a head's span is attached. -/
def State.allAttached (s : State) (head len : Nat) : Bool :=
  ((List.range len).drop 1).all fun k => (s.core (head + k)).attachedTo head

/-- The stair forms (R113): every member's kstair and place are set, FOLLOW and STAIR complete with 0. The head's wait
holds the length, the tread's code, and the specifiers of D and of a last use. -/
def State.formStair (s : State) (head len code d last : Nat) : State :=
  let n := s.fresh
  let next := nextAddr (s.core head).pc
  let x : Stair := { id := n, head := head, len := len, tread := treadOf code }
  let s := { s with fresh := n + 1, stairs := s.stairs ++ [x] }
  let s := ((List.range len).drop 1).foldl (fun (s : State) k =>
    s.onCore (head + k) fun c =>
      let r := match c.wait with
        | some w => (w.args[0]?).getD 0xFF
        | none => 0xFF
      { c.setCode r 0 with
        kstair := kstairOf k code len, place := some { stair := n }, claimed := none, wait := none, pc := next }) s
  let s := s.onCore head fun c =>
    { (c.freeCode last).setCode d 0 with kstair := kstairOf 0 code len, place := some { stair := n }, claimed := none }
  s.finishWait head next

/-- The length of a claim in progress at a core. -/
def Core.claimLen (c : Core) : Option Nat :=
  match c.wait with
  | some w =>
    match w.stage with
    | .claiming n => some n
    | _ => none
  | none => none

/-- Claims of a head on its span (R113). -/
def State.claim (s : State) (head len : Nat) : State :=
  ((List.range len).drop 1).foldl (fun (s : State) k =>
    s.onCore (head + k) fun c => { c.attach head with claimed := some head })
    (s.onCore head fun c => { c with claimed := some head })

/-- STAIR (R113). -/
def execStair (o : OpA) (s : State) : Host.Outcome State Fault Refusal :=
  issued (fieldsA o) (limitPriv (irOf (.stair o)) o.imm) [] s fun x s0 s1 =>
    let i := s0.cur
    let len := x.s1.toNat
    let code := o.sub.toNat
    let last := if o.l1 then opndCode o.s1 else 0xFF
    let w : Wait := { detail := 0x31, left := s0.self.waitLeft o.imm, stage := .claiming len,
                      args := [len, code, opndCode o.d, last] }
    match s0.self.claimLen with
    | some _ => .wait s0 w
    | none =>
      match s0.stairCode i len code with
      | some r => .ok (s1.setSelf (s1.self.setDst o.d (word r)))
      | none =>
        let t := s0.claim i len
        if t.allAttached i len then .stay (t.formStair i len code (opndCode o.d) last) else .wait t w

/-- STAIR_FORMATION (R113): every core of a claimed span is attached. -/
def execStairFormation (head : Nat) (s : State) : Host.Outcome State Fault Refusal :=
  .next (match (s.core head).claimLen, (s.core head).wait with
    | some len, some w =>
      if s.allAttached head len then
        s.formStair head len ((w.args[1]?).getD 0) ((w.args[2]?).getD 0xFF) ((w.args[3]?).getD 0xFF)
      else s
    | _, _ => s)

/-- A formation that fails (R113): claims are released, and every attached core completes its FOLLOW with 1. -/
def State.releaseClaims (s : State) (head len : Nat) : State :=
  let s := s.onCore head fun c => { c with claimed := none }
  ((List.range len).drop 1).foldl (fun (s : State) k =>
    let i := head + k
    let c := s.core i
    if c.claimed ≠ some head then s
    else
      let s := s.onCore i fun c => { c with claimed := none }
      if c.attachedTo head then
        match c.wait with
        | some w => (s.onCore i fun c => c.setCode ((w.args[0]?).getD 0xFF) 1).finishWait i (nextAddr c.pc)
        | none => s
      else s) s

/-- Whether a FOLLOW is in progress. -/
def Core.isFollowing (c : Core) : Option (Option Nat) :=
  match c.wait with
  | some w =>
    match w.stage with
    | .following h => some h
    | _ => none
  | none => none

/-- FOLLOW (R114). -/
def execFollow (o : OpA) (s : State) : Host.Outcome State Fault Refusal :=
  issued (fieldsA o) (limitPriv (irOf (.follow o)) o.imm) [] s fun _ s0 s1 =>
    let c := s0.self
    let h := (c.isFollowing).getD c.claimed
    let w : Wait := { detail := 0x32, left := c.waitLeft o.imm, counting := h.isNone, stage := .following h,
                      args := [opndCode o.d] }
    if c.memb || c.place.isSome then .ok (s1.setSelf (s1.self.setDst o.d 4)) else .wait s0 w

/-! ## Landings (R119) -/

/-- A member's record of its stair. -/
def State.stairOf? (s : State) (i : Nat) : Option Stair :=
  match (s.core i).place with
  | some p => s.stair? p.stair
  | none => none

/-- Whether a LAND is in progress at a core. -/
def Core.isLanding (c : Core) : Bool :=
  match c.wait with
  | some w => w.stage == .landed
  | none => false

/-- The head begins a landing: it forwards its LAND outside its handler, and the attached members arrive at the end of
the stream (R119). -/
def State.beginLanding (s : State) (i : Nat) (instr : Instr) : State :=
  let c := s.core i
  s.onStair c.stairNo fun x =>
    let stream := if c.intrap then x.stream
      else x.stream ++ [{ instr := instr, addr := c.pc, byHead := true, headNext := nextAddr c.pc }]
    { x with stream := stream, landing := some (x.base + stream.length) }

/-- LAND (R119). -/
def execLand (o : OpA) (s : State) : Host.Outcome State Fault Refusal :=
  issued (fieldsA o) (limitPriv (irOf (.land o)) o.imm) [] s fun _ s0 s1 =>
    let i := s0.cur
    let c := s0.self
    let w : Wait := { detail := 0x33, left := c.waitLeft o.imm, stage := .landed }
    if !c.memb || c.follower then .ok s1
    else if c.isLanding then .wait s0 w
    else if c.isHead then .wait (s0.beginLanding i (.land o)) w
    else .wait (s0.onStair c.stairNo fun x => { x with waiting := x.waiting ++ [i] }) w

/-- Whether a member has arrived at the landing of its stair at a stream position. -/
def Core.arrivedAt (c : Core) (x : Stair) (i p : Nat) : Bool :=
  match c.place with
  | none => true
  | some q =>
    if q.stair ≠ x.id ∨ !c.memb then true
    else if c.isHead then true
    else if c.detached then x.waiting.contains i
    else decide (p ≤ q.next) && c.wait.isNone

/-- The stream position of a landing at which every member of the stair has arrived (R119). -/
def State.landed? (s : State) (x : Stair) : Option Nat :=
  match x.landing with
  | some p =>
    if (s.core x.head).isLanding && x.span.all (fun i => (s.core i).arrivedAt x i p) then some p else none
  | none => none

/-- LANDING (R119): every member has arrived; detached ones are attached again, and the head goes on. -/
def execLanding (head : Nat) (s : State) : Host.Outcome State Fault Refusal :=
  .next (match s.stairOf? head with
    | none => s
    | some x =>
      match s.landed? x with
      | none => s
      | some p =>
        if x.head ≠ head then s
        else
          let s := s.onStair x.id fun x => { x with landing := none, waiting := [] }
          let s := x.waiting.foldl (fun (s : State) i =>
            s.onCore i fun c =>
              { c with kstair := setBits c.kstair 26 1 0, place := some { stair := x.id, next := p }, wait := none,
                       pc := nextAddr c.pc }) s
          s.finishWait head (nextAddr (s.core head).pc))

/-! ## Leaving (R121) -/

/-- A member that leaves and still relays. -/
def Core.leaves (c : Core) : Core := { c with kstair := 0, place := c.place.map fun p => { p with left := true } }

/-- The head dissolves its stair (R121). Detached members become independent, one at a landing completing its LAND; an
attached one that has executed all that was forwarded does when the instruction itself is not forwarded. -/
def State.dissolve (s : State) (i : Nat) : State :=
  match s.stairOf? i with
  | none => s
  | some x =>
    let atOnce := (s.core i).intrap
    let s := s.onStair x.id fun x => { x with dissolved := true, landing := none, waiting := [] }
    let s := x.span.foldl (fun (s : State) j =>
      let c := s.core j
      match c.place with
      | none => s
      | some p =>
        if p.stair ≠ x.id ∨ !c.memb then s
        else if c.isHead then s.onCore j Core.independent
        else if c.detached then
          let s := s.onCore j Core.independent
          if c.isLanding then s.finishWait j (nextAddr c.pc) else s
        else if atOnce ∧ x.base + x.stream.length ≤ p.next then s.onCore j Core.independent
        else s) s
    if atOnce then s.endStair x.id else s

/-- LEAVE (R121). -/
def execLeave (o : OpA) (s : State) : Host.Outcome State Fault Refusal :=
  issued (fieldsA o) anyLevel [] s fun _ s0 s1 =>
    let i := s0.cur
    let c := s0.self
    if !c.memb then .ok s1
    else if c.isHead then .ok (s1.dissolve i)
    else if c.detached then .ok (s1.setSelf s1.self.leaves)
    else if (s0.streamItem? i).any (fun x => x.byHead) then .ok s1
    else .ok (s1.setSelf s1.self.leaves)

end Sys2Proof.Machine
end

