-- ==== Sys2Proof/Machine/Channels.lean ====
section
/-! DEFINITION. The channel instructions (R154 to R172): connecting, sending, receiving, delegation, closing, status and
loading. -/
namespace Sys2Proof.Machine

/-! ## Checks at issue (R61, R156) -/

/-- A channel instruction that executes: privilege, use after last use, the refusals of R156, then pops and its effect. -/
def channelOp (f : Fields) (priv : Core → Option Trap) (s : State) (refused : Option Trap)
    (body : Srcs → State → State → Result) : Host.Outcome State Fault Refusal :=
  issued f (fun c =>
    match priv c with
    | some t => some t
    | none => if (c.usedFreed? [f.s1, f.s2, f.s3]).isSome then none else refused) [] s body

/-- The trap of the lowest refusal in a list, on an endpoint. -/
def State.refuse (s : State) (e : Nat) (l : List Nat) : Option Trap :=
  (leastDetail l).map (refusalTrap (s.self.ep e))

/-- At P0, e registers beyond the launch's EPS are not bound by CONNECT, ACCEPT or ADOPT (R322, R391). -/
def epPriv (ir : Word) (e : Nat) (c : Core) : Option Trap :=
  if c.level = 0 ∧ e < 16 ∧ 2 + c.epsN ≤ e then some (privTrap ir 0x04) else none

/-- Two privilege checks, the first before the second. -/
def bothPriv (p q : Core → Option Trap) (c : Core) : Option Trap :=
  match p c with
  | some t => some t
  | none => q c

/-- The limit of a channel instruction that waits, in its wait. -/
def State.chanWaits (s0 : State) (detail e : Nat) (imm : BitVec 32) (args : List Nat) : Wait :=
  { detail := detail, left := s0.self.waitLeft imm, args := e :: args }

/-- The connection fault (R161). -/
def connectTrap (status : Nat) (w : Word) : Trap := { cls := 0x08, detail := status, tval := w }

/-! ## Connecting (R158 to R161) -/

/-- Fields of a connect word (R158). -/
def connPeer (w : Word) : Nat := bits w 48 9
/-- PEEREP. -/
def connEp (w : Word) : Nat := bits w 35 5
/-- SLOT. -/
def connSlot (w : Word) : Nat := bits w 32 3
/-- NODE. -/
def connNode (w : Word) : Nat := bits w 0 24

/-- The connect word of a connector, as ACCEPT writes it (R160). -/
def connectWord (peer ep slot node : Nat) : Word := word (peer * 2 ^ 48 + ep * 2 ^ 35 + slot * 2 ^ 32 + node)

/-- Where a CONNECT leads: a status, or the peer's node identifier, endpoint and package. -/
inductive Peer where
  | fails (status : Nat)
  | found (node ep pkg : Nat)
  deriving DecidableEq, Repr

/-- Whether a node of a package is out of the reach of core i (R129). -/
def State.noPeer (s : State) (i pkg node : Nat) : Bool :=
  match s.partOf? i with
  | none => true
  | some (_, p) =>
    if pkg ≠ s.board.peer ∧ p.home ≠ some pkg then !s.reachesPeer p pkg
    else (s.physAt? i (node % 1024) (node % 2 ^ 20 / 1024)).isNone

/-- The peer of a CONNECT (R159): a memory peer, a neighbour, a core or a matrix unit. -/
def State.findPeer (s : State) (i e : Nat) (w : Word) (addr : Option Word) : Peer :=
  let own (pkg : Nat) := match s.partOf? i with
    | some (_, p) => if p.home = some pkg then s.board.peer else pkg
    | none => pkg
  if bits w 57 7 ≠ 0 ∨ bits w 40 8 ≠ 0 ∨ bits w 24 8 ≠ 0 then .fails stAddress
  else if (addr.isSome ∨ 16 ≤ e) ∧ (connPeer w ≠ 0 ∨ connEp w ≠ 0 ∨ connNode w ≠ 0) then .fails stAddress
  else
    match addr with
    | some a =>
      match s.dest (s.pnum i) a with
      | .malformed => .fails stAddress
      | .noPeer => .fails stNoPeer
      | .away p => .found (windowNode a) 0 p
      | .here _ _ _ => .found (windowNode a) 0 s.board.peer
    | none =>
      if 16 ≤ e then
        match s.neighbour? i (e - 16) with
        | some j => .found (s.nodeOf j) (16 + opposite (e - 16)) s.board.peer
        | none => .fails stNoPeer
      else if 20 ≤ connEp w then .fails stAddress
      else if nodeKind (connNode w) ≠ 0 ∧ nodeKind (connNode w) ≠ 5 then .fails 0x0D
      else
        match s.nodeNamed i (connPeer w) (connNode w) with
        | none => .fails stNoPeer
        | some node =>
          if s.noPeer i (connPeer w) node then .fails stNoPeer else .found node (connEp w) (own (connPeer w))

/-- A node of a partition as core i names it in a word that it gets: physical at P2 (R19). -/
def State.nodeTold (s : State) (i pkg node : Nat) : Nat :=
  if (s.core i).level = 2 ∧ pkg = s.board.peer then (s.physNode? i node).getD node else node

/-- The connect word of a held request's connector, as ACCEPT writes it at core i (R160). -/
def State.requestWord (s : State) (i : Nat) (r : ConnReq) : Word :=
  let pkg := (s.placeOf r.core).1
  connectWord pkg r.ep r.slot (s.nodeTold i pkg r.node)

/-- The number of the channel that a CONNECT in progress has asked for. -/
def Core.connecting? (c : Core) : Option Nat :=
  match c.wait with
  | some w =>
    match w.stage with
    | .connecting n _ => some n
    | _ => none
  | none => none

/-- The endpoint becomes CONNECTING and the request leaves (R160). -/
def State.request (s : State) (i e slot node ep pkg : Nat) (cls : Cls) : State :=
  let n := s.fresh
  let s := { s with fresh := n + 1 }.onEp i e fun x =>
    { mode := .connecting, binding := .user, slot := slot, peer := node, peerEp := ep, peerPkg := pkg, chan := n,
      linkIn := x.linkIn, linkSoft := x.linkSoft, requests := x.requests }
  s.sendPeer i e cls (.request
    { node := s.nodeOf i, core := i, ep := e, slot := slot, chan := n, enc := (s.slot i slot).take encBytes,
      part := s.pnum i })

/-- The specifier of a source register at its last use, as a code; 0xFF for none. -/
def lastCode (l : Bool) (o : Opnd) : Nat := if l then opndCode o else 0xFF

/-- CONNECT (R159, R160). Its wait holds the endpoint, the connect word and the registers at their last use. -/
def execConnect (o : OpC) (s : State) : Host.Outcome State Fault Refusal :=
  let e := epNo o.ep
  let ir := irOf (.connect o)
  let on := s.self.connecting?.isSome
  channelOp (fieldsC o) (bothPriv (limitPriv ir o.imm) (epPriv ir e)) s
    (if on then none else s.refuse e (s.refusals s.cur e .connect 0)) fun x s0 _ =>
      let i := s0.cur
      let wait (n : Nat) : Wait :=
        { s0.chanWaits 0x22 e o.imm [x.s1.toNat, lastCode o.l1 o.s1, lastCode o.l2 o.s2] with
          stage := .connecting n none }
      match s0.self.connecting? with
      | some n => .wait s0 (wait n)
      | none =>
        match s0.findPeer i e x.s1 (if o.s2 = .none then none else some x.s2) with
        | .fails st => .trap s0 (connectTrap st x.s1)
        | .found node ep pkg =>
          if !isValid (s0.slot i (connSlot x.s1)) then .trap s0 (connectTrap 0x0D x.s1)
          else .wait (s0.request i e (connSlot x.s1) node ep pkg o.cls) (wait s0.fresh)

/-- The endpoint of a new channel (R160): OPEN at state 0, every counter zero. -/
def State.openEp (s : State) (i e slot node ep pkg chan rbase rslots : Nat) : State :=
  s.onEp i e fun x =>
    { mode := .openM, binding := .user, slot := slot, peer := node, peerEp := ep, peerPkg := pkg, chan := chan,
      rbase := rbase, rslots := rslots, protoId := protoIdOf (s.slot i slot), linkIn := x.linkIn, linkSoft := x.linkSoft,
      requests := x.requests }

/-- An answer from an acceptor to a connector (R160). -/
def State.answer (s : State) (i e : Nat) (r : ConnReq) (status : Nat) : State :=
  s.send r.core r.ep r.chan i .o (.answer status (s.nodeOf i) e)

/-- Refuse a held request: an answer, or, for a connector that is bound already, the close of its channel. -/
def State.refuseReq (s : State) (i e : Nat) (r : ConnReq) (status : Nat) : State :=
  if r.confirmed then
    s.send r.core r.ep r.chan i .o (.close 0 (word (status * 2 ^ 56 + 1)))
  else s.answer i e r status

/-- What ACCEPT does with the requests held at its endpoint, oldest first (R160, R161). -/
inductive Accepted where
  /-- none left -/
  | waits
  /-- answered; the confirmation is awaited -/
  | answered (chan : Nat)
  /-- the connector had confirmed before: bound -/
  | bound (r : ConnReq)
  /-- the acceptor's own reservation failed -/
  | noBuffer

/-- Take requests until one is a dual of the slot's protocol. -/
def State.takeRequests (s : State) (i e slot : Nat) : List ConnReq → Accepted × State
  | [] => (.waits, s.onEp i e fun ep => { ep with requests := [] })
  | r :: rest =>
    let t := s.onEp i e fun ep => { ep with requests := rest }
    if !duals (s.slot i slot) r.enc then (t.refuseReq i e r 0x0B).takeRequests i e slot rest
    else
      match t.reserve i (s.slot i slot) with
      | none => (.noBuffer, t.refuseReq i e r 0x0C)
      | some (b, n) =>
        if r.confirmed then (.bound r, t.openEp i e slot r.node r.ep (s.placeOf r.core).1 r.chan b n)
        else
          let size := storedSlotSize (s.slot i slot)
          let k : KeptBuffer := { chan := r.chan, ep := e, base := b * 32, len := n * size, size := size, pending := some r }
          (.answered r.chan, (t.onCore i fun c => { c with kept := c.kept ++ [k] }).answer i e r stOk)

/-- The number of the channel that an ACCEPT in progress has answered. -/
def Core.accepting? (c : Core) : Option Nat :=
  match c.wait with
  | some w =>
    match w.stage with
    | .accepting n _ => some n
    | _ => none
  | none => none

/-- ACCEPT (R160). Its wait holds the endpoint, the specifier of D, the slot and the registers at their last use. -/
def execAccept (o : OpC) (s : State) : Host.Outcome State Fault Refusal :=
  let e := epNo o.ep
  let ir := irOf (.accept o)
  channelOp (fieldsC o) (bothPriv (limitPriv ir o.imm) (epPriv ir e)) s
    (if s.self.accepting?.isSome then none else s.refuse e (s.refusals s.cur e .accept 0)) fun x s0 _ =>
      let i := s0.cur
      let slot := connSlot x.s1
      let w : Wait := s0.chanWaits 0x23 e o.imm [opndCode o.d, slot, lastCode o.l1 o.s1]
      let answered (n : Nat) : Wait := { w with counting := false, stage := .accepting n none }
      match s0.self.accepting? with
      | some n => .wait s0 (answered n)
      | none =>
        if setBits x.s1 32 3 0 ≠ 0 then .trap s0 (connectTrap stAddress x.s1)
        else if !isValid (s0.slot i slot) then .trap s0 (connectTrap 0x0D x.s1)
        else
          match s0.takeRequests i e slot (s0.self.ep e).requests with
          | (.waits, t) => .wait t w
          | (.answered n, t) => .wait t (answered n)
          | (.noBuffer, t) => .trap t (connectTrap 0x0C x.s1)
          | (.bound r, t) =>
            .ok (t.onCore i fun c =>
              { c.freeLast (fieldsC o) with wait := none }.setDst o.d (t.requestWord i r))

/-! ## Tiles (R163) -/

/-- Bits of a row of a tile. -/
def rowBits (t : TypeEnt) : Nat := t.cols * (fmtBits t.fmt).getD 0

/-- The runs of bytes that a tile covers, as addresses and lengths, with its stride when one is named. -/
def tileRuns (t : TypeEnt) (a : Word) (stride : Option Word) : List (Word × Nat) :=
  match stride with
  | none => [(a, msgSize t)]
  | some d => (List.range t.rows).map fun r => (a + word (r * d.toNat), rowBits t / 8)

/-- The alignment and stride conditions of R163 that a tile breaks. -/
def tileBad (t : TypeEnt) (a : Word) (stride : Option Word) : Bool :=
  a.toNat % 32 != 0
    || (match stride with
        | none => false
        | some d => d.toNat % 32 != 0 || decide (d.toNat * 8 < rowBits t) || rowBits t % 8 != 0)

/-- The trap of a tile's checks (R93, R124, R163, R399): the lowest DETAIL over every byte that it covers. -/
def State.tileTrap (s : State) (u : Use) (t : TypeEnt) (a : Word) (stride : Option Word) : Option Trap :=
  let runs := tileRuns t a stride
  let each := runs.filterMap fun r => s.localTrap u r.1 r.2 1
  let guards := (each.filter fun t => t.cls == 0x05).map (·.detail)
  match leastDetail (guards ++ bad (tileBad t a stride) 0x02) with
  | some d => some (guardTrap d a)
  | none => each.head?

/-- The bytes of a tile in local memory (R163). -/
def State.loadTile (s : State) (t : TypeEnt) (a : Word) (stride : Option Word) : List Byte :=
  ((tileRuns t a stride).map fun r => s.loadLocal s.cur r.1 r.2).flatten

/-- A read of a tile corrects its single-bit errors (R398). -/
def State.correctTile (s : State) (t : TypeEnt) (a : Word) (stride : Option Word) : State :=
  (tileRuns t a stride).foldl (fun (u : State) r => u.correct (localKey u.cur r.1) r.2) s

/-- A tile written in row order as ordinary stores (R164). -/
def State.storeRuns (s : State) (bs : List Byte) : List (Word × Nat) → State
  | [] => s
  | (a, n) :: r => (s.progStore a (bs.take n)).storeRuns (bs.drop n) r

/-- The stride that S2 names. -/
def strideOf (o : OpC) (s2 : Word) : Option Word := if o.s2 = .none then none else some s2

/-- The type that MT names at an endpoint. -/
def State.typeAt (s : State) (i e mt : Nat) : TypeEnt := typeEnt (s.slot i ((s.core i).ep e).slot) mt

/-! ## Sending (R162) -/

/-- The fields of a request vector (R148): address, count, distance, whether bytes 16–31 are zero. -/
def requestOf (bs : List Byte) : Word × Nat × Int × Bool :=
  (word (fieldAt bs 0 8), fieldAt bs 8 4, signedOf 32 (fieldAt bs 12 4), fieldAt bs 16 16 == 0)

/-- The address of item k of a request. -/
def itemAt (a : Word) (d : Int) (k : Nat) : Word := a + BitVec.ofInt 64 (d * k)

/-- A request for reads passes its sender's router (R134, R148): the sender's entries that hold bytes of its items drain,
and the memory peer's reads wait for their acknowledgement. -/
def State.requestSent (s : State) (i e : Nat) (data : List Byte) : State :=
  match s.peers.find? fun q => q.chan == ((s.core i).ep e).chan && !q.matrix && !q.write with
  | none => s
  | some q =>
    let (a, n, d, _) := requestOf data
    let size := msgSize (typeEnt q.enc 1)
    let hit (x : CombEntry) : Bool := (List.range (min n 65535)).any fun k => x.holds (itemAt a d k) size
    let ids := ((s.ownEntries i).filter hit).map (·.id)
    if ids.isEmpty then s
    else
      let t := s.drainOwn i hit
      { t with peers := t.peers.map fun x => if x.chan = q.chan then { x with behind := x.behind ++ ids } else x }

/-- A message that passed its checks is sent, or its sender waits for a credit. -/
def sends (o : OpC) (act : Nat) (args : List Nat) (s0 s1 : State) (data : List Byte) (deleg : Option Delegation) :
    Result :=
  let e := epNo o.ep
  let i := s0.cur
  if !s1.sendOk i e then .wait s0 (s0.chanWaits 0x21 e o.imm args)
  else if (s0.self.ep e).binding == .link then .ok (s1.linkSend i e (word (leNat data)))
  else if act = 0 ∧ o.mt.val = 0 then .ok ((s1.transmit i e act 0 o.cls data false deleg).requestSent i e data)
  else .ok (s1.transmit i e act o.mt.val o.cls data false deleg)

/-- SEND (R162). -/
def execSend (o : OpC) (s : State) : Host.Outcome State Fault Refusal :=
  let e := epNo o.ep
  channelOp (fieldsC o) (limitPriv (irOf (.send o)) o.imm) s (s.refuse e (s.refusals s.cur e .send o.mt.val))
    fun x s0 s1 => sends o 0 [] s0 s1 (leBytes 8 x.s1.toNat) none

/-- SENDV (R162). -/
def execSendv (o : OpC) (s : State) : Host.Outcome State Fault Refusal :=
  let e := epNo o.ep
  channelOp (fieldsC o) (limitPriv (irOf (.sendv o)) o.imm) s (s.refuse e (s.refusals s.cur e .sendv o.mt.val))
    fun _ s0 s1 => sends o 0 [] s0 s1 (leBytes 32 (s0.self.srcV s0.free 1 o.s1).toNat) none

/-- The tile that a waiting SENDT read when it issued. -/
def Core.readAlready (c : Core) (n : Nat) : Option (List Byte) :=
  match c.wait with
  | some w => if w.detail = 0x21 then (w.args[1]?).map (leBytes n) else none
  | none => none

/-- SENDT (R162, R163): the tile is read at issue, before any wait. -/
def execSendt (o : OpC) (s : State) : Host.Outcome State Fault Refusal :=
  let e := epNo o.ep
  let t := s.typeAt s.cur e o.mt.val
  channelOp (fieldsC o) (limitPriv (irOf (.sendt o)) o.imm) s (s.refuse e (s.refusals s.cur e .sendt o.mt.val))
    fun x s0 s1 =>
      match s0.self.readAlready (msgSize t) with
      | some bs => sends o 0 [leNat bs] s0 s1 bs none
      | none =>
        match s0.tileTrap .load t x.s1 (strideOf o x.s2) with
        | some r => .trap s0 r
        | none =>
          let bs := s0.loadTile t x.s1 (strideOf o x.s2)
          let read (u : State) : State := u.correctTile t x.s1 (strideOf o x.s2)
          sends o 0 [leNat bs] (read s0) (read s1) bs none

/-- SELECT (R162). -/
def execSelect (o : OpC) (s : State) : Host.Outcome State Fault Refusal :=
  let e := epNo o.ep
  channelOp (fieldsC o) (limitPriv (irOf (.select o)) o.imm) s (s.refuse e (s.refusals s.cur e .select o.mt.val))
    fun _ s0 s1 => sends o 2 [] s0 s1 (leBytes 8 o.mt.val) none

/-! ## Receiving (R164) -/

/-- The next delivery of an endpoint. -/
inductive Delivery where
  | none
  /-- the close word -/
  | closed (w : Word)
  /-- the message meets poison: its endpoint aborts and this is the close word (R399) -/
  | poisoned (w : Word)
  /-- a word of a LINK queue -/
  | link (w : Word)
  | msg (m : Arrived) (bytes : List Byte)

/-- NextDelivery of R164. -/
def State.delivery (s : State) (i e : Nat) : Delivery :=
  let ep := (s.core i).ep e
  if ep.binding == .link then
    match ep.linkIn with
    | w :: _ => .link w
    | [] => .none
  else
    match ep.nextClose?, ep.nextMsg? with
    | some w, _ => .closed w
    | none, none => .none
    | none, some m =>
      let slot := s.slot i ep.slot
      let n := msgSize (typeEnt slot m.mt)
      let k := tcmKey i (ep.slotAt (storedSlotSize slot) m.seq)
      if poisoned s k n then .poisoned (closeWord slot ep 0x04 false) else .msg m (readBytes s.mem k n)

/-- A receive corrects the single-bit errors of the slot that it reads (R398). -/
def State.correctSlot (s : State) (i e : Nat) (m : Arrived) : State :=
  let ep := (s.core i).ep e
  let slot := s.slot i ep.slot
  s.correct (tcmKey i (ep.slotAt (storedSlotSize slot) m.seq)) (msgSize (typeEnt slot m.mt))

/-- Write the outcome register S3 of a receive: all ones for a message, zero for a close word. -/
def Core.setOutcome (c : Core) (o : Opnd) (msg : Bool) : Core :=
  c.setDst o (if msg then 0xFFFFFFFF else 0)

/-- A receive with action code `act` (R164): `close` writes a close word, `data` a message. -/
def receives (o : OpC) (act : Nat) (s0 s1 : State) (close : Word → Core → Core)
    (data : Arrived → List Byte → State → State) : Result :=
  let e := epNo o.ep
  let i := s0.cur
  let ends (t : State) (msg : Bool) : Result := .ok (t.setSelf (t.self.setOutcome o.s3 msg))
  match s0.delivery i e with
  | .none => .wait s0 (s0.chanWaits 0x20 e o.imm [])
  | .closed w => ends (s1.setSelf (close w s1.self)) false
  | .poisoned w =>
    let t := s1.failEp i e 0x04
    ends (t.setSelf (close w t.self)) false
  | .link w =>
    let t := (data default (leBytes 8 w.toNat) s1).popLink i e
    ends (t.countRcvd i) true
  | .msg m bs => ends ((data m bs (s1.correctSlot i e m)).takeMsg i e act m.mt) true

/-- Write a word to D. -/
def toD (o : OpC) (w : Word) (c : Core) : Core := c.setDst o.d w

/-- RECV (R164). -/
def execRecv (o : OpC) (s : State) : Host.Outcome State Fault Refusal :=
  let e := epNo o.ep
  channelOp (fieldsC o).noS3 (limitPriv (irOf (.recv o)) o.imm) s (s.refuse e (s.refusals s.cur e .recv o.mt.val))
    fun _ s0 s1 =>
      receives o 1 s0 s1 (toD o) fun _ bs t => t.setSelf (t.self.setDst o.d (word (leNat bs)))

/-- RECVV (R164). -/
def execRecvv (o : OpC) (s : State) : Host.Outcome State Fault Refusal :=
  let e := epNo o.ep
  channelOp (fieldsC o).noS3 (limitPriv (irOf (.recvv o)) o.imm) s (s.refuse e (s.refusals s.cur e .recvv o.mt.val))
    fun _ s0 s1 =>
      receives o 1 s0 s1 (fun w c => c.setDstV o.d (w.zeroExtend 256))
        fun _ bs t => t.setSelf (t.self.setDstV o.d (BitVec.ofNat 256 (leNat bs)))

/-- RECVT (R163, R164). -/
def execRecvt (o : OpC) (s : State) : Host.Outcome State Fault Refusal :=
  let e := epNo o.ep
  let ty := s.typeAt s.cur e o.mt.val
  channelOp (fieldsC o).noS3 (limitPriv (irOf (.recvt o)) o.imm) s (s.refuse e (s.refusals s.cur e .recvt o.mt.val))
    fun x s0 s1 =>
      match s0.tileTrap .store ty x.s1 (strideOf o x.s2) with
      | some r => .trap s0 r
      | none =>
        receives o 1 s0 s1 (toD o) fun _ bs t =>
          let t := t.storeRuns bs (tileRuns ty x.s1 (strideOf o x.s2))
          t.setSelf (t.self.setDst o.d 0)

/-- OFFER (R164). -/
def execOffer (o : OpC) (s : State) : Host.Outcome State Fault Refusal :=
  let e := epNo o.ep
  channelOp (fieldsC o).noS3 (limitPriv (irOf (.offer o)) o.imm) s (s.refuse e (s.refusals s.cur e .offer 0))
    fun _ s0 s1 => receives o 3 s0 s1 (toD o) fun m _ t => t.setSelf (t.self.setDst o.d (word m.mt))

/-! ## Status (R165, R171) -/

/-- Messages deliverable in number order from RSEQ on. -/
def Endpoint.available (ep : Endpoint) (fuel seq : Nat) : Nat :=
  match fuel with
  | 0 => 0
  | f + 1 => if ep.arrived.any fun m => m.seq == seq then ep.available f ((seq + 1) % 2 ^ 16) + 1 else 0

/-- The word of PROBE (R165). -/
def State.probeWord (s : State) (i e : Nat) : Word :=
  let ep := (s.core i).ep e
  if e < 2 ∨ ep.mode = .unbound then 0
  else
    let avail := if ep.binding == .link then ep.linkIn.length else ep.available 1024 ep.rseq
    let close := ep.nextClose?.isSome
    let next := match ep.nextMsg? with
      | some m => m.mt
      | none => 0
    word ((if decide (0 < avail) || close then 2 ^ 63 else 0) + (if close then 2 ^ 62 else 0)
      + (if s.sendOk i e then 2 ^ 61 else 0) + (if ep.peerHeld then 2 ^ 60 else 0)
      + (if close then 0 else next * 2 ^ 16) + min avail 1023)

/-- PROBE (R165). -/
def execProbe (o : OpC) (s : State) : Host.Outcome State Fault Refusal :=
  issued (fieldsC o) anyLevel [] s fun _ s0 s1 =>
    .ok (s1.setSelf (s1.self.setDst o.d (s0.probeWord s0.cur (epNo o.ep))))

/-- EPSTAT (R171). -/
def execEpstat (o : OpC) (s : State) : Host.Outcome State Fault Refusal :=
  issued (fieldsC o) anyLevel [] s fun x s0 s1 =>
    let n := if o.s1 = .none then 0 else bits x.s1 0 2
    .ok (s1.setSelf (s1.self.setDst o.d (((s0.self.ep (epNo o.ep)).words[n]?).getD 0)))

/-! ## Delegation and adoption (R166 to R168) -/

/-- Refusals of DELEG that its S1 brings (R149, R156, R166). -/
def State.delegRefusals (s : State) (i e mt : Nat) (sub : Opnd) : List Nat :=
  match sub with
  | .e n =>
    let c := s.core i
    let x := c.ep n.val
    let t := s.typeAt i e mt
    bad (decide (n.val < 2)) 0x06
      ++ bad (n.val == e || x.mode != .openM || x.protoId != t.protoId || x.state != t.fmt) 0x07
  | _ => [0x06]

/-- The messages of an endpoint that were not delivered, with their bytes and their poison. -/
def State.undelivered (s : State) (i n : Nat) : List (Arrived × List Byte × Bool) :=
  let x := (s.core i).ep n
  let slot := s.slot i x.slot
  x.arrived.map fun m =>
    let k := tcmKey i (x.slotAt (storedSlotSize slot) m.seq)
    let len := msgSize (typeEnt slot m.mt)
    (m, readBytes s.mem k len, poisoned s k len)

/-- Endpoint n leaves for a new holder (R149, R167): UNBOUND, its buffer kept. -/
def State.handOver (s : State) (i n : Nat) : State :=
  let x := (s.core i).ep n
  let size := storedSlotSize (s.slot i x.slot)
  let k : KeptBuffer :=
    { chan := x.chan, ep := n, base := x.rbase * 32, len := x.rslots * size, desc := some x, size := size,
      msgs := s.undelivered i n }
  (s.onCore i fun c => { c with kept := c.kept ++ [k] }).onEp i n fun ep => ep.unboundAt n

/-- DELEG (R149, R166, R167). -/
def execDeleg (o : OpC) (s : State) : Host.Outcome State Fault Refusal :=
  let e := epNo o.ep
  channelOp { fieldsC o with s1 := .none, l1 := false } (limitPriv (irOf (.deleg o)) o.imm) s
    (s.refuse e (s.refusals s.cur e .deleg o.mt.val ++ (if (s.self.ep e).binding == .user && decide (2 ≤ e) then
      s.delegRefusals s.cur e o.mt.val o.s1 else []))) fun _ s0 s1 =>
      match o.s1 with
      | .e n =>
        let i := s0.cur
        let x := s0.self.ep n.val
        let ws := ({ x with mode := .openM } : Endpoint).words
        let d : Delegation :=
          { desc := ws, chan := x.chan, peerPkg := x.peerPkg, enc := (s0.slot i x.slot).take encBytes, holder := i,
            holderEp := n.val }
        let t := if s1.sendOk i e then s1.handOver i n.val else s1
        sends o 4 [] s0 t (ws.map fun w => leBytes 8 w.toNat).flatten (some d)
      | _ => .ok s1

/-- The slot that holds a carried encoding, bit for bit (R149). -/
def State.slotFor? (s : State) (i : Nat) (enc : List Byte) : Option Nat :=
  (List.range 8).find? fun n =>
    isValid (s.slot i n) && protoIdOf (s.slot i n) == protoIdOf enc && (s.slot i n).take encBytes == enc

/-- The endpoint t of core i adopts what a message carried (R168): bound, or the status of the failure. -/
def State.adopt (s : State) (i t : Nat) (d : Delegation) : Option Nat × State :=
  match s.slotFor? i d.enc with
  | none => (some 0x0D, s.orphan i d 0x0D false)
  | some n =>
    match s.reserve i (s.slot i n) with
    | none => (some 0x0C, s.orphan i d 0x0C false)
    | some (b, k) =>
      let s := s.onEp i t fun x =>
        { endpointOf d.desc with
          mode := .handover, held := false, orderly := false, slot := n, rbase := b, rslots := k, rhead := 0,
          chan := d.chan, peerPkg := d.peerPkg, requests := x.requests }
      (none, s.send d.holder d.holderEp d.chan i .o (.adopted i t))

/-- ADOPT (R168). -/
def execAdopt (o : OpC) (s : State) : Host.Outcome State Fault Refusal :=
  let e := epNo o.ep
  let ir := irOf (.adopt o)
  let target := match o.s1 with
    | .e n => n.val
    | _ => 0
  channelOp (fieldsC o) (bothPriv (limitPriv ir o.imm) (bothPriv (epPriv ir e) (epPriv ir target))) s
    (s.refuse e (s.refusals s.cur e .adopt o.mt.val
      ++ bad (decide (2 ≤ e) && (s.self.ep target).mode != .unbound) 0x0A)) fun _ s0 s1 =>
      match s0.delivery s0.cur e with
      | .msg m _ =>
        let i := s0.cur
        let t := (s1.correctSlot i e m).takeMsg i e 5 m.mt
        match m.deleg with
        | none => .ok (t.setSelf (t.self.setDst o.d 0))
        | some d =>
          match t.adopt i target d with
          | (none, u) => .ok (u.setSelf (u.self.setDst o.d 0))
          | (some st, u) =>
            .trap (u.setSelf (u.self.setDst o.d (word st)))
              { connectTrap st ((d.desc[0]?).getD 0) with epc := some (nextAddr s0.self.pc) }
      | _ => receives o 5 s0 s1 (toD o) fun _ _ t => t

/-! ## Closing (R169, R170) -/

/-- Refusals of CLOSE that the state brings (R169). -/
def State.closeRefusals (s : State) (i e : Nat) : List Nat :=
  let ep := (s.core i).ep e
  let slot := s.slot i ep.slot
  if ep.mode ≠ .openM ∨ ep.binding ≠ .user then []
  else if isExternal slot ep.state then [0x09]
  else bad (anyTransition? slot ep.state 6).isNone 0x03

/-- CLOSE of an endpoint (R169). -/
def State.closeEp (s : State) (i e : Nat) : State :=
  let ep := (s.core i).ep e
  let slot := s.slot i ep.slot
  let ends := (anyTransition? slot ep.state 6).isSome
  let notice (t : State) := t.sendPeer i e .o (.close ep.sseq (closeWord slot ep 0 true))
  if ep.mode = .closedAt then (if ep.orderly && ends then notice s else s).unbindEp i e 0 false
  else ((notice s).keepBuffer i e).unbindEp i e 0 false

/-- CLOSE (R169). -/
def execClose (o : OpC) (s : State) : Host.Outcome State Fault Refusal :=
  let e := epNo o.ep
  channelOp (fieldsC o) anyLevel s (s.refuse e (s.refusals s.cur e .close 0 ++ s.closeRefusals s.cur e))
    fun _ s0 s1 => .ok (s1.closeEp s0.cur e)

/-- ABORT (R170). -/
def execAbort (o : OpC) (s : State) : Host.Outcome State Fault Refusal :=
  let e := epNo o.ep
  channelOp (fieldsC o) anyLevel s (s.refuse e (s.refusals s.cur e .abort 0)) fun _ s0 s1 =>
    .ok (if (s0.self.ep e).mode = .closedAt then s1.unbindEp s0.cur e 0 false else s1.abortEp s0.cur e 0 false)

/-! ## Loading (R172) -/

/-- An endpoint is bound to a slot (R172). -/
def Core.slotBound (c : Core) (n : Nat) : Bool :=
  (List.range 20).any fun e => (c.ep e).binding == .user && (c.ep e).mode != .unbound && (c.ep e).slot == n

/-- PLOAD (R172). -/
def execPload (o : OpC) (s : State) : Host.Outcome State Fault Refusal :=
  issued (fieldsC o) (needsP1 (irOf (.pload o))) [] s fun x s0 s1 =>
    let i := s0.cur
    let n := bits x.s2 0 3
    let slot := s0.slot i n
    let bound := isValid slot && s0.self.slotBound n
    let ends (t : State) (r : Nat) : Result := .ok (t.setSelf (t.self.setDst o.d (word r)))
    if o.s1 = .none then
      if s0.self.slotBound n then ends s1 9
      else ends (s1.storeTcm i (slotOffset n + 3) [slot.getD 3 0 &&& 0xFE]) 0
    else
      match s0.localTrap .load x.s1 encBytes 64 with
      | some t => .trap s0 t
      | none =>
        let enc := s0.loadLocal i x.s1 encBytes
        match refusal enc s0.self.chb bound with
        | some r => ends s1 r
        | none => ends (s1.storeTcm i (slotOffset n) (loadedSlot enc)) 0

end Sys2Proof.Machine
end

