-- ==== Sys2Proof/Machine/Messages.lean ====
section
/-! DEFINITION. What reaches a core over the network: messages and words (R145), credits (R142), close notices (R153),
hold and release notices (R174), the exchange that forms a connection (R160), and handovers (R149 to R151). -/
namespace Sys2Proof.Machine

/-! ## Finding where a packet belongs -/

/-- A packet in the network by number. -/
def State.packet? (s : State) (id : Nat) : Option Packet := s.net.find? fun p => p.id == id

/-- The network without a packet. -/
def State.dropPacket (s : State) (id : Nat) : State := { s with net := s.net.filter fun p => p.id != id }

/-- A packet leaves the network where it is read: its single-bit errors are corrected and counted in the sender's hall, or
in the receiver's (R398; log 118). -/
def State.takeOff (s : State) (p : Packet) : State :=
  let t := s.dropPacket p.id
  if p.soft.isEmpty then t
  else if p.origin < Config.coreCount then t.countErrors (hallOf p.origin) p.soft.length
  else if p.dst < Config.coreCount then t.countErrors (hallOf p.dst) p.soft.length
  else t

/-- The endpoint of a core that is bound to a channel at a number. -/
def Core.bound? (c : Core) (e chan : Nat) : Option Endpoint :=
  let x := c.ep e
  if x.binding = .user ∧ x.chan = chan ∧ x.mode ≠ .connecting ∧ x.mode ≠ .unbound then some x else none

/-- Whether a channel is not formed yet at its acceptor: the confirmation has not been taken (R160). -/
def Core.forming (c : Core) (e chan : Nat) : Bool :=
  (c.kept? e chan).any (fun k => k.pending.isSome) || (c.ep e).requests.any fun r => r.chan == chan && !r.confirmed

/-- The state with one kept buffer of a core changed. -/
def State.onKept (s : State) (i e chan : Nat) (f : KeptBuffer → KeptBuffer) : State :=
  s.onCore i fun c =>
    { c with kept := c.kept.map fun k => if k.ep = e ∧ k.chan = chan then f k else k }

/-- A packet's body passed on to another core and endpoint, from its own sender (R150). -/
def State.passOn (s : State) (dst : Nat × Nat) (p : Packet) : State := s.sendAs p.ttag dst.1 dst.2 p.chan p.origin p.cls p.body

/-! ## Placing and closing -/

/-- A message is placed in its slot (R145); its poison comes with it (R398). -/
def State.placeMsg (s : State) (i e : Nat) (m : Arrived) (bytes : List Byte) (poison : Bool) : State :=
  let ep := (s.core i).ep e
  let off := ep.slotAt (storedSlotSize (s.slot i ep.slot)) m.seq
  let t := s.storeTcm i off bytes
  let t := if poison then t.poisonRange (tcmKey i off) bytes.length else t
  t.onEp i e fun ep => { ep with arrived := ep.arrived ++ [m] }

/-- An endpoint enters CLOSED-AT with a notice's final number and close word (R153). -/
def State.closeAt (s : State) (i e final : Nat) (w : Word) : State :=
  s.onEp i e fun ep => { ep with mode := .closedAt, orderly := bits w 48 1 == 1, closeNote := some (final, w) }

/-! ## Handover (R149 to R151) -/

/-- The last number that the old holder waits for: the peer's answer, or what its close notice names. -/
def KeptBuffer.lastNo (k : KeptBuffer) : Option Nat :=
  match k.last, k.closeNote with
  | some n, _ => some n
  | none, some (f, _) => some ((f + 2 ^ 16 - 1) % 2 ^ 16)
  | none, none => none

/-- The new holder, where it is a core of this package, holds the endpoint no longer. -/
def State.letGo (s : State) (dst : Nat × Nat) (chan : Nat) : Bool :=
  decide (dst.1 < 2 ^ 24) && ((s.core dst.1).bound? dst.2 chan).isNone

/-- The new holder has a message already, or has delivered it, or holds the endpoint no longer. -/
def State.reached (s : State) (dst : Nat × Nat) (chan seq : Nat) : Bool :=
  match (s.core dst.1).bound? dst.2 chan with
  | none => s.letGo dst chan
  | some x =>
    let back := (x.rseq + 2 ^ 16 - seq) % 2 ^ 16
    x.arrived.any (fun m => m.seq == seq) || (decide (0 < back) && decide (back < 2 ^ 15))

/-- Whether every message up to the last one sent to the old holder has arrived there. -/
def State.allHere (s : State) (k : KeptBuffer) (dst : Nat × Nat) (x : Endpoint) (last : Nat) : Bool :=
  (List.range ((last + 1 + 2 ^ 16 - x.rseq) % 2 ^ 16)).all fun n =>
    let seq := (x.rseq + n) % 2 ^ 16
    k.msgs.any (fun m => m.1.seq == seq) || s.reached dst k.chan seq

/-- The messages of a kept buffer in number order from a number on (R149). -/
def KeptBuffer.inOrder (k : KeptBuffer) (x : Endpoint) : List (Arrived × List Byte × Bool) :=
  (List.range 1024).filterMap fun n => k.msgs.find? fun m => m.1.seq == (x.rseq + n) % 2 ^ 16

/-- Step 4 of R149: the buffered messages go to the new holder in number order, its endpoint is OPEN, the buffer is
freed; a close notice that came meanwhile follows. A holder in another package is told the same by messages. One that
holds the endpoint no longer discards what is passed (R426). -/
def State.passMsgs (s : State) (i : Nat) (k : KeptBuffer) (x0 : Endpoint) (dst : Nat × Nat) : State :=
  let t := s.onKept i k.ep k.chan fun k => { k with passed := true, len := 0, msgs := [] }
  if 2 ^ 24 ≤ dst.1 then
    let tell (t : State) (b : Body) : State := t.send dst.1 dst.2 k.chan i .o b
    let t := (k.inOrder x0).foldl (fun (t : State) m => tell t (.msg m.1.seq m.1.mt m.2.1 m.2.2 m.1.deleg)) t
    let t := tell t (.redirected (k.last.getD 0))
    match k.closeNote with
    | some (f, w) => (tell t (.close f w)).peerFailed i k.ep k.closedBy w
    | none => t
  else
    match (s.core dst.1).bound? dst.2 k.chan with
    | none => t.orphanAll i (k.msgs.map (·.1)) 0 false
    | some x =>
      let t := k.msgs.foldl (fun (t : State) m => t.placeMsg dst.1 dst.2 m.1 m.2.1 m.2.2) t
      let t := if x.mode = .handover then t.onEp dst.1 dst.2 fun ep => { ep with mode := .openM } else t
      match k.closeNote with
      | some (f, w) =>
        if x.mode = .closedAt then t else (t.closeAt dst.1 dst.2 f w).peerFailed dst.1 dst.2 k.closedBy w
      | none => t

/-- Pass the buffer of a handover if its time has come: every message up to the last has arrived, or the new holder holds
the endpoint no longer; nothing yet while the new holder is away (R407). -/
def State.tryPass (s : State) (i e chan : Nat) : Option State :=
  match (s.core i).kept? e chan with
  | none => some s
  | some k =>
    match k.desc, k.newHolder with
    | some x, some dst =>
      if k.passed ∨ !(s.letGo dst chan || k.lastNo.any (s.allHere k dst x)) then some s
      else if (s.core dst.1).diverts then none
      else some (s.passMsgs i k x dst)
    | _, _ => some s

/-- A message for an endpoint that was handed over: into the kept buffer, or on to the new holder (R149, R150). -/
def State.keepMsg (s : State) (i : Nat) (k : KeptBuffer) (x : Endpoint) (p : Packet) (m : Arrived) (bytes : List Byte)
    (poison : Bool) : Option State :=
  match k.passed, k.newHolder with
  | true, some dst => some (s.passOn dst p)
  | _, _ =>
    let off := x.slotAt k.size m.seq
    let t := if k.len = 0 then s else s.storeTcm i off bytes
    let t := t.onKept i k.ep k.chan fun k => { k with msgs := k.msgs ++ [(m, bytes, poison)] }
    t.tryPass i k.ep k.chan

/-- A message that no endpoint of core i takes is discarded; an endpoint that it carries closes (R151, R153), by the
failure of the core where its thread has ended (log 110). -/
def State.discard (s : State) (i : Nat) (m : Arrived) : State :=
  s.orphanAll i [m] 0 ((s.core i).thread != .running)

/-! ## Deliveries at a core -/

/-- A channel message reaches core i (R145). -/
def State.takeMessage (s : State) (i : Nat) (p : Packet) (m : Arrived) (bytes : List Byte) (poison : Bool) :
    Option State :=
  let c := s.core i
  match c.bound? p.ep p.chan, c.kept? p.ep p.chan with
  | some _, _ => some (s.placeMsg i p.ep m bytes poison)
  | none, some k =>
    match k.pending, k.desc with
    | some _, _ => none
    | none, some x => if k.failedWith.isSome then some (s.discard i m) else s.keepMsg i k x p m bytes poison
    | none, none => some (s.discard i m)
  | none, none => if c.forming p.ep p.chan then none else some (s.discard i m)

/-- A credit reaches core i (R142). -/
def State.takeCredit (s : State) (i : Nat) (p : Packet) : Option State :=
  let c := s.core i
  match c.bound? p.ep p.chan, c.kept? p.ep p.chan with
  | some _, _ => some (s.onEp i p.ep fun ep => { ep with credit := ep.credit - 1 })
  | none, some k =>
    if k.pending.isSome then none
    else
      match k.newHolder with
      | some dst => some (s.passOn dst p)
      | none => some (s.onKept i k.ep k.chan fun k => { k with credits := k.credits + 1 })
  | none, none => if c.forming p.ep p.chan then none else some s

/-- A close notice reaches core i (R153). At an adopted endpoint whose old holder failed, what has arrived so far is
delivered before it (R151). -/
def State.takeClose (s : State) (i : Nat) (p : Packet) (final : Nat) (w : Word) : Option State :=
  let c := s.core i
  match c.bound? p.ep p.chan, c.kept? p.ep p.chan with
  | some x, _ =>
    let f := if x.mode = .handover ∧ p.src ≠ x.peer then (x.rseq + x.available 1024 x.rseq) % 2 ^ 16 else final
    some ((if x.mode = .closedAt then s else s.closeAt i p.ep f w).peerFailed i p.ep p.src w)
  | none, some k =>
    match k.pending, k.desc, k.newHolder with
    | some _, _, _ => none
    | none, none, _ => some ((s.onCore i fun c => c.dropKept k.ep k.chan).peerFailed i p.ep p.src w)
    | none, some _, some dst =>
      if k.passed then some (s.passOn dst p)
      else (s.onKept i k.ep k.chan fun k => { k with closeNote := some (final, w), closedBy := p.src }).tryPass i k.ep k.chan
    | none, some _, none =>
      some (s.onKept i k.ep k.chan fun k => { k with closeNote := some (final, w), closedBy := p.src })
  | none, none => if c.forming p.ep p.chan then none else some (s.peerFailed i p.ep p.src w)

/-- An old holder learns that nobody adopts its endpoint (R151). -/
def State.takeUnadopted (s : State) (i : Nat) (p : Packet) (cause : Nat) (failed : Bool) : State :=
  match (s.core i).kept? p.ep p.chan with
  | some k =>
    match k.desc with
    | some x =>
      s.orphan i
        { desc := x.words, chan := k.chan, peerPkg := x.peerPkg, enc := (s.slot i x.slot).take encBytes, holder := i,
          holderEp := k.ep } cause failed
    | none => s
  | none => s

/-- A hold or release notice reaches core i (R174). -/
def State.takeHold (s : State) (i : Nat) (p : Packet) (on : Bool) : Option State :=
  let c := s.core i
  let mark (s : State) := s.onEp i p.ep fun ep => { ep with peerHeld := on }
  if p.chan = 0 then some (if (c.ep p.ep).binding = .link then mark s else s)
  else
    match c.bound? p.ep p.chan, c.kept? p.ep p.chan with
    | some _, _ => some (mark s)
    | none, some k =>
      match k.newHolder with
      | some dst => some (s.passOn dst p)
      | none => some (s.onKept i k.ep k.chan fun k => { k with desc := k.desc.map fun x => { x with peerHeld := on } })
    | none, none => some s

/-- A CONNECT in progress faults or is bound by the acceptor's answer (R160, R161). Its wait holds the endpoint, the
connect word and two registers at their last use. -/
def State.takeAnswer (s : State) (i : Nat) (p : Packet) (status ep : Nat) : Option State :=
  let c := s.core i
  let x := c.ep p.ep
  if c.connecting? ≠ some p.chan ∨ x.mode ≠ .connecting ∨ x.chan ≠ p.chan then
    some (if status = stOk then s.send p.origin ep p.chan i .o .withdraw else s)
  else
    let args := match c.wait with
      | some w => w.args
      | none => []
    let fault (t : State) (st : Nat) :=
      (t.onEp i p.ep fun y => y.unboundAt p.ep).takeTrap i (connectTrap st (word ((args[1]?).getD 0)))
    if status ≠ stOk then some (fault s status)
    else
      match s.reserve i (s.slot i x.slot) with
      | none => some (fault (s.sendPeer i p.ep .o .withdraw) 0x0C)
      | some (b, n) =>
        let t := s.openEp i p.ep x.slot x.peer x.peerEp x.peerPkg p.chan b n
        let t := if nodeKind x.peer = 0 then t.sendPeer i p.ep .o .confirm else t
        let t := t.onCore i fun c => (c.freeCode ((args[2]?).getD 0xFF)).freeCode ((args[3]?).getD 0xFF)
        some (t.finishWait i (nextAddr c.pc))

/-- The connector's confirmation reaches the acceptor, which binds (R160); an ACCEPT that was withdrawn after it had
answered finds the request confirmed when it executes again. -/
def State.takeConfirm (s : State) (i : Nat) (p : Packet) : Option State :=
  let c := s.core i
  match c.kept? p.ep p.chan with
  | some k =>
    match k.pending, c.wait with
    | some r, some w =>
      if c.accepting? ≠ some p.chan then some s
      else
        let slot := (w.args[2]?).getD 0
        let size := storedSlotSize (s.slot i slot)
        let n := if size = 0 then 0 else k.len / size
        let t := (s.onCore i fun c => c.dropKept p.ep p.chan).openEp i p.ep slot r.node r.ep (s.placeOf r.core).1 r.chan
          (if k.len = 0 then 0 else k.base / 32) n
        let t := t.onCore i fun c =>
          (c.freeCode ((w.args[3]?).getD 0xFF)).setCode ((w.args[1]?).getD 0xFF) (s.requestWord i r)
        some (t.finishWait i (nextAddr c.pc))
    | _, _ => some s
  | none =>
    some (s.onEp i p.ep fun x =>
      { x with requests := x.requests.map fun r => if r.chan = p.chan then { r with confirmed := true } else r })

/-- A withdrawal reaches the acceptor (R160): its reservation is freed and its wait goes on, or the held request is gone. -/
def State.takeWithdraw (s : State) (i : Nat) (p : Packet) : Option State :=
  let c := s.core i
  let asked (q : Packet) : Bool := q.chan == p.chan && (match q.body with
    | .request _ => true
    | _ => false)
  if s.net.any asked then none
  else
    let t := (s.onCore i fun c => c.dropKept p.ep p.chan).onEp i p.ep fun x =>
      { x with requests := x.requests.filter fun r => r.chan != p.chan }
    some (if c.accepting? = some p.chan then
        t.onCore i fun c => { c with wait := c.wait.map fun w => { w with counting := true, stage := .plain } }
      else t)

/-- The new holder's notice reaches the old one, which redirects the peer (R149). -/
def State.takeAdopted (s : State) (i : Nat) (p : Packet) (dst : Nat × Nat) : Option State :=
  match (s.core i).kept? p.ep p.chan with
  | none => some s
  | some k =>
    match k.failedWith, k.desc with
    | some w, _ =>
      some ((s.onCore i fun c => c.dropKept p.ep p.chan).send dst.1 dst.2 p.chan i .o (.close 0 w))
    | none, none => some s
    | none, some x =>
      let t := s.onKept i k.ep k.chan fun k => { k with newHolder := some dst, credits := 0 }
      let t := (List.range k.credits).foldl (fun (t : State) _ => t.send dst.1 dst.2 p.chan i .o .credit) t
      let t := if x.peerHeld then t.send dst.1 dst.2 p.chan i .o .hold else t
      let t := match k.moved with
        | some (n, e) => t.send dst.1 dst.2 p.chan i .o (.redirect n e)
        | none => t
      let t := if k.closeNote.isSome then t
        else t.send (s.route i x) x.peerEp x.chan i .o (.redirect dst.1 dst.2)
      t.tryPass i k.ep k.chan

/-- The answer to a redirect, to the old holder's node and endpoint (R149). -/
def State.answerRedirect (s : State) (i : Nat) (x : Endpoint) : State :=
  s.send (s.route i x) x.peerEp x.chan i .o (.redirected ((x.sseq + 2 ^ 16 - 1) % 2 ^ 16))

/-- A redirect reaches the peer (R149), or the old holder of the peer's own handover (R150). -/
def State.takeRedirect (s : State) (i : Nat) (p : Packet) (dst : Nat × Nat) : Option State :=
  let c := s.core i
  let moved (x : Endpoint) : Endpoint := { x with peer := (s.placeOf dst.1).2, peerPkg := (s.placeOf dst.1).1, peerEp := dst.2 }
  match c.bound? p.ep p.chan, c.kept? p.ep p.chan with
  | some x, _ => some ((s.answerRedirect i x).onEp i p.ep moved)
  | none, some k =>
    match k.desc, k.newHolder with
    | some _, some next => some (s.passOn next p)
    | some x, none =>
      some ((s.answerRedirect i x).onKept i k.ep k.chan fun k => { k with desc := some (moved x), moved := some dst })
    | none, _ => some s
  | none, none => some s

/-- The peer's answer reaches the old holder (R149); or the end of step 4 reaches a new holder whose old one is in
another package. -/
def State.takeRedirected (s : State) (i : Nat) (p : Packet) (last : Nat) : Option State :=
  match (s.core i).kept? p.ep p.chan with
  | none =>
    some (if (((s.core i).bound? p.ep p.chan).map (·.mode)) = some .handover then
        s.onEp i p.ep fun x => { x with mode := .openM }
      else s)
  | some k =>
    if k.passed ∨ k.failedWith.isSome then some s
    else (s.onKept i k.ep k.chan fun k => { k with last := some last }).tryPass i k.ep k.chan

/-- What a packet does at the core that it reaches; nothing where it has to wait for another step. -/
def State.deliver (s : State) (i : Nat) (p : Packet) : Option State :=
  match p.body with
  | .msg seq mt bs poison d => s.takeMessage i p { seq := seq, mt := mt, deleg := d } bs poison
  | .word w => some (s.onEp i p.ep fun ep => { ep with linkIn := ep.linkIn ++ [w] })
  | .credit => s.takeCredit i p
  | .close f w => s.takeClose i p f w
  | .unadopted cause failed => some (s.takeUnadopted i p cause failed)
  | .hold => s.takeHold i p true
  | .release => s.takeHold i p false
  | .request r => some (s.onEp i p.ep fun ep => { ep with requests := ep.requests ++ [r] })
  | .answer st _ ep => s.takeAnswer i p st ep
  | .confirm => s.takeConfirm i p
  | .withdraw => s.takeWithdraw i p
  | .adopted c e => s.takeAdopted i p (c, e)
  | .redirect c e => s.takeRedirect i p (c, e)
  | .redirected n => s.takeRedirected i p n
  | .contribution _ _ _ _ _ _ _ _ => some s
  | .result r => some (s.onCore i fun c => { c with results := c.results ++ [r] })

/-! ## Through the routers and the gateways -/

/-- A channel by the package that formed it and its number there: this package's own numbers are below 2^64. -/
def State.farChan (s : State) (chan : Nat) : Nat × Nat :=
  if chan < 2 ^ 64 then (s.board.peer, chan) else (chan / 2 ^ 64 - 1, chan % 2 ^ 64)

/-- The number here of a channel. -/
def State.nearChan (s : State) (c : Nat × Nat) : Nat :=
  if c.1 = s.board.peer then c.2 % 2 ^ 64 else (c.1 + 1) * 2 ^ 64 + c.2 % 2 ^ 64

/-- A delegated endpoint as another package is told of it (R149). -/
def State.farDeleg (s : State) (d : Delegation) : FarDeleg :=
  { desc := d.desc, peerPkg := d.peerPkg, enc := d.enc, pkg := (s.placeOf d.holder).1, node := (s.placeOf d.holder).2,
    ep := d.holderEp, chan := s.farChan d.chan }

/-- A body as it leaves for another package; LINK words and the tree's messages stay inside. -/
def State.farBody (s : State) : Body → Option FarBody
  | .msg seq mt bs poison d => some (.msg seq mt bs poison (d.map s.farDeleg))
  | .credit => some .credit
  | .close f w => some (.close f w)
  | .unadopted cause failed => some (.unadopted cause failed)
  | .hold => some .hold
  | .release => some .release
  | .request r => some (.request r.ep r.slot r.enc)
  | .answer st node ep => some (.answer st node ep)
  | .confirm => some .confirm
  | .withdraw => some .withdraw
  | .adopted _ e => some (.adopted e)
  | .redirect c e => some (.redirect (s.placeOf c).1 (s.placeOf c).2 e)
  | .redirected n => some (.redirected n)
  | .word _ | .contribution _ _ _ _ _ _ _ _ | .result _ => none

/-- A message for another package leaves through its gateway (R129). -/
def State.depart (s : State) (p : Packet) : State :=
  match s.farBody p.body with
  | some b => s.leave (s.placeOf p.dst).1 (s.transfer p.ttag p.origin p.cls (.message (s.placeOf p.dst).2 p.ep (s.farChan p.chan) b))
  | none => s

/-- 64-byte units that a body moves. -/
def Body.units : Body → Nat
  | .msg _ _ bs _ _ => unitsOf bs.length
  | _ => 1

/-- The routers that a packet enters from below: none on a lattice port, on the tree of reductions, from an interface, or
from another package. -/
def State.packetWay (s : State) (p : Packet) : List Nat :=
  let tree : Bool := match p.body with
    | .contribution _ _ _ _ _ _ _ _ | .result _ => true
    | _ => false
  if Config.coreCount ≤ p.origin ∨ 16 ≤ p.ep ∨ tree then []
  else s.climbs p.origin p.id p.dst p.cls p.body.units

/-- A packet on its way through the routers (R375, R376): whether it has come through, and the state, in which it waits at
an exhausted counter. -/
def State.routed (s : State) (p : Packet) : Bool × State :=
  match s.comesThrough (s.pnum p.origin) p.cls (s.packetWay p) p.paid (.packet p.id) with
  | (ok, paid, t) =>
    (ok, if ok then t else { t with net := t.net.map fun q => if q.id = p.id then { q with paid := paid } else q })

/-- A packet whose body a row takes arrives at its core: diverted there (R407), or delivered; one for another package
leaves. Packets between two endpoints that must keep their order wait for the earlier one. -/
def State.arrive (s : State) (id : Nat) (mine : Body → Bool) (ordered : Bool) : State :=
  match s.packet? id with
  | none => s
  | some p =>
    let before (q : Packet) : Bool := q.dst == p.dst && q.ep == p.ep && q.src == p.src && q.chan == p.chan
      && mine q.body && decide (q.id < p.id)
    if (Config.coreCount ≤ p.dst ∧ p.dst < 2 ^ 24) ∨ !mine p.body ∨ (ordered ∧ s.net.any before) then s
    else
      match s.routed p with
      | (false, u) => u
      | (true, u) =>
        let t := u.takeOff p
        if 2 ^ 24 ≤ p.dst then t.depart p
        else if (s.core p.dst).diverts then (t.divert p.dst (.packet p)).getD s
        else (t.deliver p.dst p).getD s

/-! ## The events -/

/-- A message or a LINK word. -/
def Body.isWord : Body → Bool
  | .word _ => true
  | _ => false

/-- A channel message. -/
def Body.isMsg : Body → Bool
  | .msg _ _ _ _ _ => true
  | _ => false

/-- A hold or release notice. -/
def Body.isHold : Body → Bool
  | .hold | .release => true
  | _ => false

end Sys2Proof.Machine
end

