-- ==== Sys2Proof/Machine/SysRegs.lean ====
section
/-! DEFINITION. The control registers (R34, R35): their access, fields and illegal values, CRD and CWR (R90, R91) and
GUARD (R384). -/
namespace Sys2Proof.Machine

/-- The value of a control register by number (R34). -/
def Core.cr (c : Core) (n : Nat) : Word :=
  match n with
  | 0x000 => c.kcore
  | 0x001 => c.kstatus
  | 0x002 => c.kcause
  | 0x003 => c.ktval
  | 0x004 => c.kvec
  | 0x005 => c.kepc
  | 0x006 => c.kpriv
  | 0x008 => c.kcoord
  | 0x009 => c.kgroup
  | 0x00A => c.kstair
  | 0x018 => c.ktick
  | 0x019 => c.kwdog
  | 0x01A => c.kwait
  | 0x01C => c.kfp
  | 0x030 => c.kspill
  | 0x031 => c.ksave
  | _ =>
    if 0x010 ≤ n ∧ n ≤ 0x013 then c.kdom[n - 0x010]!
    else if 0x020 ≤ n ∧ n ≤ 0x02F then c.kev[n - 0x020]!
    else if 0x038 ≤ n ∧ n ≤ 0x03F then c.kguard[n - 0x038]!
    else 0

/-- The core with a control register replaced. -/
def Core.setCr (c : Core) (n : Nat) (x : Word) : Core :=
  match n with
  | 0x000 => { c with kcore := x }
  | 0x001 => { c with kstatus := x }
  | 0x002 => { c with kcause := x }
  | 0x003 => { c with ktval := x }
  | 0x004 => { c with kvec := x }
  | 0x005 => { c with kepc := x }
  | 0x006 => { c with kpriv := x }
  | 0x008 => { c with kcoord := x }
  | 0x009 => { c with kgroup := x }
  | 0x00A => { c with kstair := x }
  | 0x018 => { c with ktick := x }
  | 0x019 => { c with kwdog := x }
  | 0x01A => { c with kwait := x }
  | 0x01C => { c with kfp := x }
  | 0x030 => { c with kspill := x }
  | 0x031 => { c with ksave := x }
  | _ =>
    if 0x010 ≤ n ∧ n ≤ 0x013 then { c with kdom := c.kdom.set! (n - 0x010) x }
    else if 0x020 ≤ n ∧ n ≤ 0x02F then { c with kev := c.kev.set! (n - 0x020) x }
    else if 0x038 ≤ n ∧ n ≤ 0x03F then { c with kguard := c.kguard.set! (n - 0x038) x }
    else c

/-- The level from which a control register may be read (R34). -/
def crReadLevel (n : Nat) : Nat :=
  if (1 ≤ n ∧ n ≤ 5) ∨ n = 0x031 ∨ 0x038 ≤ n then 1 else 0

/-- Bits hi:lo set. -/
def maskOf (hi lo : Nat) : Word := word ((2 ^ (hi + 1 - lo) - 1) * 2 ^ lo)

/-- The rectangle fields of kgroup and kdom (R35). -/
def rectMask : Word := maskOf 57 48 ||| maskOf 41 32 ||| maskOf 25 16 ||| maskOf 9 0

/-- The fields of a control register that a level may write (R34, R35). -/
def crWriteMask (n level : Nat) : Word :=
  let p1 (m : Word) : Word := if 1 ≤ level then m else 0
  match n with
  | 0x000 => if 1 ≤ level then maskOf 2 0 else maskOf 2 2
  | 0x001 => p1 (maskOf 3 0)
  | 0x002 => p1 (maskOf 15 0)
  | 0x003 => p1 (maskOf 63 0)
  | 0x004 => p1 (maskOf 63 6)
  | 0x005 => p1 (maskOf 63 0)
  | 0x006 => p1 (maskOf 8 8)
  | 0x018 => if level = 2 then maskOf 63 0 else 0
  | 0x019 => p1 (maskOf 63 63 ||| maskOf 31 0)
  | 0x01A => maskOf 31 0
  | 0x01C => maskOf 2 0
  | 0x030 => p1 (maskOf 41 32 ||| maskOf 16 0)
  | 0x031 => p1 (maskOf 63 8)
  | _ =>
    if 0x010 ≤ n ∧ n ≤ 0x013 then p1 (maskOf 63 63 ||| rectMask)
    else if 0x020 ≤ n ∧ n ≤ 0x02F then maskOf 31 0
    else if 0x038 ≤ n ∧ n ≤ 0x03F then p1 (maskOf 63 60 ||| maskOf 31 0)
    else 0

/-- X0, Y0, X1, Y1 of a rectangle word (R35). -/
def rectOf (w : Word) : Nat × Nat × Nat × Nat := (bits w 0 10, bits w 16 10, bits w 32 10, bits w 48 10)

/-- A rectangle word of corners (R35). -/
def rectWord (x0 y0 x1 y1 : Nat) : Word := word (y1 * 2 ^ 48 + x1 * 2 ^ 32 + y0 * 2 ^ 16 + x0)

/-- A rectangle lies inside another. -/
def rectInside (a b : Word) : Bool :=
  let (x0, y0, x1, y1) := rectOf a
  let (u0, v0, u1, v1) := rectOf b
  decide (u0 ≤ x0) && decide (x1 ≤ u1) && decide (v0 ≤ y0) && decide (y1 ≤ v1)

/-- A rectangle that R35 calls illegal for a core at (x, y). -/
def rectBad (w : Word) (x y : Nat) : Bool :=
  let (x0, y0, x1, y1) := rectOf w
  decide (x1 < x0) || decide (y1 < y0) || (x1 + 1 - x0) % 4 != 0 || (y1 + 1 - y0) % 4 != 0
    || !(decide (x0 ≤ x) && decide (x ≤ x1) && decide (y0 ≤ y) && decide (y ≤ y1))

/-- Whether the rectangles of kgroup and the valid kdom registers break R35. -/
def Core.domsBad (c : Core) : Bool :=
  let x := bits c.kcoord 0 10
  let y := bits c.kcoord 16 10
  let v (i : Nat) : Bool := bits c.kdom[i]! 63 1 == 1
  (List.range 4).any fun i =>
    v i && (rectBad c.kdom[i]! x y || (i != 0 && !v (i - 1))
      || !rectInside c.kdom[i]! (if i = 0 then c.kgroup else c.kdom[i - 1]!))

/-- Whether a control register would hold a value that R35 calls illegal. -/
def Core.crIllegal (c : Core) (n : Nat) (x : Word) : Bool :=
  match n with
  | 0x001 => bits x 0 2 == 3
  | 0x005 => bits x 3 3 != 0 || decide (4 < bits x 0 3)
  | 0x01A => bits x 0 32 == 0 || (bits x 0 32 == 0xFFFFFFFF && c.level == 0)
  | 0x01C => decide (5 ≤ bits x 0 3)
  | 0x030 =>
    decide (512 < bits x 32 10) || bits x 0 6 != 0
      || (x != 0 && decide (0x1F000 - c.chb < bits x 0 17 + 256 + 32 * bits x 32 10))
  | _ => if 0x010 ≤ n ∧ n ≤ 0x013 then (c.setCr n x).domsBad else false

/-- The value that a register holds after a CWR (R34): fields above the level keep theirs. -/
def Core.crNew (c : Core) (n : Nat) (x : Word) : Word :=
  let m := crWriteMask n c.level
  (c.cr n &&& ~~~m) ||| (x &&& m)

/-- The privilege trap of CRD (R34). -/
def crdPriv (ir : Word) (n : Nat) (c : Core) : Option Trap :=
  if c.level < crReadLevel n then some (privTrap ir 0x03) else none

/-- The privilege trap of CWR (R34). -/
def cwrPriv (ir : Word) (n : Nat) (c : Core) : Option Trap :=
  if crWriteMask n c.level = 0 then some (privTrap ir 0x03) else none

/-- CRD (R90). -/
def execCrd (o : OpA) (s : State) : Host.Outcome State Fault Refusal :=
  issued (fieldsA o) (crdPriv (irOf (.crd o)) o.imm.toNat) [] s fun _ s0 s1 =>
    .ok (s1.setSelf (s1.self.setDst o.d (s0.self.cr o.imm.toNat)))

/-- Writing kspill while registers are parked leaves their PARK and UNPARK undefined (R32). -/
def State.spillChanged (s t : State) (n : Nat) : State :=
  if n = 0x030 ∧ s.self.kspill ≠ t.self.kspill then
    t.setSelf { t.self with parkUndef := (t.self.parkUndef ++ s.parkedList s.cur).eraseDups }
  else t

/-- CWR (R91). -/
def execCwr (o : OpA) (s : State) : Host.Outcome State Fault Refusal :=
  let n := o.imm.toNat
  let ir := irOf (.cwr o)
  issued (fieldsA o) (cwrPriv ir n) [] s fun x s0 s1 =>
    let v := s0.self.crNew n x.s1
    if s0.self.crIllegal n v then .trap s0 { cls := 0x01, detail := 0x0B, tval := ir }
    else .ok (s0.spillChanged (s1.setSelf (s1.self.setCr n v)) n)

/-- Whether a new guard region narrows an old one (R384). -/
def narrows (new old : Word) : Bool :=
  decide (bits new 63 1 ≤ bits old 63 1) && decide (bits new 62 1 ≤ bits old 62 1)
    && decide (bits new 61 1 ≤ bits old 61 1) && bits new 32 28 == 0
    && (bits new 63 1 == 0 || bits new 16 16 == 0
        || (bits new 60 1 == bits old 60 1 && decide (bits old 0 16 ≤ bits new 0 16)
            && decide (bits new 0 16 + bits new 16 16 ≤ bits old 0 16 + bits old 16 16)))

/-- GUARD (R384): the effect of CWR at P1 and P2; at P0 the region may only narrow. -/
def execGuard (o : OpA) (s : State) : Host.Outcome State Fault Refusal :=
  let n := 0x038 + o.imm.toNat
  issued (fieldsA o) anyLevel [] s fun x s0 s1 =>
    let old := s0.self.cr n
    if s0.self.level = 0 ∧ !narrows x.s1 old then .trap s0 (guardTrap 0x0E x.s1)
    else
      let v := x.s1 &&& (maskOf 63 60 ||| maskOf 31 0)
      .ok (s1.setSelf ((s1.self.setCr n v).setDst o.d old))

end Sys2Proof.Machine
end

