-- ==== Sys2Proof/Machine/Tasks.lean ====
section
/-! DEFINITION. A group's task queue (R335 to R337), SPAWN, TAKE, JOIN and DONE (R339 to R343), WDOG (R350), YIELD
(R351) and EXIT (R330). -/
namespace Sys2Proof.Machine

/-! ## Groups and their queues -/

/-- The group of a core, with its partition (R328). -/
def State.groupOf? (s : State) (i : Nat) : Option (Nat × Partition × Group) :=
  match s.partOf? i with
  | some (n, p) =>
    match p.groups.find? fun g => g.id == (s.core i).group with
    | some g => some (n, p, g)
    | none => none
  | none => none

/-- The partition with one group changed. -/
def Partition.onGroup (p : Partition) (id : Nat) (f : Group → Group) : Partition :=
  { p with groups := p.groups.map fun g => if g.id = id then f g else g }

/-- The state with a group's task queue replaced. -/
def State.setQueue (s : State) (pnum id : Nat) (q : TaskQueue) : State :=
  match s.part? pnum with
  | some p => s.setPart pnum (p.onGroup id fun g => { g with queue := q })
  | none => s

/-- The address of a slot of a group's ring (R335). -/
def Group.slotAt (g : Group) (p : Partition) (n : Nat) : Word :=
  p.ringBase + word (0x8000 * clusterIndex g.x0 g.y0 + 32 * (n % 1024))

/-- The cores of a group, by physical index. -/
def Group.cores (g : Group) (p : Partition) : List Nat :=
  ((List.range g.h).map fun y =>
    (List.range g.w).map fun x => (64 * p.hy0 + g.y0 + y) * 1024 + 64 * p.hx0 + g.x0 + x).flatten

/-- The access to a ring that a core's instruction has sent (R337). -/
def Core.ringAccess (c : Core) : Option Nat :=
  match c.wait with
  | some w =>
    match w.stage with
    | .ring id => some id
    | _ => none
  | none => none

/-- Whether an access to the ring of a queue is under way: accesses to one ring follow one another. -/
def State.ringBusy (s : State) (cores : List (Nat × Core)) (i base len : Nat) : Bool :=
  cores.any fun c => c.1 != i
    && (match c.2.ringAccess with
        | some id =>
          match s.access? id with
          | some a => decide (base ≤ a.addr.toNat) && decide (a.addr.toNat < base + len)
          | none => false
        | none => false)

/-- Whether the ring of a group is in use by a core other than i. -/
def State.groupBusy (s : State) (i : Nat) (p : Partition) (g : Group) : Bool :=
  s.ringBusy s.cores i (g.slotAt p 0).toNat 0x8000

/-- Whether the notice ring is in use by a core other than i, or by the hardware that posts (R346). -/
def State.noticeBusy (s : State) (i pnum : Nat) (p : Partition) : Bool :=
  s.ringBusy s.cores i (noticeSlot p 0).toNat 0x200000 || s.flight.any fun a => a.core == partSource pnum

/-- The queue-fault trap (R343). -/
def queueFault (d : Nat) (a : Word) : Trap := { cls := 0x0B, detail := d, tval := a }

/-- The queue-fault trap of a ring access that ended with a status (R337, R343). -/
def ringFault (status : Nat) (a : Word) : Trap :=
  queueFault (if status = stUnresolved then 0x02 else if status = stPoison then 0x03 else 0x04) a

/-- A hall scheduler's access to a ring, for an instruction of core i (R336). -/
def State.ringSend (s : State) (i : Nat) (a : Word) (k : AccKind) : State :=
  s.launchAccess { id := 0, core := i, cls := .o, addr := a, kind := k, posted := false, stream := false }

/-! ## The hold of SPAWN, JOIN and DONE -/

/-- The accesses of a core's ordinary stream that a hold toward the agents of a scope awaits (R212, R213). -/
def State.pendToward (s : State) (i : Nat) (scope : Option Word) : List Nat :=
  ((s.pending i).filter fun a => a.target.all fun t => s.inScope scope t.1 t.2).map (·.id)

/-- The core's entries drain, and the instruction waits until every earlier access of its ordinary stream is
acknowledged, in every class, toward a scope, which is the system without one (R339, R341, R342, R344), and its contexts
have reached some timelines. -/
def releasing (w : Wait) (tls : List Nat) (s0 s1 : State) (k : State → Result) (scope : Option Word := none) : Result :=
  let i := s0.cur
  let d := s0.drainOwn i fun _ => true
  let (ids, tls) := (s0.self.fenceStage).getD (d.pendToward i scope, tls)
  if d.allAcked i ids && (tls.zipIdx.all fun t => decide (t.1 ≤ s0.self.tl[t.2]!)) then k (s1.drainOwn i fun _ => true)
  else .wait d { w with stage := .fence ids tls }

/-! ## SPAWN (R339) -/

/-- A task record that SPAWN refuses. -/
def TaskRec.malformed (r : TaskRec) : Bool :=
  bits r.w3 32 32 != 0 || bits r.w0 3 3 != 0 || decide (4 < bits r.w0 0 3)

/-- The record that a SPAWN in its hold has read. -/
def Core.spawned? (c : Core) : Option TaskRec :=
  match c.wait with
  | some w =>
    match w.args with
    | [a, b, d, e] => some { w0 := word a, w1 := word b, w2 := word d, w3 := word e }
    | _ => none
  | none => none

/-- A SPAWN that pushed its record completes. -/
def spawnDone (o : OpA) (r : Nat) (t : State) : Result :=
  let t := t.countSent t.cur
  .ok (t.setSelf (t.self.setDst o.d (word r)))

/-- A SPAWN whose ring write was sent (R337). -/
def spawnRing (o : OpA) (id : Nat) (s0 s1 : State) : Result :=
  let i := s0.cur
  let w : Wait := { detail := 0x30, left := s0.self.waitLeft o.imm, counting := false, stage := .ring id }
  match s0.access? id, s0.groupOf? i with
  | some a, some (n, p, g) =>
    match a.phase with
    | .returned st _ =>
      if st = stOk then
        spawnDone o 1 ((s1.dropAccess id).setQueue n g.id { g.queue with tail := g.queue.tail + 1 })
      else .trap (s0.dropAccess id) (ringFault st (g.slotAt p g.queue.tail.toNat))
    | _ => .wait s0 w
  | _, _ => .wait s0 w

/-- The push of a record after the hold (R336, R339). -/
def spawnPush (o : OpA) (r : TaskRec) (w : Wait) (s0 s1 : State) : Result :=
  let i := s0.cur
  match s0.groupOf? i with
  | none => .trap s0 (queueFault 0x01 0)
  | some (n, p, g) =>
    let q := g.queue
    let hall := hallOf i
    if (q.seg hall).length < segmentSize then
      spawnDone o 0 (s1.setQueue n g.id (q.setSeg hall (q.seg hall ++ [r])))
    else if s0.groupBusy i p g then .wait s0 { w with stage := .fence [] [] }
    else if q.inRing < 1024 then
      .wait (s0.ringSend i (g.slotAt p q.tail.toNat) (.store (r.toBytes.mapIdx fun k b => (k, b))))
        { w with counting := false, stage := .ring s0.fresh }
    else .trap s0 (queueFault 0x01 (g.slotAt p q.tail.toNat))

/-- SPAWN from its record on. -/
def spawnHold (o : OpA) (r : TaskRec) (s0 s1 : State) : Result :=
  let w : Wait := { detail := 0x30, left := s0.self.waitLeft o.imm,
                    args := [r.w0.toNat, r.w1.toNat, r.w2.toNat, r.w3.toNat] }
  releasing w [] s0 s1 fun t => spawnPush o r w s0 t

/-- SPAWN (R339). -/
def execSpawn (o : OpA) (s : State) : Host.Outcome State Fault Refusal :=
  issued (fieldsA o) (limitPriv (irOf (.spawn o)) o.imm) [] s fun x s0 s1 =>
    match s0.self.ringAccess, s0.self.spawned? with
    | some id, _ => spawnRing o id s0 s1
    | none, some r => spawnHold o r s0 s1
    | none, none =>
      match s0.localTrap .load x.s1 32 32 with
      | some t => .trap s0 t
      | none =>
        let r := taskRecOf (s0.loadLocal s0.cur x.s1 32)
        let k := localKey s0.cur x.s1
        if r.malformed then .trap s0 (queueFault 0x06 x.s1) else spawnHold o r (s0.correct k 32) (s1.correct k 32)

/-! ## TAKE (R340) -/

/-- Where a pop finds a record (R336). -/
inductive Pop where
  | empty
  /-- in a segment: the record and the queue without it -/
  | got (r : TaskRec) (q : TaskQueue)
  /-- at HEAD of the ring -/
  | ring
  deriving DecidableEq, Repr

/-- The first non-empty part of a queue, from a hall. -/
def TaskQueue.pop (q : TaskQueue) (hall : Nat) : Pop :=
  match q.seg hall with
  | r :: l => .got r (q.setSeg hall l)
  | [] =>
    if q.inRing ≠ 0 then .ring
    else
      match q.segs.find? fun x => !x.2.isEmpty with
      | some (h, r :: l) => .got r (q.setSeg h l)
      | _ => .empty

/-- The state with the notice queue of a partition replaced. -/
def State.setNotices (s : State) (pnum : Nat) (q : TaskQueue) : State :=
  match s.part? pnum with
  | some p => s.setPart pnum { p with notices := q }
  | none => s

/-- The four registers that a TAKE writes. -/
def Core.setFour (c : Core) (d : Opnd) (a b e f : Word) : Core :=
  (((c.setDst d a).setDst (nextReg d) b).setDst (nextReg (nextReg d)) e).setDst (nextReg (nextReg (nextReg d))) f

/-- A notice record popped on t. -/
def takeNotice (o : OpA) (r : TaskRec) (t : State) : Result :=
  let t := t.countRcvd t.cur
  .ok (t.setSelf (t.self.setFour o.d r.w0 r.w1 r.w2 r.w3))

/-- A task record claimed by a pop, which `pop` makes: the registers, then the branch (R340). While the line of the target
is fetched the record is claimed and the registers are written already; the sources' last uses come with the branch. -/
def takeTask (o : OpA) (r : TaskRec) (w : Wait) (pop : State → State) (s0 s1 : State) : Result :=
  let write (t : State) : State :=
    let t := (pop t).countRcvd t.cur
    t.setSelf (t.self.setFour o.d r.w1 r.w2 (word (bits r.w3 0 32)) (nextAddr s0.self.pc))
  match s0.checkTarget r.w0 with
  | .good => .jump (write s1) r.w0
  | .bad x => .trap (write s1) { x with epc := some r.w0 }
  | .fills u => .wait (write u) { w with counting := false, stage := .branching r.w0 }

/-- The target of a TAKE that has its record, where it waits for the target's line. -/
def Core.branching? (c : Core) : Option Word :=
  match c.wait with
  | some w =>
    match w.stage with
    | .branching code => some code
    | _ => none
  | none => none

/-- A TAKE goes on to the target of the record that it has claimed (R340). -/
def takeBranch (o : OpA) (code : Word) (s0 s1 : State) : Result :=
  let r (k : Nat) : Word :=
    let d := if k = 0 then o.d else if k = 1 then nextReg o.d else if k = 2 then nextReg (nextReg o.d)
      else nextReg (nextReg (nextReg o.d))
    s0.self.srcWord s0.free (20 + k) d 0
  let t := s1.setSelf (s1.self.setFour o.d (r 0) (r 1) (r 2) (r 3))
  match s0.checkTarget code with
  | .good => .jump t code
  | .bad x => .trap t { x with epc := some code }
  | .fills u => .wait u { detail := 0x2B, left := none, counting := false, stage := .branching code }

/-- The part of a queue from which a pop of a core of a hall takes a record (R336): a hall's segment, or the ring. -/
def TaskQueue.partFor (q : TaskQueue) (hall : Nat) : Option (Option Nat) :=
  if !(q.seg hall).isEmpty then some (some hall)
  else if q.inRing ≠ 0 then some none
  else (q.segs.find? fun x => !x.2.isEmpty).map fun x => some x.1

/-- Whether core j's pop of a part is served before core i's where both reach it in one cycle (R336, item 4). -/
def popsBefore (part : Option Nat) (j i : Nat) : Bool :=
  match part with
  | some h => (hallOf j == h && hallOf i != h) || ((hallOf j == h) == (hallOf i == h) && decide (j < i))
  | none => decide (j < i)

/-- Whether another core that already waits in TAKE on the same queue is served before core i (R336, item 4). -/
def State.popYields (s : State) (i sel : Nat) (q : TaskQueue) (cores : List Nat) : Bool :=
  match q.partFor (hallOf i) with
  | none => false
  | some part => cores.any fun j =>
      let c := s.core j
      j != i && popsBefore part j i && q.partFor (hallOf j) == some part && c.thread == .running && !c.diverts
        && !c.halted && c.wait.any fun w => w.detail == 0x2B && w.stage == .plain && w.args == [sel]

/-- A pop of a queue (R336): the queue after it put in place, the ring's slots, and what is done with the record. -/
def popping (w : Wait) (q : TaskQueue) (busy : Bool) (slot : Nat → Word) (put : State → TaskQueue → State)
    (k : TaskRec → Wait → (State → State) → Result) (s0 : State) : Result :=
  let i := s0.cur
  match s0.self.ringAccess with
  | some id =>
    let w := { w with counting := false, stage := .ring id }
    match s0.access? id with
    | some a =>
      match a.phase with
      | .returned st bs =>
        if st = stOk then k (taskRecOf bs) w fun t => put (t.dropAccess id) { q with head := q.head + 1 }
        else .trap (s0.dropAccess id) (ringFault st (slot q.head.toNat))
      | _ => .wait s0 w
    | none => .wait s0 w
  | none =>
    match q.pop (hallOf i) with
    | .empty => .wait s0 w
    | .got r q => k r w (put · q)
    | .ring =>
      if busy then .wait s0 w
      else .wait (s0.ringSend i (slot q.head.toNat) (.read 32)) { w with counting := false, stage := .ring s0.fresh }

/-- TAKE (R340). -/
def execTake (o : OpA) (s : State) : Host.Outcome State Fault Refusal :=
  let ir := irOf (.take o)
  issued (fieldsA o) (limitPriv ir o.imm) [] s fun x s0 s1 =>
    let i := s0.cur
    let sel := if o.s1 = .none then 0 else x.s1
    let w : Wait := { detail := 0x2B, left := s0.self.waitLeft o.imm, args := [sel.toNat] }
    match s0.self.branching? with
    | some code => takeBranch o code s0 s1
    | none =>
    if sel = 0 then
      match s0.groupOf? i with
      | some (n, p, g) =>
        if s0.self.ringAccess.isNone && s0.popYields i 0 g.queue (g.cores p) then .wait s0 w
        else
          popping w g.queue (s0.groupBusy i p g) (g.slotAt p) (fun t q => t.setQueue n g.id q)
            (fun r w pop => takeTask o r w pop s0 s1) s0
      | none => .wait s0 w
    else if sel = 1 then
      if s0.self.level = 0 then .trap s0 (privTrap ir 0x01)
      else
        match s0.partOf? i with
        | some (n, p) =>
          if s0.self.ringAccess.isNone && s0.popYields i 1 p.notices (s0.cores.map (·.1)) then .wait s0 w
          else
            popping w p.notices (s0.noticeBusy i n p) (noticeSlot p) (fun t q => t.setNotices n q)
              (fun r _ pop => takeNotice o r (pop s1)) s0
        | none => .wait s0 w
    else .trap s0 (queueFault 0x07 sel)

/-! ## JOIN (R341) -/

/-- The access that a JOIN has sent. -/
def Core.joinAccess (c : Core) : Option Nat :=
  match c.wait with
  | some w =>
    match w.stage with
    | .joining id => some id
    | _ => none
  | none => none

/-- A JOIN completes on t with a status and the old value. -/
def joinDone (o : OpA) (t : State) (st : Nat) (old : Word) : Result :=
  let st' := if st = stOk ∧ old = 0 then 0x35 else st
  .ok (t.setSelf ((t.self.setDst o.d (if st = stOk then old else 0)).setDst o.s3 (word st')))

/-- The decrement in a local window, indivisible at the core's banks (R222). -/
def joinLocal (o : OpA) (a : Word) (t : State) : Result :=
  let t := t.correct (localKey t.cur a) 8
  if poisoned t (localKey t.cur a) 8 then joinDone o t stPoison 0
  else
    let old := word (t.localNat a 8)
    joinDone o (if old = 0 then t else t.progStore a (leBytes 8 (old - 1).toNat)) stOk old

/-- The trap of a JOIN on a local counter (R93, R98, R124). -/
def joinTrap (c : Core) (a : Word) : Option Trap :=
  match c.localDetail .atomic a 8 8 with
  | some d => some (guardTrap d a)
  | none =>
    if scratchBase ≤ a.toNat ∧ (c.ep 1).binding ≠ .scratch then some (refusalTrap (c.ep 1) 0x01) else none

/-- JOIN (R341). -/
def execJoin (o : OpA) (s : State) : Host.Outcome State Fault Refusal :=
  issued (fieldsA o).noS3 (limitPriv (irOf (.join o)) o.imm) [] s fun x s0 s1 =>
    let i := s0.cur
    let a := x.s1
    let here := (windowOf? a 1).isSome
    let w : Wait := { detail := 0x2C, left := s0.self.waitLeft o.imm, args := [a.toNat] }
    match s0.self.joinAccess with
    | some id =>
      let w := { w with counting := false, stage := .joining id }
      match s0.access? id with
      | some acc =>
        match acc.phase with
        | .returned st bs => joinDone o (s1.dropAccess id) st (word (leNat bs))
        | _ => .wait s0 w
      | none => .wait s0 w
    | none =>
      match if here then joinTrap s0.self a else none with
      | some t => .trap s0 t
      | none =>
        releasing w [] s0 s1 fun t =>
          if here then joinLocal o a t
          else if malformed a || a.toNat % 8 != 0 then joinDone o t stAddress 0
          else if t.dest (t.pnum i) a = .noPeer then joinDone o t stNoPeer 0
          else
            .wait (s0.launchAccess { id := 0, core := i, cls := .o, addr := a, kind := .join, posted := false })
              { w with counting := false, stage := .joining s0.fresh }

/-! ## The end of a task and of a thread -/

/-- Every bound user endpoint of a core closes as a failure (R152). -/
def State.failChannels (s : State) (i cause : Nat) : State :=
  (List.range 20).foldl (fun (t : State) (e : Nat) =>
    let x := (t.core i).ep e
    if x.binding = .user ∧ x.mode ≠ .connecting then t.failEp i e cause else t) s

/-- DONE (R342). -/
def execDone (o : OpA) (s : State) : Host.Outcome State Fault Refusal :=
  issued (fieldsA o) (limitPriv (irOf (.done o)) o.imm) [] s fun x s0 s1 =>
    let w : Wait := { detail := 0x2F, left := s0.self.waitLeft o.imm }
    let tls := if o.sub = 1 then s0.self.issued.toList else []
    let go (_ : Unit) := releasing w tls s0 s1 fun t => .jump (t.failChannels t.cur 0) x.s1
    if s0.self.fenceStage.isSome then go () else taken s0 x.s1 go

/-- A member's EXIT leaves its stair, and a head's dissolves it (R121). -/
def State.exitStair (s : State) (i : Nat) : State :=
  let c := s.core i
  if !c.memb then s
  else if c.isHead then s.dissolve i
  else if !c.detached ∧ (s.streamItem? i).any (fun x => x.byHead) then s
  else s.onCore i Core.leaves

/-- The end of a core's thread (R330). -/
def State.endThread (s : State) (i : Nat) : State :=
  let c := s.core i
  let own := c.queueIds ++ c.saving.getD [] ++ c.returning.getD []
  let s := { s with flight := s.flight.filter fun a => !own.contains a.id }.drainOwn i fun _ => true
  let s := s.failChannels i 0
  s.onCore i fun c =>
    { c with
      thread := .done
      wait := none
      request := none
      wdogPending := false
      halted := false
      monitored := false
      preempted := false
      diverting := false
      saving := none
      headed := false
      queueIds := []
      queueFailed := false
      returning := none
      resumeDue := false
      restored := false
      spill := [] }

/-- EXIT (R330): a release (R215), so that its channels close only after every earlier access of the core's ordinary stream
has been acknowledged. -/
def execExit (o : OpA) (s : State) : Host.Outcome State Fault Refusal :=
  issued (fieldsA o) anyLevel [] s fun _ s0 s1 =>
    let d := s0.drainOwn s0.cur fun _ => true
    if (d.pendIds s0.cur fun _ => true).isEmpty then .stay ((s1.exitStair s0.cur).endThread s0.cur)
    else .wait d stallWait

/-! ## The watchdog and YIELD -/

/-- kwdog with EN and REMAIN (R35). -/
def wdogWord (n : Nat) : Word := if n = 0 then 0 else word (2 ^ 63 + n)

/-- WDOG (R350). -/
def execWdog (o : OpA) (s : State) : Host.Outcome State Fault Refusal :=
  issued (fieldsA o) anyLevel [] s fun _ s0 s1 =>
    let c := s0.self
    let n := o.imm.toNat
    let new :=
      if c.level ≠ 0 then wdogWord n
      else if n ≠ 0 ∧ bits c.kwdog 63 1 = 0 then wdogWord n
      else c.kwdog
    .ok (s1.setSelf ({ s1.self with kwdog := new }.setDst o.d (word (bits c.kwdog 0 32))))

/-- Whether a YIELD of core i accepts a pending request (R351). An attached follower does so where its head has accepted
after this instruction (R405). -/
def State.yields (s : State) (i : Nat) : Bool :=
  let c := s.core i
  c.request.isSome && !c.intrap
    && (if c.follower then
          match c.place, s.stairOf? i with
          | some p, some x => (s.core x.head).diverts && p.next + 1 == x.base + x.stream.length
          | _, _ => false
        else true)

/-- Steps 2 and 3 of acceptance (R404): diversion begins, the core's entries drain, and its return stack is emptied
(R105). -/
def State.beginSave (s : State) (i : Nat) : State :=
  (s.onCore i fun c => { c with diverting := true, calls := 0 }).drainOwn i fun _ => true

/-- YIELD (R351). -/
def execYield (o : OpA) (s : State) : Host.Outcome State Fault Refusal :=
  issued (fieldsA o) anyLevel [] s fun _ s0 s1 =>
    if s0.yields s0.cur then .ok ((s1.setSelf (s1.self.setDst o.d 1)).beginSave s1.cur)
    else .ok (s1.setSelf (s1.self.setDst o.d 0))

end Sys2Proof.Machine
end

