-- ==== Sys2Proof/Machine/Launches.lean ====
section
/-! DEFINITION. Launch records and LAUNCH (R320 to R325), the partition scheduler (R326 to R329), kernel entry (R322),
the freeing of groups (R331), quiescence and reports (R332, R333). -/
namespace Sys2Proof.Machine

/-! ## Launch records (R320, R321) -/

/-- A word of a record. -/
def recWord (ws : List Word) (n : Nat) : Word := (ws[n]?).getD 0

/-- W4 and H4. -/
def recShape (ws : List Word) : Nat × Nat := (bits (recWord ws 2) 0 9, bits (recWord ws 2) 9 8)

/-- GROUPS. -/
def recGroups (ws : List Word) : Nat := bits (recWord ws 2) 17 16

/-- GANG. -/
def recGang (ws : List Word) : Nat := bits (recWord ws 2) 33 2

/-- PRIO. -/
def recPrio (ws : List Word) : Nat := bits (recWord ws 2) 35 2

/-- LNCH. -/
def recLnch (ws : List Word) : Nat := bits (recWord ws 2) 37 1

/-- EPS. -/
def recEps (ws : List Word) : Nat := bits (recWord ws 2) 38 4

/-- CHB in bytes. -/
def recChb (ws : List Word) : Nat := bits (recWord ws 2) 42 9 * 256

/-- TCMN, in units of 128 bytes. -/
def recTcmn (ws : List Word) : Nat := bits (recWord ws 2) 51 10

/-- The sizes of the domain levels in units of 4 cores, from the rectangle above them; none when DOMS is illegal
(R321). -/
def domSizes (d : Word) (w h : Nat) : List Nat → Option (List (Nat × Nat))
  | [] => some []
  | i :: r =>
    let x := bits d (16 * i) 16
    let w' := if x % 256 = 0 then 256 else x % 256
    let h' := x / 256
    if h' = 0 then (if bits d (16 * i) (64 - 16 * i) = 0 then some [] else none)
    else if w % w' ≠ 0 ∨ h % h' ≠ 0 then none
    else (domSizes d w' h' r).map ((w', h') :: ·)

/-- The domain levels of a record. -/
def recDoms (ws : List Word) : Option (List (Nat × Nat)) :=
  domSizes (recWord ws 3) (recShape ws).1 (recShape ws).2 [0, 1, 2, 3]

/-- A record that breaks item 3 of R324. -/
def recBad (ws : List Word) : Bool :=
  let (w, h) := recShape ws
  bits (recWord ws 2) 61 3 != 0 || w == 0 || decide (256 < w) || h == 0 || decide (160 < h)
    || recGroups ws == 0 || decide (40960 < recGroups ws) || recGang ws == 3 || decide (14 < recEps ws)
    || decide (0x10000 < recChb ws) || decide (0x1EF80 < recTcmn ws * 128 + recChb ws)
    || bits (recWord ws 0) 57 7 != 0 || bits (recWord ws 0) 0 6 != 0 || (recDoms ws).isNone

/-! ## LAUNCH -/

/-- The number after a launch number (R325). -/
def nextLaunchNo (n : Nat) : Nat := if n + 1 < 2 ^ 32 then n + 1 else 1

/-- Post a launch in a partition (R325, R435): its number, or 0 when 64 launches are pending. -/
def State.postLaunch (s : State) (pnum : Nat) (l : Launch) : Nat × State :=
  match s.part? pnum with
  | none => (0, s)
  | some p =>
    if 64 ≤ p.pending.length then (0, s)
    else
      (p.nextLaunch,
       s.setPart pnum { p with pending := p.pending ++ [{ l with n := p.nextLaunch }],
                               nextLaunch := nextLaunchNo p.nextLaunch })

/-- LAUNCH at P0 without kpriv.LNCH (R324). -/
def launchPriv (ir : Word) (c : Core) : Option Trap :=
  if c.level = 0 ∧ !c.lnch then some (privTrap ir 0x01) else none

/-- The trap that a record meets (R324, items 3 to 5). -/
def launchTrap (ir : Word) (c : Core) (a : Word) (ws : List Word) : Option Trap :=
  let d := recWord ws 5
  if recBad ws then some (guardTrap 0x0D a)
  else if c.level = 0 ∧ (recLnch ws = 1 ∨ c.prio < recPrio ws) then some (privTrap ir 0x05)
  else if d = 0 then none
  else (c.objDetail d).map fun x => guardTrap x d

/-- LAUNCH (R325). -/
def execLaunch (o : OpA) (s : State) : Host.Outcome State Fault Refusal :=
  let ir := irOf (.launch o)
  issued (fieldsA o) (launchPriv ir) [] s fun x s0 s1 =>
    let i := s0.cur
    let a := addrOf o x.s1
    match s0.localTrap .load a 64 64 with
    | some t => .trap s0 t
    | none =>
      let ws := (List.range 8).map fun n => word (leNat (s0.loadLocal i (a + word (8 * n)) 8))
      match launchTrap ir s0.self a ws with
      | some t => .trap s0 t
      | none =>
        let t := (s1.correct (localKey i a) 64).drainOwn i fun _ => true
        let (n, t) := t.postLaunch (s0.pnum i)
          { n := 0, words := ws, launcher := some i, addr := a, after := t.pendIds i fun _ => true,
            fromGroup := s0.self.group }
        .ok (t.setSelf (t.self.setDst o.d (word n)))

/-! ## Checks at the scheduler (R326) -/

/-- Status LAUNCH-IMAGE. -/
def stImage : Nat := 0x1E
/-- Status NORESIDENT. -/
def stNoResident : Nat := 0x07

/-- The image that a record names. -/
def Partition.image? (p : Partition) (ws : List Word) : Option Image := p.images.find? fun m => m.base == recWord ws 1

/-- Whether an image cannot serve a record. -/
def imageBad (m : Image) (ws : List Word) : Bool :=
  !m.hasCode (recWord ws 0) || tcmReaches m.bytes (0x1EFC0 - recChb ws)
    || (List.range 8).any fun n =>
      match m.proto (recWord ws 4) n with
      | none => false
      | some none => true
      | some (some e) => (refusal e (recChb ws) false).isSome

/-- Groups of a size that a partition's cores hold, every core free: first fit tiles it row by row (R328). -/
def Partition.holds (p : Partition) (w h : Nat) : Nat := (64 * p.hw / w) * (64 * p.hh / h)

/-- The status with which a launch fails before any of its groups is placed (R326). -/
def Partition.launchFails (p : Partition) (ws : List Word) : Option Nat :=
  let (w, h) := recShape ws
  if (p.image? ws).all (imageBad · ws) then some stImage
  else if p.holds (4 * w) (4 * h) = 0 ∨ (recGang ws ≠ 0 ∧ p.holds (4 * w) (4 * h) < recGroups ws) then
    some stNoResident
  else none

/-! ## Placement (R327 to R329) -/

/-- A rectangle: origin and size. -/
structure Rect where
  x : Nat
  y : Nat
  w : Nat
  h : Nat
  deriving DecidableEq, Repr, Inhabited

/-- Two rectangles share a core. -/
def Rect.meets (a b : Rect) : Bool :=
  decide (a.x < b.x + b.w) && decide (b.x < a.x + a.w) && decide (a.y < b.y + b.h) && decide (b.y < a.y + a.h)

/-- The rectangle of a group in its partition. -/
def Group.rect (g : Group) : Rect := { x := g.x0, y := g.y0, w := g.w, h := g.h }

/-- A rectangle of a partition in physical coordinates. -/
def Rect.physical (r : Rect) (p : Partition) : Rect := { r with x := r.x + 64 * p.hx0, y := r.y + 64 * p.hy0 }

/-- Whether a rectangle of a partition lies on a die that is down (R446). -/
def State.onDownDie (s : State) (p : Partition) (r : Rect) : Bool :=
  (List.range 4).any fun d =>
    s.board.dieDown[d]! && (r.physical p).meets { x := 512 * (d % 2), y := 320 * (d / 2), w := 512, h := 320 }

/-- The first origin at which every core of a rectangle is free (R328). -/
def State.firstFit (s : State) (p : Partition) (taken : List Rect) (w h : Nat) : Option Rect :=
  let place (k : Nat) : Rect := { x := 4 * (k % (16 * p.hw)), y := 4 * (k / (16 * p.hw)), w := w, h := h }
  ((List.range (16 * p.hw * (16 * p.hh))).map place).find? fun r =>
    decide (r.x + w ≤ 64 * p.hw) && decide (r.y + h ≤ 64 * p.hh) && !taken.any r.meets && !s.onDownDie p r

/-- The origins of n groups placed one after another; none when one of them does not fit (R329). -/
def State.fitAll (s : State) (p : Partition) (w h : Nat) : Nat → List Rect → Option (List Rect)
  | 0, _ => some []
  | n + 1, taken =>
    match s.firstFit p taken w h with
    | none => none
    | some r => (s.fitAll p w h n (r :: taken)).map (r :: ·)

/-- The tile of a size in units of 4 cores, of a rectangle's tiling, that contains a core (R321). -/
def tileAt (r : Rect) (w4 h4 x y : Nat) : Rect :=
  { x := r.x + (x - r.x) / (4 * w4) * (4 * w4), y := r.y + (y - r.y) / (4 * h4) * (4 * h4), w := 4 * w4, h := 4 * h4 }

/-- The rectangle word of a rectangle (R35). -/
def Rect.word (r : Rect) : Word := rectWord r.x r.y (r.x + r.w - 1) (r.y + r.h - 1)

/-- The domain rectangles of a core from the levels' sizes (R321). -/
def domsAt (r : Rect) (x y : Nat) : List (Nat × Nat) → List Word
  | [] => []
  | (w, h) :: l =>
    let t := tileAt r w h x y
    (t.word ||| word (2 ^ 63)) :: domsAt t x y l

/-- A core at kernel entry (R25, R322): its launch's record, the trap handler's line, its group, and its virtual place.
What a debugger has armed stays, and so does what a new holder of an endpoint still has to learn (R151). -/
def Core.enters (c : Core) (pnum : Nat) (ws : List Word) (launch : Nat) (handler : Word) (g : Group) (x y : Nat) :
    Core :=
  let doms := domsAt g.rect x y ((recDoms ws).getD [])
  let k : Core :=
    { pc := recWord ws 0
      dirty := BitVec.allOnes 96
      kvec := handler
      kpriv := word (recLnch ws * 256)
      kcoord := word (y * 2 ^ 16 + x)
      kgroup := g.rect.word
      kdom := Vector.ofFn fun n => (doms[n.val]?).getD 0
      kguard := (Vector.replicate 8 (0 : Word)).set 0 (word (0xE000000000000000 + recTcmn ws * 2 ^ 16))
      thread := .loaded
      kept := c.kept.filter fun b => b.failedWith.isSome
      haltOnBreak := c.haltOnBreak
      chb := recChb ws
      epsN := recEps ws
      prio := recPrio ws
      launch := launch
      group := g.id
      part := some pnum }
  ((k.setG 1 (recWord ws 6)).setG 2 (recWord ws 7)).setG 3 (word g.index)

/-- The TCM of a core as the loader leaves it (R75, R322): the tcm sections, the protocol slots, and zero elsewhere. -/
def State.loadTcm (s : State) (i : Nat) (m : Image) (ws : List Word) : State :=
  let t := s.clearRange (tcmKey i 0) Config.tcmBytes
  let t := (loadedSections m.bytes 2 m.base).foldl (fun (t : State) (x : Nat × List Byte) =>
    storeBytes t (tcmKey i x.1) x.2) t
  (List.range 8).foldl (fun (t : State) (n : Nat) =>
    match m.proto (recWord ws 4) n with
    | some (some e) => storeBytes t (tcmKey i (slotOffset n)) (loadedSlot e)
    | _ => t) t

/-- The scratchpad of a cluster as the loader leaves it (R75). DESIGN CHOICE (log 106): what a section has beyond the window
of 4 MiB is dropped; R75 does not refuse it. -/
def State.loadScratch (s : State) (k : Nat) (m : Image) : State :=
  let t := s.clearRange (scratchKey k 0) Config.scratchBytes
  let t := (loadedSections m.bytes 3 m.base).foldl (fun (t : State) (x : Nat × List Byte) =>
    storeBytes t (scratchKey k x.1) (x.2.take (Config.scratchBytes - x.1))) t
  t.setCluster k { t.cluster k with monitors := [] }

/-- The clusters of a group. -/
def Group.clusters (g : Group) (p : Partition) : List Nat :=
  ((g.cores p).filter fun i => coreX i % 4 == 0 && coreY i % 4 == 0).map clusterOf

/-- A group is placed at a rectangle and loaded (R322, R328). -/
def State.placeGroup (s : State) (pnum : Nat) (l : Launch) (m : Image) (r : Rect) : State :=
  match s.part? pnum with
  | none => s
  | some p =>
    let g : Group := { id := p.nextGroup, launch := l.n, index := l.placed, x0 := r.x, y0 := r.y, w := r.w, h := r.h,
                       gang := recGang l.words != 0 }
    let placed (k : Launch) : Launch :=
      if k.n = l.n then { k with placed := k.placed + 1, live := k.live + 1, stuck := 0 } else k
    let s := s.setPart pnum { p with groups := p.groups ++ [g], nextGroup := p.nextGroup + 1,
                                     pending := p.pending.map placed }
    let s := (g.clusters p).foldl (fun (t : State) k => t.loadScratch k m) s
    (g.cores p).foldl (fun (t : State) i =>
      let t := t.loadTcm i m l.words
      let v := t.virt i
      t.onCore i fun c => c.enters pnum l.words l.n (m.handler (recWord l.words 0)) g v.1 v.2) s

/-- A launch that has left the pending queue: all its groups are placed, or it has ended with a status. -/
def Partition.retire (p : Partition) (n : Nat) (ended : Option Nat) : Partition :=
  { p with
    pending := p.pending.filter fun l => l.n != n
    running := p.running ++ ((p.pending.filter fun l => l.n == n).map fun l => { l with ended := ended }) }

/-- The state with a partition changed. -/
def State.onPart (s : State) (pnum : Nat) (f : Partition → Partition) : State :=
  match s.part? pnum with
  | some p => s.setPart pnum (f p)
  | none => s

/-- A launch's groups placed at rectangles, and the launch retired when all of them are. -/
def State.placeAt (s : State) (pnum : Nat) (l : Launch) (m : Image) (rs : List Rect) : State :=
  let (s, l) := rs.foldl (fun (x : State × Launch) r =>
    (x.1.placeGroup pnum x.2 m r, { x.2 with placed := x.2.placed + 1 })) (s, l)
  if l.placed = recGroups l.words then s.onPart pnum fun p => p.retire l.n none else s

/-- Effective priority of a pending launch (R327). -/
def Launch.priority (l : Launch) : Nat := min 3 (recPrio l.words + l.age / 2 ^ 22)

/-- What a visit places for a launch (R328, R329): none when nothing fits. -/
def State.visit (s : State) (pnum n : Nat) : Option State :=
  match s.part? pnum with
  | none => none
  | some p =>
    match p.pending.find? fun l => l.n == n with
    | none => none
    | some l =>
      let (w, h) := recShape l.words
      let taken := p.groups.map Group.rect
      match p.image? l.words with
      | none => none
      | some m =>
        let served (t : State) := t.onPart pnum fun q => { q with served := tset q.served l.priority l.seq }
        if recGang l.words = 0 then
          (s.firstFit p taken (4 * w) (4 * h)).map fun r => served (s.placeAt pnum l m [r])
        else
          match s.fitAll p (4 * w) (4 * h) (recGroups l.words) taken with
          | some rs => some (served (s.placeAt pnum l m rs))
          | none => none

/-- The launches of one effective priority in the order of a pass: posting order from after the one served last. -/
def Partition.visitsAt (p : Partition) (ls : List Launch) (prio : Nat) : List Nat :=
  let at' := ls.filter fun l => l.priority == prio
  let order : List Launch := match tget? p.served prio with
    | none => at'
    | some n => (at'.filter fun l => decide (n < l.seq)) ++ at'.filter fun l => decide (l.seq ≤ n)
  order.map (·.n)

/-- The launches of a pass in order (R327). -/
def Partition.visits (p : Partition) (ls : List Launch) : List Nat :=
  ([3, 2, 1, 0].map fun k => p.visitsAt ls k).flatten

/-- Whether a posting has taken effect: the accesses that it waits for are acknowledged (R325). -/
def State.posted (s : State) (l : Launch) : Bool :=
  match l.launcher with
  | some i => s.allAcked i l.after
  | none => true

/-- A gang that fails where it does not fit (R329). -/
def State.failGangs (s : State) (pnum : Nat) (ns : List Nat) : State :=
  ns.foldl (fun (t : State) n => t.onPart pnum fun p =>
    if p.pending.any fun l => l.n == n && recGang l.words == 2 then p.retire n (some stNoResident) else p) s

/-- One pass: the state after it, and whether it placed anything (R327). -/
def State.pass (s : State) (pnum : Nat) (ns : List Nat) : State × Bool :=
  ns.foldl (fun (x : State × Bool) n =>
    match x.1.visit pnum n with
    | some t => (t, true)
    | none => (x.1.failGangs pnum [n], x.2)) (s, false)

/-- Passes until one places nothing (R327). -/
def State.passes (s : State) (pnum : Nat) (only : Option Nat) : Nat → State
  | 0 => s
  | fuel + 1 =>
    match s.part? pnum with
    | none => s
    | some p =>
      let ready := p.pending.filter fun l => l.checked && (only.all fun n => n == l.n)
      let (t, again) := s.pass pnum (p.visits ready)
      if again then t.passes pnum only fuel else t

/-- Launches whose posting has taken effect are checked, and fail whole or stay (R326), in posting order behind those that
were posted before. -/
def State.checkPosted (s : State) (pnum : Nat) : State :=
  match s.part? pnum with
  | none => s
  | some p =>
    p.pending.foldl (fun (t : State) l =>
      if l.checked ∨ !s.posted l then t
      else
        match p.launchFails l.words with
        | some st => t.onPart pnum fun q => q.retire l.n (some st)
        | none => t.onPart pnum fun q =>
          let l : Launch := { l with checked := true, seq := q.postings }
          let rest := q.pending.filter fun k => k.n != l.n
          { q with postings := q.postings + 1
                   pending := (rest.filter fun k => k.checked) ++ [l] ++ rest.filter fun k => !k.checked }) s

/-! ## Reports (R333) -/

/-- How a report reaches its launcher. -/
inductive Reporting where
  /-- there is nobody to report to, or no object -/
  | nobody
  /-- the launcher is away: later -/
  | later
  | core (i : Nat)
  | host
  deriving DecidableEq, Repr

/-- Who hears of a launch's end. -/
def State.reporting (s : State) (l : Launch) : Reporting :=
  match l.launcher with
  | none => .host
  | some i =>
    let c := s.core i
    if recWord l.words 5 = 0 ∨ c.group ≠ l.fromGroup ∨ c.thread = .none ∨ c.thread = .done then .nobody
    else if c.diverts then .later
    else .core i

/-- The report of a launch that has ended with a status, to a core or to the host (R333, R437). -/
def State.report (s : State) (pnum : Nat) (l : Launch) (st : Nat) : State :=
  match s.reporting l with
  | .nobody | .later => s
  | .host => (s.post 1 pnum [word l.n, word st]).onPart pnum fun p => { p with rootRunning := none }
  | .core i =>
    let d := recWord l.words 5
    let t := if st = stOk then s else s.recordFault i (some d) { addr := l.addr, status := st, tlnum := l.n }
    t.updateObj i d 1 0

/-- Launches that have ended report once and are forgotten; a launcher that is away hears later. -/
def State.reportAll (s : State) (pnum : Nat) : State :=
  match s.part? pnum with
  | none => s
  | some p =>
    let due := p.running.filter fun l => l.ended.isSome && s.reporting l != .later
    let t := due.foldl (fun (t : State) l => t.report pnum l (l.ended.getD 0)) s
    t.onPart pnum fun q => { q with running := q.running.filter fun l => !due.any fun k => k.n == l.n }

/-- A launch that has waited 2^24 cycles at effective priority 3 without placing (R327). -/
def Launch.starves (l : Launch) : Bool := l.checked && l.priority == 3 && decide (2 ^ 24 ≤ l.stuck)

/-- A turn of the partition scheduler (R327); a held one places nothing (R417). -/
def State.turn (s : State) (pnum : Nat) : State :=
  match s.part? pnum with
  | none => s
  | some p =>
    if p.hold then s
    else
      let s := s.checkPosted pnum
      let starving := match s.part? pnum with
        | some q => (q.pending.find? Launch.starves).map (·.n)
        | none => none
      let groups := (p.pending.map fun l => recGroups l.words).sum
      ((s.passes pnum starving (groups + 1)).offerNotices pnum).reportAll pnum

/-- SCHEDULER_TURN (R327). -/
def execSchedulerTurn (pnum : Nat) (s : State) : Host.Outcome State Fault Refusal := .next (s.turn pnum)

/-- KERNEL_ENTRY (R322): a loaded core begins; in a held partition it waits. -/
def execKernelEntry (core : Nat) (s : State) : Host.Outcome State Fault Refusal :=
  .next (if (s.core core).thread = .loaded ∧ !s.heldPart core then s.onCore core fun c => { c with thread := .running }
    else s)

/-! ## The end of a group (R331) -/

/-- Handovers that a core has not brought to step 4 end as its failure (R151): the channel closes at the state it had at
DELEG, the peer is notified, and so is the new holder, at once or when it tells that it has adopted. One whose new holder
has let go of the endpoint is closed already: the rest of its buffer is dropped, and nothing is told twice (R427, R428). -/
def State.failHandovers (s : State) (i cause : Nat) : State :=
  (s.core i).kept.foldl (fun (t : State) (k : KeptBuffer) =>
    match k.desc with
    | none => t
    | some x =>
      if k.passed ∨ k.failedWith.isSome then t
      else if k.newHolder.any fun d => t.letGo d k.chan then
        (t.orphanAll i (k.msgs.map (·.1)) cause false).onCore i fun c => c.dropKept k.ep k.chan
      else
        let w := closeWord (t.slot i x.slot) x cause false
        let t := t.orphanAll i (k.msgs.map (·.1)) cause true
        let t := t.send (t.route i x) x.peerEp x.chan i .o (.close x.sseq w)
        let t := t.closedNotice i k.ep (t.nodeOf i) w
        match k.newHolder with
        | some (j, e) => (t.send j e x.chan i .o (.close x.sseq w)).onCore i fun c => c.dropKept k.ep k.chan
        | none => t.onCore i fun c =>
          { c with kept := c.kept.map fun b =>
              if b.ep = k.ep ∧ b.chan = k.chan then { b with failedWith := some w, len := 0, msgs := [] } else b }) s

/-- Whether nothing of a done core is left to do (R331). -/
def State.quiet (s : State) (i : Nat) : Bool :=
  (s.core i).cmds.isEmpty && (s.ownEntries i).isEmpty && !s.flight.any fun a => a.core == i

/-- The handovers of a core whose new holder has let go of the endpoint brought to their end: what is left is discarded
(R149, R426). -/
def State.endHandovers (s : State) (i : Nat) : State :=
  (s.core i).kept.foldl (fun (t : State) k => (t.tryPass i k.ep k.chan).getD t) s

/-- Whether nothing of a done core is left to do before its group is freed (R331, R426): its commands, its accesses, and
its handovers, which go on to the end of step 4. -/
def State.spent (s : State) (i : Nat) : Bool :=
  s.quiet i && (s.core i).kept.all fun k => k.desc.isNone || k.passed || k.failedWith.isSome

/-- Records that a queue holds. -/
def TaskQueue.size (q : TaskQueue) : Nat := q.inRing + (q.segs.map fun x => x.2.length).sum

/-- A core whose group is freed (R331): in no group, everything it held discarded. -/
def Core.freed (c : Core) : Core :=
  { haltOnBreak := c.haltOnBreak, kept := c.kept.filter fun b => b.failedWith.isSome }

/-- The totals of SENT and RCVD of some cores (R332). -/
def State.totals (s : State) (cores : List Nat) (from' : Nat × Nat) : Nat × Nat :=
  cores.foldl (fun x i => (x.1 + (s.core i).sent, x.2 + (s.core i).rcvd)) from'

/-- A launch with one of its groups freed: it ends when the last of all is (R333). -/
def Launch.freedGroup (l : Launch) (gone : Nat × Nat) : Launch :=
  { l with live := l.live - 1, gone := gone,
           ended := if l.ended.isNone ∧ l.live = 1 ∧ l.placed = recGroups l.words then some stOk else l.ended }

/-- A group is freed: the records it holds are reported, and everything in its cores, clusters and trees is discarded
(R331, R335). -/
def State.freeGroup (s : State) (pnum : Nat) (p : Partition) (g : Group) : State :=
  let cores := g.cores p
  let s := cores.foldl (fun (t : State) i => t.failHandovers i 0) s
  let s := if g.queue.size = 0 then s else s.notice pnum 7 g.rect.word (word g.launch) g.queue.size
  let ends (l : Launch) : Launch := if l.n = g.launch then l.freedGroup (s.totals cores l.gone) else l
  let s := s.onPart pnum fun q =>
    { q with groups := q.groups.filter fun x => x.id != g.id, pending := q.pending.map ends,
             running := q.running.map ends }
  let s := cores.foldl (fun (t : State) i => (t.clearRange (tcmKey i 0) Config.tcmBytes).onCore i Core.freed) s
  let s := (g.clusters p).foldl (fun (t : State) k =>
    (t.clearRange (scratchKey k 0) Config.scratchBytes).setCluster k {}) s
  let gone (k : TreeKey) : Bool := k.part == pnum && rectInside k.rect g.rect.word
  let goes (q : Packet) : Bool := match q.body with
    | .contribution k _ _ _ _ _ _ _ => gone k
    | .result _ => cores.contains q.dst
    | _ => false
  { s with
    unsettled := s.unsettled.filter fun x => !cores.contains x.core
    stairs := s.stairs.filter fun x => !cores.contains x.head
    nodes := s.nodes.filter fun d => !gone d.key
    finals := s.finals.filter fun f => !gone f.key
    net := s.net.filter fun q => !goes q }

/-- GROUP_FREED (R331). -/
def execGroupFreed (pnum group : Nat) (s : State) : Host.Outcome State Fault Refusal :=
  .next (match s.part? pnum with
    | none => s
    | some p =>
      match p.groups.find? fun g => g.id == group with
      | none => s
      | some g =>
        let s := if (g.cores p).all fun i => (s.core i).thread == .done then (g.cores p).foldl State.endHandovers s else s
        if (g.cores p).all fun i => (s.core i).thread == .done && s.spent i then
          (s.freeGroup pnum ((s.part? pnum).getD p) g).reportAll pnum
        else s)

/-! ## Quiescence (R332) -/

/-- Whether a core waits in TAKE on an empty queue. -/
def State.takesNothing (s : State) (i : Nat) : Bool :=
  match (s.core i).wait with
  | some w =>
    w.detail == 0x2B && w.stage == .plain
      && (if w.args == [0] then
            match s.groupOf? i with
            | some (_, _, g) => g.queue.size == 0
            | none => true
          else
            match s.partOf? i with
            | some (_, p) => p.notices.size == 0
            | none => true)
  | none => false

/-- An idle core (R332); a saved one is not. -/
def State.isIdle (s : State) (i : Nat) : Bool :=
  let c := s.core i
  c.thread == .done || (c.thread == .running && !c.diverts && s.takesNothing i && s.quiet i)

/-- The idle flag of a core's record (R332, R410): of a core that is away, as it was when its save began. -/
def State.idleFlag (s : State) (i : Nat) : Bool := if (s.core i).diverts then (s.core i).idle else s.isIdle i

/-- The groups of a launch become draining at quiescence, their idle cores as if they had executed EXIT. -/
def State.drainLaunch (s : State) (pnum : Nat) (p : Partition) (n : Nat) : State :=
  let s := s.onPart pnum fun q =>
    { q with groups := q.groups.map fun g => if g.launch = n then { g with draining := true } else g }
  (p.groups.filter fun g => g.launch == n).foldl (fun (t : State) g =>
    (g.cores p).foldl (fun (t : State) i =>
      if (t.core i).thread = .done then t else (t.exitStair i).endThread i) t) s

/-- QUIESCENCE_SWEEP (R332): of a launch that has placed all its groups. -/
def execQuiescenceSweep (pnum launch : Nat) (s : State) : Host.Outcome State Fault Refusal :=
  .next (match s.part? pnum with
    | none => s
    | some p =>
      match p.running.find? fun l => l.n == launch && l.ended.isNone with
      | none => s
      | some l =>
        let cores := ((p.groups.filter fun g => g.launch == launch).map fun g => g.cores p).flatten
        let idle := cores.map fun i => (s.isIdle i, i)
        let s := idle.foldl (fun (t : State) x => t.onCore x.2 fun c => if c.diverts then c else { c with idle := x.1 }) s
        let all := idle.all (·.1)
        let t := s.totals cores l.gone
        let keep (x : Option (Nat × Nat)) := s.onPart pnum fun q =>
          { q with running := q.running.map fun k => if k.n = launch then { k with sweep := x } else k }
        if !all ∨ t.1 ≠ t.2 then keep none
        else if l.sweep = some t then s.drainLaunch pnum p launch
        else keep (some t))

end Sys2Proof.Machine
end

