-- ==== Sys2Proof/Machine/Engine.lean ====
section
/-! DEFINITION. The copy engine (R187 to R201) and RATOM (R228, R229): commands and their checks at issue, their items,
what items meet on their way, and how they end. -/
namespace Sys2Proof.Machine

/-! ## Walk records (R198) -/

/-- The walk that 64 bytes hold, where they keep its limits. -/
def walkOf? (bs : List Byte) : Option Walk :=
  let elem := fieldAt bs 8 1
  let nd := fieldAt bs 9 1
  let dim (d : Nat) : Nat := fieldAt bs (16 + 8 * d) 8
  let dims := (List.range nd).map fun d => (field (dim d) 40 24, signedOf 40 (dim d))
  if !([1, 2, 4, 8].contains elem) || nd == 0 || decide (5 < nd) || fieldAt bs 10 6 != 0 || fieldAt bs 56 8 != 0
      || (List.range 5).any (fun d => decide (nd ≤ d) && dim d != 0) || dims.any (fun d => d.1 == 0)
      || decide (2 ^ 24 < (dims.map (·.1)).prod) then none
  else some { base := word (fieldAt bs 0 8), elem := elem, dims := dims }

/-- TOTAL. -/
def Walk.total (w : Walk) : Nat := (w.dims.map (·.1)).prod

/-- The distance of element e along dimensions. -/
def walkDist : List (Nat × Int) → Nat → Int
  | [], _ => 0
  | (n, st) :: r, e => (e % n : Nat) * st + walkDist r (e / n)

/-- The address of element e. -/
def Walk.addr (w : Walk) (e : Nat) : Word := w.base + BitVec.ofInt 64 (walkDist w.dims e)

/-- Whether a walk lies in the local windows (R199). -/
def Walk.isLocal (w : Walk) : Bool := bits w.base 63 1 == 1

/-! ## Items -/

/-- What an item moves: a source and a destination of n bytes, either of them local, and the alignment that its global
addresses need. -/
structure Move where
  src : Word
  dst : Word
  n : Nat
  srcLocal : Bool
  dstLocal : Bool
  align : Nat := 1
  /-- a global side whose BASE is malformed (R199) -/
  bad : Bool := false
  deriving DecidableEq, Repr

/-- The j-th line that a range of n bytes touches (R197): offset in the range and length. -/
def linePart (a : Word) (n j : Nat) : Nat × Nat :=
  let lo := if j = 0 then 0 else 64 * j - a.toNat % 64
  (lo, min n (64 * (j + 1) - a.toNat % 64) - lo)

/-- Lines that a range touches. -/
def lineCount (a : Word) (n : Nat) : Nat := if n = 0 then 0 else (a.toNat % 64 + n + 63) / 64

/-- The address of an indexed element (R200). -/
def indexed (a : Word) (size : Nat) (idx : List Int) (j : Nat) : Word :=
  a + BitVec.ofInt 64 ((idx[j]?).getD 0 * size)

/-- A global BASE that R199 calls malformed. -/
def Walk.malformedBase (w : Walk) : Bool := !w.isLocal && malformed w.base

/-- Item j of an engine command as a move; RATOM's is its old value, MCAST's and the matrix commands' are their own. -/
def EngineOp.move : EngineOp → Nat → Option Move
  | .get l r n, j =>
    let p := linePart r n j
    some { src := r + word p.1, dst := l + word p.1, n := p.2, srcLocal := false, dstLocal := true }
  | .put l r n, j =>
    let p := linePart r n j
    some { src := l + word p.1, dst := r + word p.1, n := p.2, srcLocal := true, dstLocal := false }
  | .copy s d, j =>
    some { src := s.addr j, dst := d.addr j, n := s.elem, srcLocal := s.isLocal, dstLocal := d.isLocal, align := s.elem,
           bad := s.malformedBase || d.malformedBase }
  | .gather l r n idx, j =>
    some { src := indexed r n idx j, dst := l + word (j * n), n := n, srcLocal := false, dstLocal := true, align := n }
  | .scatter l r n idx, j =>
    some { src := l + word (j * n), dst := indexed r n idx j, n := n, srcLocal := true, dstLocal := false, align := n }
  | .ratom _ ty r _ _ l, _ =>
    some { src := r, dst := l, n := tySize ty, srcLocal := false, dstLocal := true, align := tySize ty }
  | .mcast l r n _, _ => some { src := l, dst := r, n := n, srcLocal := true, dstLocal := false }
  | _, _ => none

/-- The members of a group entry (R378): position and peer. -/
def groupMembers (bs : List Byte) : List (Nat × Nat) :=
  (List.range (fieldAt bs 0 8 % 128)).filterMap fun m =>
    let x := fieldAt bs (8 + 2 * m) 2
    if field x 15 1 = 1 then some (m, field x 0 9) else none

/-- The members of a group for a partition, where the group is valid and its own (R379). -/
def State.groupFor (s : State) (ttag g : Nat) : Option (List (Nat × Nat)) :=
  let e := tget [] s.board.groups g
  let head := fieldAt e 0 8
  if field head 63 1 = 1 ∧ field head 32 16 = ttag then some (groupMembers e) else none

/-- The members of a group that core i reaches (R379): position and peer. -/
def State.reachedMembers (s : State) (i g : Nat) : List (Nat × Nat) :=
  match s.partOf? i with
  | some (_, q) =>
    ((s.groupFor q.ttag g).getD []).filter fun m => m.2 == s.board.peer || s.reachesPeer q m.2
  | none => []

/-- Item j of a command in this package: an MCAST's is the write to the package itself. -/
def State.moveOf (s : State) (op : EngineOp) (j : Nat) : Option Move :=
  match op with
  | .mcast _ _ _ _ => (op.move j).map fun m => { m with dst := s.ownPeer m.dst }
  | _ => op.move j

/-- The global address of an item's first remote byte (R191). -/
def Move.remote (m : Move) : Word := if m.srcLocal then m.dst else m.src

/-- The status of an item that fails before anything is transmitted (R182, R189). -/
def State.doomed (s : State) (i : Nat) (m : Move) : Option Nat :=
  let pnum := s.pnum i
  let side (a : Word) : Option Nat :=
    if malformed a ∨ a.toNat % m.align ≠ 0 then some stAddress
    else if s.dest pnum a = .noPeer then some stNoPeer
    else none
  if m.bad then some stAddress
  else
    match if m.srcLocal then none else side m.src with
    | some st => some st
    | none => if m.dstLocal then none else side m.dst

/-! ## Where a command stands -/

/-- The command that an item belongs to. -/
def State.cmd? (s : State) (r : ItemRef) : Option Cmd :=
  (s.core r.core).cmds.find? fun k => k.ctx == r.ctx.val && k.tl == r.tl

/-- The state with one command changed. -/
def State.onCmd (s : State) (i ctx tl : Nat) (f : Cmd → Cmd) : State :=
  s.onCore i fun c => { c with cmds := c.cmds.map fun k => if k.ctx = ctx ∧ k.tl = tl then f k else k }

/-- The state with an item in another phase; what it read drew on the free values (R219). -/
def State.setPhase (s : State) (r : ItemRef) (p : ItemPhase) : State :=
  { s.onCmd r.core r.ctx.val r.tl fun k => { k with items := k.items.set r.item p } with free := s.free + 1 }

/-- Earlier commands of a context that have not finished. -/
def Core.earlier (c : Core) (k : Cmd) : List Cmd := c.cmds.filter fun x => x.ctx == k.ctx && decide (x.tl < k.tl)

/-- Whether a command may start its items (R188, R229): a drain command waits for every earlier one, every command for
an earlier acquire, a release for the ordinary stream. -/
def State.cmdReady (s : State) (i : Nat) (k : Cmd) : Bool :=
  let e := (s.core i).earlier k
  (!k.drain || e.isEmpty) && !e.any (fun x => x.ord == .acq) && s.allAcked i k.after

/-- The count of a command that starts (R375), or its stall. -/
def State.startCmd (s : State) (i : Nat) (k : Cmd) : Bool × State :=
  if k.started then (true, s)
  else if s.admits (s.pnum i) 4 0 (hallOf i) then
    (true, (s.useUnit (s.pnum i) 4 (hallOf i)).onCmd i k.ctx k.tl fun k => { k with started := true })
  else (false, (s.onCmd i k.ctx k.tl fun k => { k with stalled := true }).stall (.command i k.ctx k.tl))

/-- An access of an item: a write or not, its line and its node, whether it was performed, whether it was
acknowledged. -/
structure ItemAccess where
  write : Bool
  line : Nat
  node : Nat
  performed : Bool
  acked : Bool
  /-- at its interface, where a page request or its turn keeps it (R369) -/
  there : Bool
  deriving DecidableEq, Repr

/-- An item that has ended, at whatever status. -/
def ItemPhase.ended : ItemPhase → Bool
  | .done | .failed _ => true
  | _ => false

/-- What has become of an item's read: performed, or gone to another package behind what left before it; its data back;
at its interface, where a page request or its turn keeps it (R369). -/
def ItemPhase.readAt : ItemPhase → Bool × Bool × Bool
  | .half _ | .held (some _) | .away (some _) | .waits (some _) => (true, true, false)
  | .served _ | .away none => (true, false, false)
  | .held none | .waits none => (false, false, true)
  | p => (p.ended, p.ended, false)

/-- What has become of an item's write, where `two` says that it has a read before it. -/
def ItemPhase.writeAt (two : Bool) : ItemPhase → Bool × Bool × Bool
  | .served _ => (true, false, false)
  | .away h => (!two || h.isSome, false, false)
  | .held h | .waits h => (false, false, !two || h.isSome)
  | p => (p.ended, p.ended, false)

/-- The lines that a write of n bytes at a touches. -/
def linesOf (a : Word) (n : Nat) : List Nat := (List.range (lineCount a n)).map (lineNo a + ·)

/-- The lines and nodes that the one item of an MCAST writes: at every member that it reaches (R201). -/
def State.mcastTouches (s : State) (i : Nat) (a : Word) (n g : Nat) : List (Nat × Nat) :=
  ((s.reachedMembers i g).map fun m =>
    let b := setBits a 48 9 m.2
    (linesOf b n).map fun l => (l, s.nodeFor (s.pnum i) b)).flatten

/-- The lines and nodes of one side of an item. -/
def State.touches (s : State) (i : Nat) (op : EngineOp) (m : Move) (write : Bool) : List (Nat × Nat) :=
  match op with
  | .mcast _ a n g => if write then s.mcastTouches i a n g else []
  | _ =>
    if write then (if m.dstLocal then [] else [(lineNo m.dst, s.nodeFor (s.pnum i) m.dst)])
    else if m.srcLocal then [] else [(lineNo m.src, s.nodeFor (s.pnum i) m.src)]

/-- The accesses of an item to global memory that were or will be transmitted. -/
def State.itemAccesses (s : State) (i : Nat) (op : EngineOp) (m : Move) (p : ItemPhase) : List ItemAccess :=
  if (s.doomed i m).isSome then []
  else
    let side (write : Bool) (f : Bool × Bool × Bool) : List ItemAccess :=
      (s.touches i op m write).map fun t =>
        { write := write, line := t.1, node := t.2, performed := f.1, acked := f.2.1, there := f.2.2 }
    side false p.readAt ++ side true (p.writeAt !m.srcLocal)

/-- The accesses that stand before those of item j of a command, with their classes (R180, R181): of earlier commands
of the context, and of the command's earlier items. -/
def State.accessesBefore (s : State) (i : Nat) (k : Cmd) (j : Nat) : List (Bool × Cls × ItemAccess) :=
  let of (own : Bool) (x : Cmd) (n : Nat) : List (Bool × Cls × ItemAccess) :=
    ((List.range n).map fun e =>
      match s.moveOf x.op e with
      | some m => (s.itemAccesses i x.op m ((x.items[e]?).getD .done)).map fun a => (own, x.cls, a)
      | none => []).flatten
  (((s.core i).earlier k).map fun x => of false x x.items.length).flatten ++ of true k j

/-- Whether an access of an item is held at its source behind an earlier one to a line of its own (R181). -/
def State.itemLineHeld (s : State) (i : Nat) (k : Cmd) (j : Nat) (touch : List (Nat × Nat)) : Bool :=
  (s.accessesBefore i k j).any fun (_, cls, x) =>
    touch.any (fun t => t.1 == x.line) && !x.acked && (cls != k.cls || cls != .o)

/-- The earlier accesses that an access of an item stands behind in class O (R180). Within one command, class O orders
reads among reads and writes among writes. -/
def State.itemBehind (s : State) (i : Nat) (k : Cmd) (j : Nat) (write : Bool) (touch : List (Nat × Nat)) :
    List ItemAccess :=
  (s.accessesBefore i k j).filterMap fun (own, cls, x) =>
    if cls = .o ∧ k.cls = .o ∧ touch.any (fun t => t.2 == x.node) ∧ !x.performed ∧ (!own || x.write == write) then some x
    else none

/-- Whether a served item of class O waits with its bytes for an earlier read of its source and node to land (R180,
R424). -/
def State.landsBehind (s : State) (i : Nat) (k : Cmd) (j : Nat) (m : Move) : Bool :=
  let touch := s.touches i k.op m false
  k.cls == .o && (s.accessesBefore i k j).any fun (_, cls, x) =>
    cls == .o && !x.write && !x.acked && touch.any fun t => t.2 == x.node

/-! ## How an item ends -/

/-- Commands that have finished leave, and the timelines advance (R188). -/
def Core.retire (c : Core) : Core :=
  let left := c.cmds.filter fun k => !k.items.all (· == .done)
  let tl := Vector.ofFn fun (x : Fin 4) =>
    match left.find? fun k => k.ctx == x.val with
    | some k => k.tl - 1
    | none => c.issued[x]
  { c with cmds := left, tl := tl }

/-- The state after finished commands of a core have left. -/
def State.retire (s : State) (i : Nat) : State := s.onCore i Core.retire

/-- An item ends with a status (R189, R190, R193): its record, its phase, its bytes, BSTALL, and its command where it
was the last. -/
def State.endItem (s : State) (r : ItemRef) (a : Word) (n status : Nat) : State :=
  match s.cmd? r with
  | none => s
  | some k =>
    let s := if status = stOk then s
      else s.recordFault r.core k.obj
        { addr := a, status := status, ctx := r.ctx.val, item := r.item, tlnum := r.tl }
    let s := s.setPhase r .done
    let s := if status = stOk ∧ (k.stalled ∨ k.late.contains r.item) then
        s.onCore r.core fun c => { c with bstall := c.bstall.set r.ctx true }
      else s
    let s := match k.obj with
      | some o => s.updateObj r.core o 0 n
      | none => s
    s.retire r.core

/-- What a write of a command leaves unsettled at a local address of its core (R219): the cores that read there. -/
def Cmd.writes (k : Cmd) (i : Nat) (a : Word) : OldPart :=
  { key := 0, old := 0, core := i, cmd := some (k.ctx, k.tl), obj := k.obj.map (localKey i),
    readers := if a.toNat < scratchBase then [i] else (List.range 16).map (memberCore (clusterOf i)) }

/-- The engine or the matrix unit writes local bytes; nothing where they cut a poisoned part (R399, R400). -/
def State.engineWrite (s : State) (i : Nat) (k : Cmd) (a : Word) (bs : List Byte) : Option State :=
  if partlyPoisoned s (localKey i a) bs.length then none
  else some ((s.keepOld (localKey i a) bs.length (k.writes i a)).storeLocal i a bs)

/-- The engine reads local bytes; nothing where they are poisoned (R399). -/
def State.engineRead (s : State) (i : Nat) (a : Word) (n : Nat) : Option (List Byte) :=
  if poisoned s (localKey i a) n then none else some (s.loadEngine i a n)

/-- An item whose data have returned is written to its local place and ends. -/
def State.landItem (s : State) (r : ItemRef) (k : Cmd) (m : Move) (bs : List Byte) : State :=
  if m.dstLocal then
    match s.engineWrite r.core k m.dst (bs.take m.n) with
    | some t => t.endItem r m.remote m.n stOk
    | none => s.endItem r m.remote m.n stPoison
  else s.endItem r m.remote m.n stOk

/-! ## The remote side -/

/-- The request of an item's remote side: its read, its write of bytes, or its atomic. -/
def EngineOp.readReq (op : EngineOp) (m : Move) : Req :=
  match op with
  | .ratom sub ty _ b e _ => .atomic sub ty b.toNat e.toNat
  | _ => .read m.n false

/-- What became of a request on an item's behalf. -/
def State.afterReach (t : State) (r : ItemRef) (half : Option (List Byte)) (ok : List Byte → ItemPhase) (g : Got) :
    State :=
  match g with
  | .done st bs => t.setPhase r (if st = stOk then ok bs else .failed st)
  | .held reps =>
    (t.setPhase r (.held half)).onCmd r.core r.ctx.val r.tl fun k => { k with reps := reps }
  | .stalled => t.onCmd r.core r.ctx.val r.tl fun k => { k with late := (r.item :: k.late).eraseDups }
  | .full | .away => t

/-- An item leaves for another package (R129): what it asks there. -/
def State.leaveItem (s : State) (r : ItemRef) (k : Cmd) (a : Word) (half : Option (List Byte)) (q : FarReq) : State :=
  (s.leave (peerOf a) (s.transferOf r.core k.cls (.access a q))).setPhase r (.away half)

/-- A transfer of an item on its way through the routers (R375, R376): whether it has come through, and the state, in
which it may wait at an exhausted counter. -/
def State.routedItem (s : State) (r : ItemRef) (k : Cmd) (write : Bool) (a : Word) (n : Nat) : Bool × State :=
  let key := 2 * r.item + (if write then 1 else 0)
  let id := (((2 ^ 20 + r.core) * 4 + r.ctx.val) * 2 ^ 32 + r.tl) * 2 ^ 10 + key
  let way := s.climbs r.core id (s.nodeFor (s.pnum r.core) a) k.cls (if write then unitsOf n else 1)
  match s.comesThrough (s.pnum r.core) k.cls way (tget 0 k.paid key) (.item r) with
  | (ok, paid, t) =>
    (ok, t.onCmd r.core r.ctx.val r.tl fun k =>
      { k with paid := tset k.paid key paid, late := if ok then k.late else (r.item :: k.late).eraseDups })

/-- What an item's read asks of another package. -/
def EngineOp.farRead (op : EngineOp) (m : Move) : FarReq :=
  match op with
  | .ratom sub ty _ b e _ => .atomic sub ty b.toNat e.toNat
  | _ => .read m.n false

/-- Whether a RATOM's result would cut a poisoned part of its local place (R228, R400): it fails and writes nothing. -/
def State.resultCut (s : State) (i : Nat) (op : EngineOp) (m : Move) : Bool :=
  match op with
  | .ratom _ _ _ _ _ _ => partlyPoisoned s (localKey i m.dst) m.n
  | _ => false

/-- The read side of an item is served, or leaves. -/
def State.readItem (s : State) (r : ItemRef) (k : Cmd) (m : Move) : State :=
  if s.resultCut r.core k.op m then s.setPhase r (.failed stPoison)
  else
    let (g, t) := s.reach (s.pnum r.core) m.src (k.op.readReq m) (.item r) k.reps
    if g = .away then t.leaveItem r k m.src none (k.op.farRead m)
    else t.afterReach r none (fun bs => if m.dstLocal then .served bs else .half bs) g

/-- The write side of an item is served, or leaves, with bytes already read or its local ones. -/
def State.writeItem (s : State) (r : ItemRef) (k : Cmd) (m : Move) (half : Option (List Byte)) : State :=
  match if m.srcLocal then s.engineRead r.core m.src m.n else half with
  | none => s.setPhase r (.failed stPoison)
  | some bs =>
    let s := if m.srcLocal then s.correct (localKey r.core m.src) m.n else s
    let ws := bs.mapIdx fun n b => (n, b)
    let (g, t) := s.reach (s.pnum r.core) m.dst (.write ws) (.item r) k.reps
    if g = .away then t.leaveItem r k m.dst half (.write ws)
    else t.afterReach r half (fun _ => .served []) g

/-- What one side of an item asks of its interface. -/
def Cmd.asks (k : Cmd) (m : Move) (write : Bool) : Req :=
  if write then .write ((List.range m.n).map fun n => (n, 0)) else k.op.readReq m

/-- An item that comes to its interface before its turn is translated there (R369). -/
def State.comeItem (s : State) (r : ItemRef) (k : Cmd) (m : Move) (write : Bool) (half : Option (List Byte)) :
    Ahead × State :=
  match s.lookAhead none (s.pnum r.core) (if write then m.dst else m.src) (k.asks m write) (.item r) k.reps with
  | (.held reps, t) =>
    (.held reps, (t.setPhase r (.held half)).onCmd r.core r.ctx.val r.tl fun k => { k with reps := reps })
  | (.clear, t) => (.clear, t.setPhase r (.waits half))
  | (.barred, t) => (.barred, t)

/-- One side of an item goes on behind its holds: it is served in its turn, or comes to its interface behind others that
wait there (R180, R369, R375). -/
def State.goItem (s : State) (r : ItemRef) (k : Cmd) (m : Move) (write : Bool) (half : Option (List Byte)) : State :=
  let touch := s.touches r.core k.op m write
  let behind := s.itemBehind r.core k r.item write touch
  if s.itemLineHeld r.core k r.item touch ∨ !behind.all (·.there) then s
  else
    match s.routedItem r k write (if write then m.dst else m.src) m.n with
    | (false, t) => t
    | (true, t) =>
      if behind.isEmpty then (if write then t.writeItem r k m half else t.readItem r k m)
      else if k.items[r.item]? = some (.waits half) then t
      else (t.comeItem r k m write half).2

/-- An item arrives at its destination, its holds over. -/
def State.sendItem (s : State) (r : ItemRef) (k : Cmd) (m : Move) (half : Option (List Byte)) : State :=
  if half.isNone ∧ !m.srcLocal then
    let ids := s.heldEntries r.core m.src m.n
    if ids.isEmpty then s.goItem r k m false half
    else (s.drainRead r.core m.src m.n).setPhase r (.behind ids)
  else s.goItem r k m true half

/-- Whether an item stands before one of its remote sides: the bytes it has read, where it has. -/
def State.atSide (s : State) (i : Nat) (p : ItemPhase) : Option (Option (List Byte)) :=
  match p with
  | .pending => some none
  | .half bs => some (some bs)
  | .waits half => some half
  | .behind ids => if s.allAcked i ids then some none else none
  | _ => none

/-- Whether an MCAST may be carried out: its length and its range (R201). -/
def mcastFits (a : Word) (n : Nat) : Bool :=
  decide (1 ≤ n) && decide (n ≤ 256) && decide (a.toNat % 256 + n ≤ 256) && !malformed (setBits a 48 9 0)

/-- The one item of an MCAST goes on (R201, R379): where no line holds it, the package's own copy is written and the
others leave for the switches as one transfer, which they replicate. A poisoned source fails it whole (R189). -/
def State.sendMcast (s : State) (r : ItemRef) (k : Cmd) (m : Move) (a : Word) (g : Nat) : State :=
  let to' := s.reachedMembers r.core g
  let away := to'.filter fun x => x.2 != s.board.peer
  match to'.head?, s.engineRead r.core m.src m.n with
  | none, _ => s
  | some _, none => s.endItem r a m.n stPoison
  | some _, some bs =>
    let s := s.correct (localKey r.core m.src) m.n
    let t := if to'.any (·.2 == s.board.peer) then s.goItem r k m true none else s
    match away.head? with
    | none => t
    | some x =>
      let gone (u : State) := u.leave x.2 (u.transferOf r.core k.cls (.access a (.mcast g bs)))
      if away.length < to'.length then
        match (t.cmd? r).bind fun k => k.items[r.item]? with
        | some (.served _) | some (.failed _) | some (.held _) => gone t
        | _ => t
      else
        let touch := s.touches r.core k.op m true
        if s.itemLineHeld r.core k r.item touch ∨ !(s.itemBehind r.core k r.item true touch).isEmpty then s
        else
          match s.routedItem r k true (setBits a 48 9 x.2) m.n with
          | (true, u) => (gone u).setPhase r (.away none)
          | (false, u) => u

/-- An engine item arrives at its destination (R361). -/
def State.arriveItem (s : State) (r : ItemRef) : State :=
  match s.cmd? r with
  | none => s
  | some k =>
    match s.moveOf k.op r.item, (k.items[r.item]?).bind (s.atSide r.core) with
    | some m, some half =>
      if !s.cmdReady r.core k then s
      else
        match s.startCmd r.core k with
        | (false, t) => t
        | (true, t) =>
          match k.op with
          | .mcast _ a n g => if mcastFits a n then t.sendMcast r k m a g else t
          | _ => if (t.doomed r.core m).isSome then t else t.sendItem r k m half
    | _, _ => s

/-- An item held by a page request is walked again (R367), after a reply to a request that its command shared with count n:
whether its walk succeeds now, and the state. Behind earlier items it stays at its interface (R369). -/
def State.rewalkItem (s : State) (r : ItemRef) (n : Nat) : Bool × State :=
  match s.cmd? r with
  | none => (false, s)
  | some k =>
    match s.moveOf k.op r.item, k.items[r.item]? with
    | some m, some (.held half) =>
      let write := !(half.isNone && !m.srcLocal)
      let k := { k with reps := again k.reps n }
      let back : ItemPhase := match half with
        | none => .pending
        | some bs => .half bs
      let s := (s.setPhase r back).onCmd r.core r.ctx.val r.tl fun x => { x with reps := k.reps }
      match s.comeItem r k m write half with
      | (.held _, t) => (false, t)
      | (g, t) =>
        let u := if (s.itemBehind r.core k r.item write (s.touches r.core k.op m write)).isEmpty then
            (if write then t.writeItem r k m half else t.readItem r k m)
          else t
        (g == .clear, u.onCmd r.core r.ctx.val r.tl fun x => { x with reps := walked x.reps })
    | _, _ => (false, s)

/-- An item held by a page request fails (R367). -/
def State.failHeld (s : State) (r : ItemRef) (status : Nat) : State :=
  match (s.cmd? r).bind fun k => k.items[r.item]? with
  | some (.held _) => s.setPhase r (.failed status)
  | _ => s

/-- Another package's answer to an item that has left for it (R129). -/
def State.answered (s : State) (r : ItemRef) (k : Cmd) (m : Move) (half : Option (List Byte)) (st : Nat)
    (bs : List Byte) : State :=
  if half.isSome ∨ m.srcLocal ∨ st ≠ stOk then s.endItem r m.remote m.n st
  else if !m.dstLocal then s.setPhase r (.half bs)
  else if s.landsBehind r.core k r.item m then s
  else s.landItem r k m bs

/-- The end of an item of an engine command (R189): its bytes landed, its failure, or another package's answer. -/
def State.engineItemEnds (s : State) (r : ItemRef) (k : Cmd) (m : Move) (outside : Reply) : State :=
  if !s.cmdReady r.core k then s
  else
    match s.startCmd r.core k with
    | (false, t) => t
    | (true, t) =>
      match k.items[r.item]?, outside with
      | some (.served bs), _ => if t.landsBehind r.core k r.item m then t else t.landItem r k m bs
      | some (.failed st), _ => t.endItem r m.remote m.n st
      | some (.away half), some (st, bs) => t.answered r k m half st bs
      | some .pending, _ =>
        (match t.doomed r.core m with
         | some st => t.endItem r m.remote m.n st
         | none => t)
      | _, _ => t

/-! ## Multicast (R201, R379) -/

/-- The failure of one member (R201): a record with the member's peer in the address. -/
def State.memberFault (s : State) (r : ItemRef) (k : Cmd) (a : Word) (m peer status : Nat) : State :=
  s.recordFault r.core k.obj
    { addr := setBits a 48 9 peer, status := status, ctx := r.ctx.val, item := m, tlnum := r.tl }

/-- The status that a member reports: the package's own write, the reach of the partition, or another package's answer;
none while it is not known. -/
def State.memberStatus (s : State) (i : Nat) (p : ItemPhase) (outside : List (Nat × Nat)) (peer : Nat) : Option Nat :=
  match s.partOf? i with
  | none => some stNoPeer
  | some (_, q) =>
    if peer = s.board.peer then
      (match p with
       | .served _ => some stOk
       | .failed st => some st
       | _ => none)
    else if !s.reachesPeer q peer then some stNoPeer
    else
      match p with
      | .served _ | .failed _ | .held _ | .away _ => tget? outside peer
      | _ => none

/-- The combined acknowledgement of an MCAST (R201, R379). -/
def State.combined (s : State) (r : ItemRef) (k : Cmd) (outside : List (Nat × Nat)) : State :=
  match k.op, k.items[r.item]?, s.partOf? r.core with
  | .mcast _ a n g, some p, some (_, q) =>
    let bytes := if 1 ≤ n ∧ n ≤ 256 then n else 0
    if p = .done ∨ !s.cmdReady r.core k then s
    else
      match s.startCmd r.core k with
      | (false, t) => t
      | (true, t) =>
        if !mcastFits a n then t.endItem r a bytes stAddress
        else
          match t.groupFor q.ttag g with
          | none => t.endItem r a bytes 0x14
          | some ms =>
            if ms.any fun m => (t.memberStatus r.core p outside m.2).isNone then t
            else
              let u := ms.foldl (fun (u : State) (m : Nat × Nat) =>
                match t.memberStatus r.core p outside m.2 with
                | some st => if st = stOk then u else u.memberFault r k a m.1 m.2 st
                | none => u) t
              u.endItem r a bytes stOk
  | _, _, _ => s

/-- COMBINED_ACKNOWLEDGEMENT (R201). -/
def execCombinedAcknowledgement (r : ItemRef) (outside : List (Nat × Nat)) (s : State) :
    Host.Outcome State Fault Refusal :=
  .next (match s.cmd? r with
    | some k => s.combined r k outside
    | none => s)

/-! ## Issue (R187, R195, R196) -/

/-- The items of a command whose reads meet the owner's buffer wait for what drains (R134). -/
def State.markReads (s : State) (i : Nat) (op : EngineOp) (items : List ItemPhase) : State × List ItemPhase :=
  if (s.ownEntries i).isEmpty then (s, items)
  else
    let reads (j : Nat) : Option Move := (op.move j).bind fun m => if m.srcLocal then none else some m
    let items' := items.mapIdx fun j p =>
      match reads j, p with
      | some m, .pending =>
        let ids := s.heldEntries i m.src m.n
        if ids.isEmpty then p else .behind ids
      | _, _ => p
    let hit (e : CombEntry) : Bool := (List.range items.length).any fun j =>
      match reads j with
      | some m => e.holds m.src m.n
      | none => false
    (s.drainOwn i hit, items')

/-- A command that passed every check takes its number (R187), adds its bytes to its object (R193), and is kept until it
finishes. -/
def State.beginCmd (s : State) (i : Nat) (k : Cmd) (bytes : Nat) : State :=
  let (s, items) := s.markReads i k.op k.items
  let s := s.addObjBytes i k.obj bytes
  let n := (s.core i).issued[k.ctx]! + 1
  (s.onCore i fun c =>
    { c with issued := c.issued.set! k.ctx n, cmds := c.cmds ++ [{ k with tl := n, items := items }] }).retire i

/-- Whether a context takes another command (R187). -/
def Core.contextFull (c : Core) (ctx : Nat) : Bool := decide (16 ≤ c.unfinished ctx)

/-- A local range of a command, checked (R125, R196); an empty one is not. -/
def Core.rangeTrap (c : Core) (u : Use) (a : Word) (n align : Nat) : Option Trap :=
  if n = 0 then none else (c.localDetail u a n align).map fun d => guardTrap d a

/-- The first trap of a list of checks. -/
def firstTrap (l : List (Option Trap)) : Option Trap := l.findSome? id

/-- The barrier object of a command, checked (R194, R196). -/
def Core.objTrap (c : Core) (o : Opnd) (a : Word) : Option Trap :=
  if o = .none then none else (c.objDetail a).map fun d => guardTrap d a

/-- A command as it is issued. -/
structure Issued where
  op : EngineOp
  items : List ItemPhase
  bytes : Nat
  trap : Option Trap
  after : List Nat := []
  /-- local ranges read as it is issued -/
  reads : List (Word × Nat) := []

/-- Reads of local ranges correct their single-bit errors (R398). -/
def State.correctLocal (s : State) (i : Nat) (l : List (Word × Nat)) : State :=
  l.foldl (fun (t : State) x => if x.2 = 0 then t else t.correct (localKey i x.1) x.2) s

/-- A command of a context: it stalls where the context is full, traps on its first failing check, and begins. The
body has S1, S2, the value of D and the state. -/
def engineCmd (o : OpM) (s : State) (body : Srcs → Word → State → Issued) : Host.Outcome State Fault Refusal :=
  issued (fieldsM o) anyLevel [o.d] s fun x s0 s1 =>
    let c := s0.self
    if c.contextFull o.ctx then .wait s0 stallWait
    else
      let k := body x (c.srcWord s.free 4 o.d 0) s0
      match firstTrap [c.objTrap o.s3 x.s3, k.trap] with
      | some t => .trap s0 t
      | none =>
        .ok ((s1.correctLocal s0.cur k.reads).beginCmd s0.cur
          { ctx := o.ctx, tl := 0, cls := o.cls, drain := o.ord == .drain, ord := o.ord,
            obj := if o.s3 = .none then none else some x.s3, op := k.op, items := k.items, after := k.after } k.bytes)

/-- Items that have not been performed. -/
def pendingItems (n : Nat) : List ItemPhase := List.replicate n .pending

/-- GET (R197). -/
def execGet (o : OpM) (s : State) : Host.Outcome State Fault Refusal :=
  engineCmd o s fun x d s0 =>
    let a := remoteAddr o x.s1
    let n := x.s2.toNat
    { op := .get d a n, items := pendingItems (lineCount a n), bytes := n, trap := s0.self.rangeTrap .store d n 1 }

/-- PUT (R197). -/
def execPut (o : OpM) (s : State) : Host.Outcome State Fault Refusal :=
  engineCmd o s fun x d s0 =>
    let a := remoteAddr o x.s1
    let n := x.s2.toNat
    { op := .put d a n, items := pendingItems (lineCount a n), bytes := n, trap := s0.self.rangeTrap .load d n 1 }

/-- The check of every element of a local walk (R196); a global one passes. -/
def Core.walkTrap (c : Core) (u : Use) (w : Walk) : Option Trap :=
  if w.isLocal then (List.range w.total).findSome? fun e => c.rangeTrap u (w.addr e) w.elem w.elem else none

/-- The local-guard trap of a walk record, or of a pair of them whose ktval no rule names (R196). -/
def walkPairTrap (free : Nat) : Trap := { cls := 0x05, detail := 0x08, tval := Config.freeBits free 72 64 }

/-- COPY (R199). -/
def execCopy (o : OpM) (s : State) : Host.Outcome State Fault Refusal :=
  engineCmd o s fun x d s0 =>
    let c := s0.self
    let i := s0.cur
    let none' : EngineOp := .get 0 0 0
    let fails (t : Option Trap) : Issued := { op := none', items := [], bytes := 0, trap := t }
    match firstTrap [c.rangeTrap .load x.s1 64 64, c.rangeTrap .load d 64 64] with
    | some t => fails (some t)
    | none =>
      let src? := walkOf? (s0.loadLocal i x.s1 64)
      let dst? := walkOf? (s0.loadLocal i d 64)
      let local' (u : Use) (w : Option Walk) := w.bind (c.walkTrap u)
      match firstTrap [local' .load src?, local' .store dst?], src?, dst? with
      | some t, _, _ => fails (some t)
      | none, none, _ => fails (some (guardTrap 0x08 x.s1))
      | none, _, none => fails (some (guardTrap 0x08 d))
      | none, some w, some v =>
        if w.elem ≠ v.elem ∨ w.total ≠ v.total ∨ (w.isLocal ∧ v.isLocal) then fails (some (walkPairTrap s0.free))
        else
          let hurt := poisoned s0 (localKey i x.s1) 64 || poisoned s0 (localKey i d) 64
          { op := .copy w v, items := List.replicate w.total (if hurt then .failed stPoison else .pending),
            bytes := w.total * w.elem, trap := none, reads := [(x.s1, 64), (d, 64)] }

/-- The signed indices of an array, read at issue (R200). -/
def State.indices (s : State) (i : Nat) (a : Word) (k : Nat) : List Int :=
  (List.range k).map fun j => signedOf 32 (leNat (s.loadLocal i (a + word (4 * j)) 4))

/-- Items of a gather: one whose index lies in a poisoned part fails (R399). -/
def State.indexedItems (s : State) (i : Nat) (a : Word) (k : Nat) : List ItemPhase :=
  (List.range k).map fun j => if poisoned s (localKey i (a + word (4 * j))) 4 then .failed stPoison else .pending

/-- The checks and items shared by GATHER and SCATTER (R196, R200). -/
def indexedCmd (o : OpM) (u : Use) (x : Srcs) (d : Word) (s0 : State) (op : List Int → EngineOp) : Issued :=
  let c := s0.self
  let k := o.imm.toNat % 128
  let n := tySize o.ty
  match firstTrap [c.rangeTrap .load x.s2 (4 * k) 4, c.rangeTrap u d (k * n) n] with
  | some t => { op := op [], items := [], bytes := 0, trap := some t }
  | none =>
    { op := op (s0.indices s0.cur x.s2 k), items := s0.indexedItems s0.cur x.s2 k, bytes := k * n, trap := none,
      reads := [(x.s2, 4 * k)] }

/-- GATHER (R200). -/
def execGather (o : OpM) (s : State) : Host.Outcome State Fault Refusal :=
  engineCmd o s fun x d s0 => indexedCmd o .store x d s0 fun idx => .gather d x.s1 (tySize o.ty) idx

/-- SCATTER (R200). -/
def execScatter (o : OpM) (s : State) : Host.Outcome State Fault Refusal :=
  engineCmd o s fun x d s0 => indexedCmd o .load x d s0 fun idx => .scatter d x.s1 (tySize o.ty) idx

/-- MCAST (R201). -/
def execMcast (o : OpM) (s : State) : Host.Outcome State Fault Refusal :=
  engineCmd o s fun x d s0 =>
    let n := x.s2.toNat
    let ok := 1 ≤ n ∧ n ≤ 256
    { op := .mcast d x.s1 n (o.imm.toNat % 1024), items := pendingItems 1, bytes := if ok then n else 0,
      trap := if ok then s0.self.rangeTrap .load d n 1 else none }

/-- RATOM (R228, R229). A release drains the core's entries (R133) and waits for its ordinary stream. -/
def execRatom (o : OpM) (s : State) : Host.Outcome State Fault Refusal :=
  let n := tySize o.ty
  let cas := o.sub.toNat == 9
  let rel := o.ord == .rel
  issued (fieldsM o) anyLevel [o.d] s fun x s0 s1 =>
    let c := s0.self
    let i := s0.cur
    let d := c.srcWord s.free 4 o.d 0
    if c.contextFull o.ctx then .wait s0 stallWait
    else
      match firstTrap [c.objTrap o.s3 x.s3, c.rangeTrap .store d n n, if cas then c.rangeTrap .load d n n else none] with
      | some t => .trap s0 t
      | none =>
        let (s, held) := s1.releasing i rel
        let e := if cas then word (leNat (s0.loadLocal i d n)) else 0
        let hurt := cas && poisoned s0 (localKey i d) n
        .ok ((s.correctLocal i (if cas then [(d, n)] else [])).beginCmd i
          { ctx := o.ctx, tl := 0, cls := o.cls, drain := o.ord == .drain, ord := o.ord,
            obj := if o.s3 = .none then none else some x.s3,
            op := .ratom o.sub.toNat o.ty (remoteAddr o x.s1) x.s2 e d,
            items := [if hurt then .failed stPoison else .pending], after := held } n)

end Sys2Proof.Machine
end

