-- ==== Sys2Proof/Machine/Peers.lean ====
section
/-! DEFINITION. Memory peers (R148), the far ends of channels that are no core, and the events that move packets. -/
namespace Sys2Proof.Machine

/-! ## Sides that are no core -/

/-- The far side of a channel that is no core. -/
def State.peer? (s : State) (chan : Nat) : Option PeerSide := s.peers.find? fun q => q.chan == chan

/-- The state with one such side changed. -/
def State.onPeer (s : State) (chan : Nat) (f : PeerSide → PeerSide) : State :=
  { s with peers := s.peers.map fun q => if q.chan = chan then f q else q }

/-- The state without one. -/
def State.dropPeer (s : State) (chan : Nat) : State := { s with peers := s.peers.filter fun q => q.chan != chan }

/-- A body to the core at the other end. -/
def State.peerSends (s : State) (q : PeerSide) (b : Body) : State := s.sendAs (s.tagOf q.part) q.core q.ep q.chan q.node .o b

/-- A message of type mt to the core (R148). -/
def State.peerMsg (s : State) (q : PeerSide) (mt : Nat) (bs : List Byte) : State :=
  (s.peerSends q (.msg q.sseq mt bs false none)).onPeer q.chan fun q =>
    { q with sseq := (q.sseq + 1) % 2 ^ 16, credit := q.credit + 1 }

/-- The next message that the core sent, taken with its credit returned. -/
def PeerSide.next? (q : PeerSide) : Option (Nat × Nat × List Byte × Bool) := q.arrived.find? fun m => m.1 == q.rseq

/-- The side after it has taken a message. -/
def State.peerTakes (s : State) (q : PeerSide) : State :=
  (s.peerSends q .credit).onPeer q.chan fun q =>
    { q with rseq := (q.rseq + 1) % 2 ^ 16, arrived := q.arrived.filter fun m => m.1 != q.rseq }

/-- The side aborts its channel at a state with a CAUSE (R148, R152): LOOPCNT 0 and NAMEIDX 0. -/
def State.peerAborts (s : State) (q : PeerSide) (state cause : Nat) : State :=
  (s.peerSends q (.close q.sseq (word (cause * 2 ^ 56 + state * 2 ^ 8 + 1)))).dropPeer q.chan

/-! ## Shapes (R148, R286) -/

/-- A transition, in short. -/
def tr (src dst act arg window : Nat) : Trans :=
  { src := src, dst := dst, act := act, arg := arg, window := window, reserved := 0 }

/-- The kinds of an encoding's types. -/
def kindsOf (e : List Byte) : List Nat := (List.range (nType e)).map fun k => (typeEnt e k).kind

/-- WINDOW of a memory shape's next transition. -/
def shapeWindow (e : List Byte) : Nat := (transEnt e 3).window

/-- MEMREAD, core side. -/
def isMemRead (e : List Byte) : Bool :=
  let w := shapeWindow e
  nState e == 3 && nType e == 4 && (kindsOf e).getD 0 9 == 1 && decide ((kindsOf e).getD 1 9 ≤ 2)
    && (kindsOf e).drop 2 == [4, 4] && w != 0
    && transitions e == [tr 0 1 0 0 0, tr 0 0 6 0 0, tr 1 2 1 1 0, tr 2 1 3 2 w, tr 2 0 3 3 0]

/-- MEMWRITE, core side. -/
def isMemWrite (e : List Byte) : Bool :=
  let w := shapeWindow e
  nState e == 4 && nType e == 5 && (kindsOf e).getD 0 9 == 1 && decide ((kindsOf e).getD 1 9 ≤ 2)
    && (kindsOf e).drop 2 == [4, 4, 0] && w != 0
    && transitions e == [tr 0 1 0 0 0, tr 0 0 6 0 0, tr 1 2 0 1 0, tr 2 1 2 2 w, tr 2 3 2 3 0, tr 3 0 1 4 0]

/-- MATCMD, core side (R286). -/
def isMatCmd (e : List Byte) : Bool :=
  nState e == 4 && kindsOf e == [0, 1, 0]
    && transitions e == [tr 0 1 0 0 0, tr 0 0 6 0 0, tr 1 2 1 2 0, tr 2 3 0 1 0, tr 2 0 6 0 0, tr 3 2 1 2 0]

/-! ## What a memory peer does -/

/-- The bytes that buffered stores of the other cores of the reader's cluster hold of a range, newest last (R134). -/
def State.bufferedFor (s : State) (i : Nat) (a : Word) (n : Nat) : List (Option Byte) :=
  let es := (s.cluster (clusterOf i)).comb.filter fun e => e.owner != i
  (List.range n).map fun k =>
    es.foldl (fun (r : Option Byte) e =>
      match tget? e.bytes ((a.toNat + k) % 64) with
      | some b => if e.line = (a.toNat + k) / 64 then some b else r
      | none => r) none

/-- How the lines of an item end. -/
inductive Lines where
  | done (bytes : List Byte)
  | failed (status : Nat)
  /-- a line misses, or waits, at this address with this request -/
  | stops (a : Word) (r : Req)

/-- Whether a write that the channel's peer has read in the buffer is on its way to its line: a read there waits for it,
since two reads performed in order never go back in the coherence order (R209). -/
def State.tookAt (s : State) (q : PeerSide) (a : Word) : Bool :=
  q.took.any fun id => s.flight.any fun x => x.id == id && !x.done && x.line == some (lineNo a)

/-- A line of an item read over a channel, buffered stores included (R134). -/
def State.readLine (s : State) (q : PeerSide) (a : Word) (n : Nat) : Served × State :=
  let held := s.bufferedFor q.core a n
  if held.all (·.isSome) then (.done stOk (held.map (·.getD 0)), s)
  else if s.tookAt q a then (.waits, s)
  else
    match s.serve q.part a (.read n false) with
    | (.done st bs, t) => (.done st (bs.mapIdx fun k b => ((held[k]?).getD none).getD b), t)
    | r => r

/-- The lines of a range, each served in turn; all of them or none take effect. -/
def State.overLines (serve : State → Word → Nat × Nat → Served × State) (req : Nat × Nat → Req) (a : Word) :
    List (Nat × Nat) → State → List Byte → Lines × State
  | [], s, bs => (.done bs, s)
  | l :: r, s, bs =>
    match serve s (a + word l.1) l with
    | (.done st x, t) => if st = stOk then State.overLines serve req a r t (bs ++ x) else (.failed st, t)
    | _ => (.stops (a + word l.1) (req l), s)

/-- Whether every byte of an item lies behind the peer's own interface. -/
def State.atNode (s : State) (q : PeerSide) (a : Word) : Option Nat :=
  match s.dest q.part a with
  | .malformed => some stAddress
  | .here n _ _ => if n = q.node then none else some stNoPeer
  | _ => some stNoPeer

/-- An item at a memory peer: its bytes, or its failure, or a wait behind a page request. -/
def State.peerItem (s : State) (q : PeerSide) (state : Nat) (a : Word) (n : Nat) (write : Option (List Byte))
    (k : State → List Byte → State) : State :=
  match s.atNode q a with
  | some st => s.peerAborts q state st
  | none =>
    let parts := (List.range (lineCount a n)).map (linePart a n)
    let bytesOf (l : Nat × Nat) : List Byte := ((write.getD []).drop l.1).take l.2
    let req (l : Nat × Nat) : Req := match write with
      | some _ => .write ((bytesOf l).mapIdx fun k b => (k, b))
      | none => .read l.2 false
    let serve (t : State) (b : Word) (l : Nat × Nat) : Served × State := match write with
      | some _ => t.serve q.part b (req l)
      | none => t.readLine q b l.2
    match State.overLines serve req a parts s [] with
    | (.done bs, t) =>
      let took := if write.isSome then [] else
        ((t.cluster (clusterOf q.core)).comb.filter fun e => e.owner != q.core && e.holds a n).map (·.id)
      let live (id : Nat) : Bool := ((t.cluster (clusterOf q.core)).comb.any fun e => e.id == id)
        || t.flight.any fun x => x.id == id
      k (t.onPeer q.chan fun q => { q with took := q.took.filter live ++ took }) bs
    | (.failed st, _) => s.peerAborts q state st
    | (.stops b r, _) =>
      match s.reach q.part b r (.peer q.chan) q.reps with
      | (.held reps, t) => t.onPeer q.chan fun q => { q with held := true, reps := reps }
      | (.done st _, t) => t.peerAborts q state st
      | (_, t) => t

/-- A request reaches the peer (R148): checked, then begun. -/
def State.peerRequest (s : State) (q : PeerSide) (bs : List Byte) : State :=
  let (a, n, d, zero) := requestOf bs
  let t := s.peerTakes q
  if n = 0 ∨ 65535 < n ∨ shapeWindow q.enc + 1 < n ∨ !zero then
    match t.peer? q.chan with
    | some r => t.peerAborts r 1 stAddress
    | none => t
  else
    t.onPeer q.chan fun q =>
      { q with phase := if q.write then .writing a n d 0 false else .reading a n d 0 false, reps := [] }

/-- One action of a memory peer (R148): a request checked, an item sent or written, a label or the ack sent. -/
def State.memPeer (s : State) (q : PeerSide) : State :=
  let size := msgSize (typeEnt q.enc 1)
  let room := decide (q.credit + 1 ≤ q.room)
  if q.held then s
  else
    match q.phase with
    | .ready =>
      match q.next? with
      | some (_, _, bs, poison) => if poison then s.peerAborts q 1 stPoison else s.peerRequest q bs
      | none => s
    | .reading a n d k label =>
      if !room then s
      else if label then
        if k = n then (s.peerMsg q 3 (leBytes 8 3)).onPeer q.chan fun q => { q with phase := .ready }
        else (s.peerMsg q 2 (leBytes 8 2)).onPeer q.chan fun q => { q with phase := .reading a n d k false }
      else
        let x := itemAt a d k
        let own := s.heldEntries q.core x size
        if !own.isEmpty then (s.drainRead q.core x size).onPeer q.chan fun q => { q with behind := q.behind ++ own }
        else if !s.allAcked q.core q.behind then s
        else
          s.peerItem q 1 x size none fun t bs =>
            (t.peerMsg q 1 bs).onPeer q.chan fun q => { q with phase := .reading a n d (k + 1) true, behind := [] }
    | .writing a n d k label =>
      match q.next? with
      | none => s
      | some (_, mt, bs, poison) =>
        if !label then
          if poison then s.peerAborts q 1 stPoison
          else
            s.peerItem q 1 (itemAt a d k) size (some bs) fun t _ =>
              (t.peerTakes q).onPeer q.chan fun q => { q with phase := .writing a n d (k + 1) true }
        else if mt = 2 then
          (s.peerTakes q).onPeer q.chan fun q => { q with phase := .writing a n d k false }
        else if !room then s
        else
          let t := s.peerTakes q
          match t.peer? q.chan with
          | some r =>
            (t.peerMsg r 4 (leBytes 8 (k % 2 ^ 16 * 2 ^ 16))).onPeer q.chan fun q => { q with phase := .ready }
          | none => t

/-- MEMORY_PEER_REQUEST (R148). -/
def execMemoryPeerRequest (chan : Nat) (s : State) : Host.Outcome State Fault Refusal :=
  .next (match s.peer? chan with
    | some q => if q.matrix then s else s.memPeer q
    | none => s)

/-! ## Packets at such a side -/

/-- A request reaches a memory peer or a matrix unit, which answers at once (R148, R160, R286). -/
def State.sideRequest (s : State) (p : Packet) (r : ConnReq) : State :=
  let kind := nodeKind p.dst
  let answer (t : State) (st : Nat) := t.sendAs (s.tagOf r.part) r.core r.ep r.chan p.dst .o (.answer st (s.asSeen p.dst) 0)
  let reads := isMemRead r.enc
  let writes := isMemWrite r.enc
  let ok := if kind = 5 then isMatCmd r.enc else reads || writes
  if !ok then answer s 0x0D
  else
    let q : PeerSide :=
      { chan := r.chan, node := p.dst, part := r.part, core := r.core, ep := r.ep, enc := r.enc,
        write := writes && kind != 5, matrix := kind == 5, room := inMsg r.enc }
    answer { s with peers := s.peers ++ [q] } stOk

/-- What a packet does at a side that is no core. -/
def State.deliverSide (s : State) (p : Packet) : State :=
  match p.body with
  | .msg seq mt bs poison _ => s.onPeer p.chan fun q => { q with arrived := q.arrived ++ [(seq, mt, bs, poison)] }
  | .credit => s.onPeer p.chan fun q => { q with credit := q.credit - 1 }
  | .close _ w =>
    match s.peer? p.chan with
    | some q =>
      if bits w 48 1 = 1 then (s.peerSends q (.close q.sseq (word (2 ^ 48 + 1)))).dropPeer q.chan
      else s.dropPeer q.chan
    | none => s
  | .request r => s.sideRequest p r
  | .withdraw => s.dropPeer p.chan
  | .redirect c e =>
    match s.peer? p.chan with
    | some q =>
      (s.peerSends q (.redirected ((q.sseq + 2 ^ 16 - 1) % 2 ^ 16))).onPeer q.chan fun q => { q with core := c, ep := e }
    | none => s
  | _ => s

/-- A packet for such a side of this package arrives there. -/
def State.arriveSide (s : State) (id : Nat) (mine : Body → Bool) : State :=
  match s.packet? id with
  | none => s
  | some p =>
    let k := nodeKind p.dst
    if mine p.body ∧ (k = 1 ∨ k = 2 ∨ k = 3 ∨ k = 5) then
      (match s.routed p with
       | (false, u) => u
       | (true, u) => (u.takeOff p).deliverSide p)
    else s

/-- A packet arrives at a core or at another side. -/
def State.arriveAny (s : State) (id : Nat) (mine : Body → Bool) : State :=
  match s.packet? id with
  | some p => if p.dst < Config.coreCount ∨ 2 ^ 24 ≤ p.dst then s.arrive id mine false else s.arriveSide id mine
  | none => s

/-- MESSAGE_ARRIVAL (R145): a message, or a word on a LINK port (R147). -/
def execMessageArrival (packet : Nat) (s : State) : Host.Outcome State Fault Refusal :=
  .next (match (s.packet? packet).map (·.body.isWord) with
    | some true => s.arrive packet Body.isWord true
    | _ => s.arriveAny packet Body.isMsg)

/-- CREDIT_RETURN (R142). -/
def execCreditReturn (packet : Nat) (s : State) : Host.Outcome State Fault Refusal :=
  .next (s.arriveAny packet fun b => b == .credit)

/-- CLOSE_NOTICE (R153). -/
def execCloseNotice (packet : Nat) (s : State) : Host.Outcome State Fault Refusal :=
  .next (s.arriveAny packet fun
    | .close _ _ | .unadopted _ _ => true
    | _ => false)

/-- HOLD_NOTICE (R174). -/
def execHoldNotice (packet : Nat) (s : State) : Host.Outcome State Fault Refusal :=
  .next (if (s.packet? packet).any fun p => p.body == .hold then s.arrive packet Body.isHold true else s)

/-- RELEASE_NOTICE (R174). -/
def execReleaseNotice (packet : Nat) (s : State) : Host.Outcome State Fault Refusal :=
  .next (if (s.packet? packet).any fun p => p.body == .release then s.arrive packet Body.isHold true else s)

/-- CONNECTION_REQUEST (R160). -/
def execConnectionRequest (packet : Nat) (s : State) : Host.Outcome State Fault Refusal :=
  .next (s.arriveAny packet fun
    | .request _ => true
    | _ => false)

/-- ACCEPTOR_ANSWER (R160). -/
def execAcceptorAnswer (packet : Nat) (s : State) : Host.Outcome State Fault Refusal :=
  .next (s.arrive packet (fun
    | .answer _ _ _ => true
    | _ => false) false)

/-- CONFIRMATION (R160). -/
def execConfirmation (packet : Nat) (s : State) : Host.Outcome State Fault Refusal :=
  .next (s.arrive packet (fun b => b == .confirm) false)

/-- WITHDRAWAL (R160). -/
def execWithdrawal (packet : Nat) (s : State) : Host.Outcome State Fault Refusal :=
  .next (s.arriveAny packet fun b => b == .withdraw)

/-- ADOPTED_NOTICE (R149). -/
def execAdoptedNotice (packet : Nat) (s : State) : Host.Outcome State Fault Refusal :=
  .next (s.arrive packet (fun
    | .adopted _ _ => true
    | _ => false) false)

/-- REDIRECT (R149). -/
def execRedirect (packet : Nat) (s : State) : Host.Outcome State Fault Refusal :=
  .next (s.arriveAny packet fun
    | .redirect _ _ => true
    | _ => false)

/-- REDIRECT_ANSWER (R149). -/
def execRedirectAnswer (packet : Nat) (s : State) : Host.Outcome State Fault Refusal :=
  .next (s.arrive packet (fun
    | .redirected _ => true
    | _ => false) false)

end Sys2Proof.Machine
end

