-- ==== Sys2Proof/Machine/Block.lean ====
section
/-! DEFINITION. Block formats (R244 to R247): decoding of MX and DX elements, and the two quantisers. -/
namespace Sys2Proof.Machine

/-- The formats of a DX block (R246). -/
def isDx : Ty → Bool
  | .dx8 | .dx4 => true
  | _ => false

/-- The block formats: the DX formats and the MX element formats (R267). -/
def isBlock : Ty → Bool
  | .dx8 | .dx4 | .mxint8 | .e4m3 | .e5m2 | .e2m3 | .e3m2 | .e2m1 => true
  | _ => false

/-- M of a DX format (R247). -/
def dxMax : Ty → Nat
  | .dx8 => 63
  | _ => 3

/-- B of a DX format. -/
def dxBias : Ty → Nat
  | .dx8 => 132
  | _ => 128

/-- D of a DX format. -/
def dxDepth : Ty → Nat
  | .dx8 => 16
  | _ => 8

/-- Bits of the magnitude of a DX format (R246). -/
def dxBits : Ty → Nat
  | .dx8 => 6
  | _ => 2

/-- A value multiplied by 2^k. -/
def FVal.shift (v : FVal) (k : Int) : FVal :=
  match v with
  | .num s m e => .num s m (e + k)
  | v => v

/-- An element of an MX block with scale X (R244). -/
def mxDecode (ty : Ty) (scale x : Nat) : FVal :=
  if scale = 255 then .qnan
  else if ty = .mxint8 then
    let v := intOf .i8 x
    .num (decide (v < 0)) v.natAbs ((scale : Int) - 127 - 6)
  else (unpack ty x).shift ((scale : Int) - 127)

/-- An element of a DX block with its exponent pair (R246). -/
def dxDecode (ty : Ty) (pair x : Nat) : FVal :=
  let k := dxBits ty
  let m := field x 0 k
  let e := field pair (if field x k 1 = 1 then 8 else 0) 8
  if m = 0 then .num false 0 0
  else if e = 255 then .qnan
  else .num (field x (k + 1) 1 == 1) m ((e : Int) - dxBias ty)

/-- An element of a block with its scale word (R244, R246, R268). -/
def blockDecode (ty : Ty) (scale x : Nat) : FVal :=
  if isDx ty then dxDecode ty (scale % 65536) x else mxDecode ty (scale % 256) x

/-- What a quantiser gives: the scale, the elements with their events, and whether the block is a NaN (kev10). -/
structure Quantised where
  scale : Nat
  elems : List FRes
  nan : Bool
  deriving DecidableEq, Repr, Inhabited

/-- Inputs are scaled by 2^1074, at which every finite floating value is an integer. -/
def quantShift : Int := 1074

/-- The scaled magnitude of a finite value. -/
def magnitude : FVal → Nat
  | .num _ m e => scaleNum m (e + quantShift)
  | _ => 0

/-- Whether a value is finite. -/
def FVal.finite : FVal → Bool
  | .num _ _ _ => true
  | _ => false

/-- emax of an MX element format (R245). -/
def mxEmax : Ty → Int
  | .e4m3 => 8
  | .e5m2 => 15
  | .e2m3 => 2
  | .e3m2 => 4
  | .e2m1 => 2
  | _ => 0

/-- One element of an MX block: rounded to nearest even and clamped, with the events of its rounding, kev2 to kev4, and
kev8 and kev9 (R245, R249). -/
def mxElement (ty : Ty) (scale : Nat) (v : FVal) : FRes :=
  let x := magnitude v
  let k := quantShift + ((scale : Int) - 127)
  if ty = .mxint8 then
    let p := scaleNum x (6 - k)
    let q := scaleDen 1 (6 - k)
    let n := min 127 (roundInt .rne false p q)
    let y : Int := if v.neg then -(n : Int) else n
    { bits := (y % 256).toNat
      ev := ev 4 (n * q != p) ||| ev 8 (decide (127 < roundInt .rne false p q)) ||| ev 9 (n == 0 && x != 0) }
  else
    let r := roundTo ty .rne true v.neg (scaleNum x (-k)) (scaleDen 1 (-k))
    { bits := r.bits
      ev := r.ev ||| ev 8 (r.ev.getLsbD 2)
        ||| ev 9 (x != 0 && r.bits % (fmtOf ty).signBit == 0) }

/-- The MX quantiser (R245). -/
def mxQuantise (ty : Ty) (vs : List FVal) : Quantised :=
  if vs.any fun v => !v.finite then
    { scale := 255, elems := vs.map fun _ => { bits := 0 }, nan := true }
  else
    let a := (vs.map magnitude).foldl max 0
    if a = 0 then { scale := 0, elems := vs.map fun _ => { bits := 0 }, nan := false }
    else
      let x := (max 0 (min 254 (floorLog2 a 1 - quantShift - mxEmax ty + 127))).toNat
      { scale := x, elems := vs.map (mxElement ty x), nan := false }

/-- Code(x, e) of R247 for a scaled magnitude. -/
def dxCode (ty : Ty) (x e : Nat) : Nat :=
  let k := (dxBias ty : Int) - e - quantShift
  roundInt .rne false (scaleNum x k) (scaleDen 1 k)

/-- Mag(x, e) of R247. -/
def dxMag (ty : Ty) (x e : Nat) : Nat := if e = 254 then min (dxCode ty x e) (dxMax ty) else dxCode ty x e

/-- Err(x, e) of R247, scaled; none is infinite. -/
def dxErr (ty : Ty) (x e : Nat) : Option Nat :=
  let m := dxMag ty x e
  if dxMax ty < m then none
  else
    let y := scaleNum m (quantShift + e - dxBias ty)
    some (if y ≤ x then x - y else y - x)

/-- Cover(S) of R247. -/
def dxCover (ty : Ty) (xs : List Nat) : Nat :=
  ((List.range 255).find? fun e => xs.all fun x => decide (dxCode ty x e ≤ dxMax ty)).getD 254

/-- The smaller of two errors. -/
def minErr : Option Nat → Option Nat → Option Nat
  | none, b => b
  | a, none => a
  | some a, some b => some (min a b)

/-- a below b, none being infinite. -/
def ltErr : Option Nat → Option Nat → Bool
  | some a, some b => decide (a < b)
  | some _, none => true
  | none, _ => false

/-- The total of errors. -/
def sumErr (es : List (Option Nat)) : Option Nat :=
  es.foldl (fun t e =>
    match t, e with
    | some a, some b => some (a + b)
    | _, _ => none) (some 0)

/-- The search for E1 below E0 (R247): n candidates are left, the next one is e. -/
def dxSearch (ty : Ty) (xs : List Nat) (e0 : Nat) (n e : Nat) (best : Option Nat) (e1 : Nat) : Nat :=
  match n with
  | 0 => e1
  | n + 1 =>
    let t := sumErr (xs.map fun x => minErr (dxErr ty x e0) (dxErr ty x e))
    if ltErr t best then dxSearch ty xs e0 n (e - 1) t e else dxSearch ty xs e0 n (e - 1) best e1

/-- One element of a DX block under a selector and its exponent, with kev4, kev5 and kev9 (R247, R249). -/
def dxElement (ty : Ty) (v : FVal) (sel : Bool) (e : Nat) : FRes :=
  let x := magnitude v
  let m := dxMag ty x e
  let k := dxBits ty
  { bits := if m = 0 then 0 else (if v.neg then 2 ^ (k + 1) else 0) + (if sel then 2 ^ k else 0) + m
    ev := ev 4 (dxErr ty x e != some 0) ||| ev 5 (decide (dxMax ty < dxCode ty x e)) ||| ev 9 (m == 0 && x != 0) }

/-- The DX quantiser (R247). An input that fits no exponent counts as infinite without SAT, with kev2. -/
def dxQuantise (ty : Ty) (sat : Bool) (vs : List FVal) : Quantised :=
  let big (v : FVal) : Bool := !sat && v.finite && decide (dxMax ty < dxCode ty (magnitude v) 254)
  let fits (v : FVal) : Bool := v.finite && !big v
  let xs := (vs.filter fits).map magnitude
  let cover := dxCover ty xs
  if vs.all fits then
    let n := cover - (cover - dxDepth ty)
    let e1 := dxSearch ty xs cover n (cover - 1) (sumErr (xs.map fun x => dxErr ty x cover)) cover
    { scale := cover + 256 * e1
      elems := vs.map fun v =>
        let x := magnitude v
        if ltErr (dxErr ty x e1) (dxErr ty x cover) then dxElement ty v true e1 else dxElement ty v false cover
      nan := false }
  else
    { scale := 255 + 256 * cover
      elems := vs.map fun v =>
        if fits v then dxElement ty v true cover else { bits := 1, ev := ev 2 (big v) }
      nan := true }

/-- The quantiser of a block format (R267). -/
def quantise (ty : Ty) (sat : Bool) (vs : List FVal) : Quantised :=
  if isDx ty then dxQuantise ty sat vs else mxQuantise ty vs

end Sys2Proof.Machine
end

