-- ==== Sys2Proof/Machine/Vector.lean ====
section
/-! DEFINITION. Family 5, the vector instructions (R250 to R271). -/
namespace Sys2Proof.Machine

/-! ## Lanes -/

/-- Elements of a type in a register (R251). -/
def laneCount (ty : Ty) : Nat := 256 / tyBits ty

/-- ImmElem (R252). -/
def immElem (ty : Ty) (imm : BitVec 32) : Nat :=
  match ty with
  | .fp32 => imm.toNat
  | .fp16 | .bf16 => imm.toNat % 65536
  | .fp64 => (convert .fp32 .fp64 .rne false imm.toNat).bits
  | _ => lowBits (tyBits ty) (if tySigned ty then imm.toInt else (imm.toNat : Int))

/-- Element i of the operand B (R252): the v register of S2, the low bits of a word, or the immediate. -/
def elemB (o : OpA) (x : Srcs) (v : VReg) (i : Nat) : Nat :=
  match o.s2 with
  | .v _ => elem (tyBits o.ty) v i
  | .none => immElem o.ty o.imm
  | _ => patternOf o.ty x.s2

/-- The core with elements of D written and their events counted (R253, R254): the elements that are not listed keep
their values, undefined ones where D was freed. -/
def Core.putLanes (c : Core) (free : Nat) (d : Opnd) (w : Nat) (rs : List (Nat × FRes)) : Core :=
  (c.setDstV d (rs.foldl (fun v r => setElem w v r.1 r.2.bits) (c.srcV free 4 d))).count (rs.map (·.2.ev))

/-- A lane instruction (R256): each active element of D from those of S1, B and S3, under the resolved mode. -/
def laneOp (o : OpA) (s : State) (f : Rm → Nat → Nat → Nat → FRes) : Host.Outcome State Fault Refusal :=
  let w := tyBits o.ty
  issuedV (fieldsA o) anyLevel [] (laneCount o.ty) s fun act x s0 s1 =>
    let c := s0.self
    let a := c.srcV s.free 1 o.s1
    let b := c.srcV s.free 2 o.s2
    let z := c.srcV s.free 3 o.s3
    let rs := act.map fun i => (i, f (c.rm o.rm) (elem w a i) (elemB o x b i) (elem w z i))
    .ok (s1.setSelf (s1.self.putLanes s.free o.d w rs))

/-- An integer lane result (R255): clamped under SAT with kev5, and otherwise wrapped. -/
def laneInt (ty : Ty) (sat : Bool) (x : Int) : FRes :=
  if sat then placeInt ty true x else { bits := lowBits (tyBits ty) x }

/-- An arithmetic lane instruction: integer or floating as TY gives (R256). -/
def arithOp (o : OpA) (s : State) (int : Int → Int → Int) (flt : Rm → Nat → Nat → FRes) :
    Host.Outcome State Fault Refusal :=
  laneOp o s fun rm a b _ =>
    if isFloat o.ty then flt rm a b else laneInt o.ty o.sat (int (intOf o.ty a) (intOf o.ty b))

/-- VADD (R256). -/
def execVadd (o : OpA) (s : State) : Host.Outcome State Fault Refusal :=
  arithOp o s (· + ·) fun rm a b => fAdd o.ty rm o.sat false a b

/-- VSUB (R256). -/
def execVsub (o : OpA) (s : State) : Host.Outcome State Fault Refusal :=
  arithOp o s (· - ·) fun rm a b => fAdd o.ty rm o.sat true a b

/-- VMUL (R256). -/
def execVmul (o : OpA) (s : State) : Host.Outcome State Fault Refusal :=
  arithOp o s (· * ·) fun rm a b => fMul o.ty rm o.sat a b

/-- VFMA (R256). -/
def execVfma (o : OpA) (s : State) : Host.Outcome State Fault Refusal :=
  laneOp o s fun rm a b c => fFma o.ty rm o.sat false false a b c

/-- VFMS (R256). -/
def execVfms (o : OpA) (s : State) : Host.Outcome State Fault Refusal :=
  laneOp o s fun rm a b c => fFma o.ty rm o.sat false true a b c

/-- VFNMA (R256). -/
def execVfnma (o : OpA) (s : State) : Host.Outcome State Fault Refusal :=
  laneOp o s fun rm a b c => fFma o.ty rm o.sat true false a b c

/-- VMIN (R257). -/
def execVmin (o : OpA) (s : State) : Host.Outcome State Fault Refusal :=
  arithOp o s min fun _ a b => fMinMax o.ty false a b

/-- VMAX (R257). -/
def execVmax (o : OpA) (s : State) : Host.Outcome State Fault Refusal :=
  arithOp o s max fun _ a b => fMinMax o.ty true a b

/-- A change of the sign bit without an event; a NaN gives the canonical NaN (R256). -/
def signOp (ty : Ty) (flip : Bool) (a : Nat) : FRes :=
  let s := (fmtOf ty).signBit
  { bits := if (unpack ty a).isNan then nanOf ty else if flip ∧ a < s then a + s else a % s }

/-- VABS (R256). -/
def execVabs (o : OpA) (s : State) : Host.Outcome State Fault Refusal :=
  laneOp o s fun _ a _ _ =>
    if isFloat o.ty then signOp o.ty false a else laneInt o.ty o.sat (intOf o.ty a).natAbs

/-- VNEG (R256). -/
def execVneg (o : OpA) (s : State) : Host.Outcome State Fault Refusal :=
  laneOp o s fun _ a _ _ =>
    if isFloat o.ty then signOp o.ty true a else laneInt o.ty o.sat (-(intOf o.ty a))

/-- VDIV (R258). -/
def execVdiv (o : OpA) (s : State) : Host.Outcome State Fault Refusal :=
  laneOp o s fun rm a b _ => fDiv o.ty rm o.sat a b

/-- VSQRT (R258). -/
def execVsqrt (o : OpA) (s : State) : Host.Outcome State Fault Refusal :=
  laneOp o s fun rm a _ _ => fSqrt o.ty rm a

/-- VRCP (R258). -/
def execVrcp (o : OpA) (s : State) : Host.Outcome State Fault Refusal :=
  laneOp o s fun rm a _ _ => fRcp o.ty rm o.sat a

/-- VRSQ (R258). -/
def execVrsq (o : OpA) (s : State) : Host.Outcome State Fault Refusal :=
  laneOp o s fun rm a _ _ => fRsq o.ty rm o.sat a

/-- VEXP2 (R258). -/
def execVexp2 (o : OpA) (s : State) : Host.Outcome State Fault Refusal :=
  laneOp o s fun rm a _ _ => fExp2 o.ty rm o.sat a

/-- VLOG2 (R258). -/
def execVlog2 (o : OpA) (s : State) : Host.Outcome State Fault Refusal :=
  laneOp o s fun rm a _ _ => fLog2 o.ty rm a

/-- VAND (R259). -/
def execVand (o : OpA) (s : State) : Host.Outcome State Fault Refusal :=
  laneOp o s fun _ a b _ => { bits := a &&& b }

/-- VOR (R259). -/
def execVor (o : OpA) (s : State) : Host.Outcome State Fault Refusal :=
  laneOp o s fun _ a b _ => { bits := a ||| b }

/-- VXOR (R259). -/
def execVxor (o : OpA) (s : State) : Host.Outcome State Fault Refusal :=
  laneOp o s fun _ a b _ => { bits := a ^^^ b }

/-- VSHL (R259): a · 2^s under R255; an amount of w or more gives what w gives. -/
def execVshl (o : OpA) (s : State) : Host.Outcome State Fault Refusal :=
  laneOp o s fun _ a b _ => laneInt o.ty o.sat (intOf o.ty a * (2 ^ min b (tyBits o.ty) : Nat))

/-- VSHR (R259). -/
def execVshr (o : OpA) (s : State) : Host.Outcome State Fault Refusal :=
  laneOp o s fun _ a b _ => { bits := a / 2 ^ min b (tyBits o.ty) }

/-- VSHRA (R259): a read as signed whatever TY. -/
def execVshra (o : OpA) (s : State) : Host.Outcome State Fault Refusal :=
  let w := tyBits o.ty
  laneOp o s fun _ a b _ => { bits := lowBits w (Int.fdiv (signedOf w a) (2 ^ min b w : Nat)) }

/-! ## Comparison, selection, permutation and moves -/

/-- A q register with bits set from a list. -/
def putBits (q : QReg) (rs : List (Nat × Bool)) : QReg :=
  rs.foldl (fun q r => if r.2 then q ||| (1#32 <<< r.1) else q &&& ~~~(1#32 <<< r.1)) q

/-- The q register of an operand. -/
def Core.srcQ (c : Core) (n k : Nat) (o : Opnd) : QReg :=
  match o with
  | .q r => c.qVal n k r
  | _ => 0

/-- VCMP (R260). -/
def execVcmp (o : OpA) (s : State) : Host.Outcome State Fault Refusal :=
  let w := tyBits o.ty
  issuedV (fieldsA o) anyLevel [] (laneCount o.ty) s fun act x s0 s1 =>
    let a := s0.self.srcV s.free 1 o.s1
    let b := s0.self.srcV s.free 2 o.s2
    let rs := act.map fun i => (i, condTy o.ty o.sub.toNat (elem w a i) (elemB o x b i))
    let q := putBits (s1.self.srcQ s.free 4 o.d) (rs.map fun r => (r.1, r.2.1))
    .ok (s1.setSelf ((s1.self.setDst o.d (q.zeroExtend 64)).count (rs.map (·.2.2))))

/-- VSEL (R261). -/
def execVsel (o : OpA) (s : State) : Host.Outcome State Fault Refusal :=
  let w := tyBits o.ty
  issuedV (fieldsA o) anyLevel [] (laneCount o.ty) s fun act x s0 s1 =>
    let a := s0.self.srcV s.free 1 o.s1
    let b := s0.self.srcV s.free 2 o.s2
    let rs := act.map fun i => (i, ({ bits := if x.s3.getLsbD i then elem w a i else elemB o x b i } : FRes))
    .ok (s1.setSelf (s1.self.putLanes s.free o.d w rs))

/-- The element that an index byte of VPERM takes (R261). -/
def permElem (w n t : Nat) (a c : VReg) (two : Bool) : Nat :=
  if 128 ≤ t then 0
  else if !two then elem w a (t % n)
  else if t % (2 * n) < n then elem w a (t % (2 * n))
  else elem w c (t % (2 * n) - n)

/-- VPERM (R261). -/
def execVperm (o : OpA) (s : State) : Host.Outcome State Fault Refusal :=
  let w := tyBits o.ty
  let n := laneCount o.ty
  issuedV (fieldsA o) anyLevel [] n s fun act _ s0 s1 =>
    let a := s0.self.srcV s.free 1 o.s1
    let t := s0.self.srcV s.free 2 o.s2
    let c := s0.self.srcV s.free 3 o.s3
    let rs := act.map fun i => (i, ({ bits := permElem w n (elem 8 t i) a c (o.s3 != .none) } : FRes))
    .ok (s1.setSelf (s1.self.putLanes s.free o.d w rs))

/-- VBCAST (R262). -/
def execVbcast (o : OpA) (s : State) : Host.Outcome State Fault Refusal :=
  let w := tyBits o.ty
  issuedV (fieldsA o) anyLevel [] (laneCount o.ty) s fun act x s0 s1 =>
    let e := match o.s1 with
      | .v _ => elem w (s0.self.srcV s.free 1 o.s1) o.imm.toNat
      | _ => patternOf o.ty x.s1
    .ok (s1.setSelf (s1.self.putLanes s.free o.d w (act.map fun i => (i, ({ bits := e } : FRes)))))

/-- The index of VEXT and VINS (R262). -/
def elemIndex (o : OpA) (x : Srcs) : Nat :=
  if o.s2 = .none then o.imm.toNat else x.s2.toNat % laneCount o.ty

/-- VEXT (R262): governed as a scalar instruction (R251). -/
def execVext (o : OpA) (s : State) : Host.Outcome State Fault Refusal :=
  issued (fieldsA o) anyLevel [] s fun x s0 s1 =>
    let e := elem (tyBits o.ty) (s0.self.srcV s.free 1 o.s1) (elemIndex o x)
    .ok (s1.setSelf (s1.self.setDst o.d (extendTy o.ty e)))

/-- VINS (R262): governed as a scalar instruction; D is read and written. -/
def execVins (o : OpA) (s : State) : Host.Outcome State Fault Refusal :=
  issued (fieldsA o) anyLevel [o.d] s fun x s0 s1 =>
    let v := setElem (tyBits o.ty) (s0.self.srcV s.free 4 o.d) (elemIndex o x) (patternOf o.ty x.s1)
    .ok (s1.setSelf (s1.self.setDstV o.d v))

/-- VMOV (R262). -/
def execVmov (o : OpA) (s : State) : Host.Outcome State Fault Refusal :=
  laneOp o s fun _ a _ _ => { bits := a }

/-- VMOVI (R262). -/
def execVmovi (o : OpA) (s : State) : Host.Outcome State Fault Refusal :=
  laneOp o s fun _ _ _ _ => { bits := immElem o.ty o.imm }

/-! ## Reduction and dot products -/

/-- Combine of VRED (R263), on patterns; an integer ADD is exact on integers instead. -/
def redCombine (o : OpA) (rm : Rm) (a b : Nat) : FRes :=
  let int (f : Int → Int → Int) : FRes := { bits := lowBits (tyBits o.ty) (f (intOf o.ty a) (intOf o.ty b)) }
  match o.sub.toNat with
  | 0 => fAdd o.ty rm o.sat false a b
  | 1 => if isFloat o.ty then fMinMax o.ty false a b else int min
  | 2 => if isFloat o.ty then fMinMax o.ty true a b else int max
  | 3 => int min
  | 4 => int max
  | 5 => { bits := a &&& b }
  | 6 => { bits := a ||| b }
  | _ => { bits := a ^^^ b }

/-- One level of a pairwise tree: neighbours are combined, an absent one lets the other pass (R263). -/
def pairUp {α : Type} (f : α → α → α) : List (Option α) → List (Option α)
  | a :: b :: r =>
    (match a, b with
     | some x, some y => some (f x y)
     | some x, none => some x
     | none, y => y) :: pairUp f r
  | l => l

/-- The levels of a pairwise tree (R263). -/
def pairTree {α : Type} (f : α → α → α) : Nat → List (Option α) → Option α
  | 0, l => (l.head?).getD none
  | k + 1, l => pairTree f k (pairUp f l)

/-- A floating result: a NaN is the canonical one of its format (R238). -/
def canonical (ty : Ty) (x : Nat) : Nat := if (unpack ty x).isNan then nanOf ty else x

/-- VRED (R263): an integer ADD is exact at every node and narrowed once; a floating NaN is canonical, also where one
active element meets no other (R238). -/
def execVred (o : OpA) (s : State) : Host.Outcome State Fault Refusal :=
  let w := tyBits o.ty
  let n := laneCount o.ty
  issuedV (fieldsA o) anyLevel [] n s fun act _ s0 s1 =>
    let a := s0.self.srcV s.free 1 o.s1
    let leaf (i : Nat) : Option Nat := if act.contains i then some (elem w a i) else none
    let r : FRes :=
      if o.sub = 0 ∧ ¬isFloat o.ty then
        laneInt o.ty o.sat ((pairTree (· + ·) 6 ((List.range n).map fun i => (leaf i).map (intOf o.ty))).getD 0)
      else
        (pairTree (fun (p q : FRes) => (redCombine o (s0.self.rm o.rm) p.bits q.bits).also (p.ev ||| q.ev)) 6
          ((List.range n).map fun i => (leaf i).map fun x => ({ bits := x } : FRes))).getD { bits := 0 }
    let x := if isFloat o.ty ∧ o.sub.toNat ≤ 2 then canonical o.ty r.bits else r.bits
    .ok (s1.setSelf ((s1.self.setDstV o.d (BitVec.ofNat 256 x)).count [r.ev]))

/-- The group size of VDOT (R264). -/
def dotGroup (o : OpA) (src : Ty) : Nat := tyBits o.ty / tyBits src

/-- One element of VDOT (R264): the exact sum with one rounding, or the integer sum narrowed. -/
def dotElem (o : OpA) (src : Ty) (rm : Rm) (ps : List (Nat × Nat)) (c : Nat) : FRes :=
  if isFloat o.ty then
    let prods := ps.map fun p => mulVals (unpack src p.1) (unpack src p.2)
    let (x, e) := sumVals rm (unpack o.ty c :: prods.map (·.1))
    let es := ps.foldl (fun e p => e ||| operandEv src p.1 ||| operandEv src p.2) (operandEv o.ty c)
    (roundVal o.ty rm o.sat x).also (prods.foldl (fun e p => e ||| p.2) (e ||| es))
  else laneInt o.ty o.sat (intOf o.ty c + (ps.map fun p => intOf src p.1 * intOf src p.2).sum)

/-- The source type in SUB (R59). -/
def subTy (o : OpA) : Ty := (tyOfCode o.sub.toNat).getD .i8

/-- VDOT (R264). -/
def execVdot (o : OpA) (s : State) : Host.Outcome State Fault Refusal :=
  let src := subTy o
  let w := tyBits src
  let g := dotGroup o src
  issuedV (fieldsA o) anyLevel [] 8 s fun act _ s0 s1 =>
    let a := s0.self.srcV s.free 1 o.s1
    let b := s0.self.srcV s.free 2 o.s2
    let c := s0.self.srcV s.free 3 o.s3
    let rs := act.map fun i =>
      (i, dotElem o src (s0.self.rm o.rm)
        ((List.range g).map fun j => (elem w a (g * i + j), elem w b (g * i + j))) (elem 32 c i))
    .ok (s1.setSelf (s1.self.putLanes s.free o.d 32 rs))

/-! ## Conversion, packing and blocks -/

/-- VCVT (R265). -/
def execVcvt (o : OpA) (s : State) : Host.Outcome State Fault Refusal :=
  let src := subTy o
  let ws := tyBits src
  let wd := tyBits o.ty
  let n := 256 / max ws wd
  let part := field o.imm.toNat 0 4
  issuedV (fieldsA o) anyLevel [] n s fun act _ s0 s1 =>
    let a := s0.self.srcV s.free 1 o.s1
    let rs := act.map fun i =>
      let (from', to') := if wd < ws then (i, part * n + i) else (part * n + i, i)
      (to', convert src o.ty (s0.self.rm o.rm) o.sat (elem ws a from'))
    .ok (s1.setSelf (s1.self.putLanes s.free o.d wd rs))

/-- VPACK (R266). -/
def execVpack (o : OpA) (s : State) : Host.Outcome State Fault Refusal :=
  let src := subTy o
  let ws := tyBits src
  let nd := laneCount o.ty
  issuedV (fieldsA o) anyLevel [] nd s fun act _ s0 s1 =>
    let a := s0.self.srcV s.free 1 o.s1
    let b := s0.self.srcV s.free 2 o.s2
    let rs := act.map fun i =>
      (i, placeInt o.ty o.sat (intOf src (if i < nd / 2 then elem ws a i else elem ws b (i - nd / 2))))
    .ok (s1.setSelf (s1.self.putLanes s.free o.d (tyBits o.ty) rs))

/-- VUNPK (R266). -/
def execVunpk (o : OpA) (s : State) : Host.Outcome State Fault Refusal :=
  let src := subTy o
  let nd := laneCount o.ty
  issuedV (fieldsA o) anyLevel [] nd s fun act _ s0 s1 =>
    let a := s0.self.srcV s.free 1 o.s1
    let rs := act.map fun i =>
      (i, placeInt o.ty o.sat (intOf src (elem (tyBits src) a (field o.imm.toNat 0 1 * nd + i))))
    .ok (s1.setSelf (s1.self.putLanes s.free o.d (tyBits o.ty) rs))

/-- The registers of a group of k that starts at an operand (R253). -/
def groupOf (o : Opnd) (k : Nat) : List Opnd :=
  match o with
  | .v r => (List.range k).map fun i => .v (r + Fin.ofNat 32 i)
  | _ => []

/-- Registers of a group of 32 elements (R267). -/
def blockRegs (ty : Ty) : Nat := tyBits ty / 8

/-- Element j of a group. -/
def Core.groupElem (c : Core) (n : Nat) (o : Opnd) (ty : Ty) (j : Nat) : Nat :=
  let per := 256 / tyBits ty
  elem (tyBits ty) (c.srcV n (10 + j / per) (((groupOf o (blockRegs ty))[j / per]?).getD o)) (j % per)

/-- VQUANT (R267): an inactive input is taken as +0; g[S3] receives the scale. -/
def execVquant (o : OpA) (s : State) : Host.Outcome State Fault Refusal :=
  let src := subTy o
  let regs := groupOf o.s1 (blockRegs src)
  let f := { (fieldsA o).noS3 with l1 := false }
  issuedV f anyLevel regs 32 s fun act _ s0 s1 =>
    let c := s0.self
    let input (j : Nat) : Nat := if act.contains j then c.groupElem s.free o.s1 src j else 0
    let ins := (List.range 32).map input
    let q := quantise o.ty o.sat (ins.map (unpack src))
    let w := tyBits o.ty
    let v := (q.elems.zipIdx).foldl (fun v e => setElem w v e.2 e.1.bits) (0 : VReg)
    -- events of R267: an MX element's overflow and underflow are not among them
    let per (j : Nat) : Ev :=
      (((q.elems[j]?).getD { bits := 0 }).ev &&& (if isDx o.ty then ~~~(0 : Ev) else ~~~(ev 2 true ||| ev 3 true)))
        ||| ev 14 (isSubnormal src ((ins[j]?).getD 0) && !(q.nan && !isDx o.ty))
    let c1 := if o.l1 then regs.foldl Core.freeReg s1.self else s1.self
    let c1 := (c1.setDstV o.d v).setDst o.s3 (word q.scale)
    .ok (s1.setSelf (c1.count (ev 10 q.nan :: act.map per)))

/-- VDEQ (R268): exact to fp32 but for an overflow to infinity, whatever the mode (R244); rounded once to fp16 and
bf16. -/
def execVdeq (o : OpA) (s : State) : Host.Outcome State Fault Refusal :=
  let src := subTy o
  let w := tyBits o.ty
  let per := 256 / w
  issuedV (fieldsA o) anyLevel [] 32 s fun act x s0 s1 =>
    let a := s0.self.srcV s.free 1 o.s1
    let one (j : Nat) : FRes :=
      let e := elem (tyBits src) a j
      (roundVal o.ty (if o.ty = .fp32 then .rne else s0.self.rm o.rm) false (blockDecode src x.s2.toNat e)).also
        (if isFloat src then operandEv src e else 0)
    let put (c : Core) (r : Nat × Opnd) : Core :=
      c.putLanes s.free r.2 w ((act.filter fun j => j / per == r.1).map fun j => (j % per, one j))
    .ok (s1.setSelf (((groupOf o.d (blockRegs o.ty)).zipIdx.map fun p => (p.2, p.1)).foldl put s1.self))

/-- CEVRD (R269). -/
def execCevrd (o : OpA) (s : State) : Host.Outcome State Fault Refusal :=
  let bank := field o.imm.toNat 0 1
  let clear := field o.imm.toNat 8 1 = 1
  issuedV (fieldsA o) anyLevel [] 8 s fun act _ s0 s1 =>
    let c := s0.self
    let rs := act.map fun i => (i, ({ bits := (c.kev[8 * bank + i]!).toNat } : FRes))
    let c1 := s1.self.putLanes s.free o.d 32 rs
    let kev := if clear then act.foldl (fun (k : Vector Word 16) i => k.set! (8 * bank + i) 0) c1.kev else c1.kev
    .ok (s1.setSelf { c1 with kev := kev })

end Sys2Proof.Machine
end

