-- ==== Sys2Proof/Machine/Matrix.lean ====
section
/-! DEFINITION. The matrix unit (R272 to R289) and its instructions (R290 to R303). -/
namespace Sys2Proof.Machine

/-! ## Operand classes (R272, R273) -/

/-- The class of a format: 0 F64, 1 F32, 2 F16, 3 F8, 4 I8, 5 F4, 6 I4. -/
def matClass : Ty → Nat
  | .fp64 => 0
  | .fp32 => 1
  | .fp16 | .bf16 => 2
  | .i8 | .n8 => 4
  | .e2m1 | .dx4 => 5
  | .i4 | .n4 => 6
  | _ => 3

/-- Kb, elements of K in a block. -/
def matKb (ty : Ty) : Nat := if matClass ty < 3 then 8 else if matClass ty < 5 then 32 else 64

/-- G, elements of a K-group. -/
def matGroup (ty : Ty) : Nat := if matClass ty < 2 then 1 else if matClass ty = 2 then 8 else 32

/-- RB, bytes of a row. -/
def rowBytes (ty : Ty) : Nat := matKb ty * tyBits ty / 8

/-- The accumulator format. -/
def accTy (ty : Ty) : Ty :=
  match matClass ty with
  | 0 => .fp64
  | 4 | 6 => .i32
  | _ => .fp32

/-- Columns of a row. -/
def colsPerRow (ty : Ty) : Nat := if matClass ty = 0 then 2 else 1

/-- Whether an operand's format takes a scale mode (R273). -/
def modeOk (ty : Ty) (mode : Nat) : Bool :=
  match ty with
  | .e4m3 | .e5m2 | .e2m3 | .e3m2 | .e2m1 => decide (mode ≤ 1)
  | .mxint8 => mode == 1
  | .dx8 | .dx4 => mode == 2
  | _ => mode == 0

/-- Whether MDRAIN writes a format in a scale mode (R297). -/
def drainModeOk (ty : Ty) (mode : Nat) : Bool :=
  match mode with
  | 0 => !(ty == .dx8 || ty == .dx4 || ty == .mxint8)
  | 1 => ty == .mxint8 || ty == .e4m3 || ty == .e5m2 || ty == .e2m3 || ty == .e3m2 || ty == .e2m1
  | _ => ty == .dx8 || ty == .dx4

/-- Blocks of 32 along K in one row or weight column. -/
def kBlocks (ty : Ty) : Nat := matKb ty / 32

/-! ## Unfold descriptors (R277, R278) -/

/-- OH or OW from a side, a kernel side and the descriptor; none below 1. -/
def Unfold.out (u : Unfold) (side k : Nat) : Option Nat :=
  if side + 2 * u.pad < u.dil * (k - 1) + 1 then none
  else some ((side + 2 * u.pad - u.dil * (k - 1) - 1) / u.stride + 1)

/-- The descriptor that 64 bytes hold for a stream of a type and mode, where its limits hold. -/
def unfoldOf? (bs : List Byte) (ty : Ty) (mode : Nat) : Option Unfold :=
  let b (o n : Nat) := fieldAt bs o n
  let u : Unfold := { base := word (b 0 8), h := b 8 2, w := b 10 2, c := b 12 2, kh := b 14 1, kw := b 15 1,
                      stride := b 16 1, pad := b 17 1, dil := b 18 1 }
  let in' (x lo hi : Nat) : Bool := decide (lo ≤ x) && decide (x ≤ hi)
  let inside := decide (scratchBase ≤ u.base.toNat)
    && decide (u.base.toNat + (u.h * u.w * u.c * tyBits ty + 7) / 8 ≤ scratchBase + Config.scratchBytes)
  if in' u.h 1 4096 && in' u.w 1 4096 && in' u.c 1 65535 && (mode == 0 || u.c % 32 == 0) && in' u.kh 1 16
      && in' u.kw 1 16 && in' u.stride 1 16 && decide (u.pad ≤ 15) && in' u.dil 1 16 && tyOfCode (b 19 1) == some ty
      && (bs.drop 20).all (· == 0) && inside && (u.out u.h u.kh).isSome && (u.out u.w u.kw).isSome then some u
  else none

/-- Where unfolded element (m, j) lies: the pixel's index and the channel; none for padding (R278). -/
def Unfold.at? (u : Unfold) (m j : Nat) : Option (Nat × Nat) :=
  let oh := (u.out u.h u.kh).getD 0
  let ow := (u.out u.w u.kw).getD 0
  if oh * ow ≤ m ∨ u.kh * u.kw * u.c ≤ j then none
  else
    let t := j / u.c
    let y := m / ow * u.stride + t / u.kw * u.dil
    let x := m % ow * u.stride + t % u.kw * u.dil
    if y < u.pad ∨ u.h ≤ y - u.pad ∨ x < u.pad ∨ u.w ≤ x - u.pad then none
    else some ((y - u.pad) * u.w + (x - u.pad), j % u.c)

/-! ## Operands in the local windows -/

/-- An element: its pattern and its scale, or +0. -/
abbrev MatElem := Option (Nat × Nat)

/-- The places that a row's element k reads: the bit offset from an address, and its scale's address. -/
def RowSource.places (src : RowSource) (ty : Ty) (sc : Word) (ss r k : Nat) : Option ((Word × Nat) × Word) :=
  match src with
  | .walk w =>
    let bit := k * tyBits ty
    let e := r * (rowBytes ty / 8) + bit / 64
    some ((w.addr e + word (bit % 64 / 8), bit % 8), sc + word ((r * kBlocks ty + k / 32) * ss))
  | .unfold u k0 row0 =>
    (u.at? (row0 + r) (k0 + k)).map fun p =>
      let bit := (p.1 * u.c + p.2) * tyBits ty
      ((u.base + word (bit / 8), bit % 8), sc + word ((p.1 * (u.c / 32) + p.2 / 32) * ss))

/-- Bytes of an element, at least one. -/
def elemBytes (ty : Ty) : Nat := max 1 (tyBits ty / 8)

/-- Element k of row r, and whether a byte of it or of its scale is poisoned. -/
def State.rowElem (s : State) (i : Nat) (src : RowSource) (ty : Ty) (sc : Word) (mode r k : Nat) : MatElem × Bool :=
  match src.places ty sc mode r k with
  | none => (none, false)
  | some ((a, bit), b) =>
    let n := elemBytes ty
    let x := field (leNat (s.loadEngine i a n)) bit (tyBits ty)
    let y := if mode = 0 then 0 else leNat (s.loadEngine i b mode)
    (some (x, y), poisoned s (localKey i a) n || (mode != 0 && poisoned s (localKey i b) mode))

/-- Dec of R273. -/
def matDecode (ty : Ty) (mode : Nat) : MatElem → FVal
  | none => .num false 0 0
  | some (x, y) => if mode = 0 then unpack ty x else blockDecode ty y x

/-- The integer of an element. -/
def matInt (ty : Ty) : MatElem → Int
  | none => 0
  | some (x, _) => intOf ty x

/-- Element (k, n) of a latched block (R274). -/
def Latched.elem (b : Latched) (k n : Nat) : MatElem :=
  let x := field (leNat b.elems) ((n * matKb b.fmt + k) * tyBits b.fmt) (tyBits b.fmt)
  some (x, fieldAt b.scales ((n * kBlocks b.fmt + k / 32) * b.mode) b.mode)

/-! ## Summation (R280, R281) -/

/-- One K-group of a floating output: the new accumulator and its events kev11 to kev13; a product 0·∞ or a sum of opposite
infinities is kev12 whatever else is summed (R281). -/
def macGroup (af : Ty) (acc : Nat) (as ws : List FVal) : Nat × Ev :=
  let a := unpack af acc
  let prods := (as.zip ws).map fun p => mulVals p.1 p.2
  let (x, e) := sumVals .rne (a :: prods.map (·.1))
  let r := roundVal af .rne false x
  let above := !x.isNan && !x.isInf && (unpack af r.bits).isInf
  let invalid := e.getLsbD 0 || prods.any fun p => p.2.getLsbD 0
  (r.bits, ev 11 above ||| ev 12 invalid ||| ev 13 (!above && r.ev.getLsbD 4))

/-- The K-groups of a floating output in ascending order. -/
def macFloat (af : Ty) (g : Nat) : Nat → Nat → List FVal → List FVal → Nat × Ev
  | 0, acc, _, _ => (acc, 0)
  | n + 1, acc, as, ws =>
    let (x, e) := macGroup af acc (as.take g) (ws.take g)
    let (y, f) := macFloat af g n x (as.drop g) (ws.drop g)
    (y, e ||| f)

/-- An output of a row against a latched block (R280). -/
def macOut (ty : Ty) (mode : Nat) (b : Latched) (row : List MatElem) (n acc : Nat) : Nat × Ev :=
  let ws := (List.range (matKb ty)).map fun k => b.elem k n
  if accTy ty = .i32 then
    (lowBits 32 (intOf .i32 acc + ((row.zip ws).map fun p => matInt ty p.1 * matInt b.fmt p.2).sum), 0)
  else
    macFloat (accTy ty) (matGroup ty) (matKb ty / matGroup ty) acc (row.map (matDecode ty mode))
      (ws.map (matDecode b.fmt b.mode))

/-! ## Columns (R29, R279) -/

/-- A column of a core; a FREE one holds zero bits (R29, R279). -/
def Core.col (c : Core) (n : Nat) : Column :=
  let x := c.acc[n]!
  if x.state = .free then { x with bits := 0 } else x

/-- The core with a column replaced. -/
def Core.setCol (c : Core) (n : Nat) (x : Column) : Core := { c with acc := c.acc.set! n x }

/-- Output n of the accumulator at a position: one column's word, or a pair's. -/
def Core.accOut (c : Core) (pair : Bool) (col n : Nat) : Nat :=
  if pair then elem 32 (c.col col).bits n + elem 32 (c.col (col + 1)).bits n * 2 ^ 32 else elem 32 (c.col col).bits n

/-- The eight outputs of a position written, ACC in a format. -/
def Core.putOuts (c : Core) (pair : Bool) (fmt : Ty) (col : Nat) (xs : List Nat) : Core :=
  let bitsOf (sh : Nat) : VReg := (xs.zipIdx).foldl (fun v x => setElem 32 v x.2 (x.1 / 2 ^ sh % 2 ^ 32)) 0
  let c := c.setCol col { state := .acc, fmt := fmt, bits := bitsOf 0 }
  if pair then c.setCol (col + 1) { state := .acc, fmt := fmt, bits := bitsOf 32 } else c

/-- A column range holds a parked column. -/
def Core.hasPark (c : Core) (cols : List Nat) : Bool := cols.any fun n => (c.col n).state == .park

/-- A read of columns meets poison (R292). -/
def Core.colPoison (c : Core) (cols : List Nat) : Bool := cols.any fun n => (c.col n).bad

/-- A read of columns corrects their single-bit errors (R398). -/
def State.correctCols (s : State) (i : Nat) (cols : List Nat) : State :=
  let hit := (cols.map fun n => ((s.core i).col n).soft.length).sum
  if hit = 0 then s
  else
    (s.onCore i fun c => cols.foldl (fun (c : Core) n =>
      c.setCol n { c.col n with soft := [] }) c).countErrors (hallOf i) hit

/-! ## Running a command (R275) -/

/-- What a run has done: the state, the statuses of its items in order, and its events. -/
structure Ran where
  state : State
  statuses : List Nat
  events : List Ev := []

/-- FORMAT. -/
def stFormat : Nat := 0x08

/-- Every item ends with one status. -/
def allItems (s : State) (n st : Nat) : Ran := { state := s, statuses := List.replicate n st }

/-- Some byte of a local range is poisoned. -/
def State.localPoison (s : State) (i : Nat) (a : Word) (n : Nat) : Bool := n != 0 && poisoned s (localKey i a) n

/-- Bytes of a weight image and of its scales (R274). -/
def imageBytes (ty : Ty) : Nat := matKb ty * tyBits ty

/-- Bytes of the scales of a weight block. -/
def scaleBytes (ty : Ty) (mode : Nat) : Nat := 8 * kBlocks ty * mode

/-- MLOADW runs (R293). -/
def State.runLoad (s : State) (i : Nat) (ty : Ty) (mode axis : Nat) (a sc : Word) : Ran :=
  let n := imageBytes ty
  let m := scaleBytes ty mode
  let ends (t : State) (st : Nat) (b : Option Latched) : Ran :=
    { state := t.onCore i fun c => { c with latched := b }, statuses := [st] }
  if !modeOk ty mode ∨ (mode ≠ 0 ∧ axis ≠ 0) then ends s stFormat none
  else
    let t := s.correctLocal i [(a, n), (sc, m)]
    if s.localPoison i a n ∨ s.localPoison i sc m then ends t stPoison none
    else ends t stOk (some { fmt := ty, mode := mode, axis := axis, elems := s.loadEngine i a n,
                             scales := if m = 0 then [] else s.loadEngine i sc m })

/-- A row of a stream corrects the single-bit errors of what it reads (R398). -/
def State.correctRow (s : State) (i : Nat) (ty : Ty) (mode : Nat) (src : RowSource) (sc : Word) (r : Nat) : State :=
  if s.soft.isEmpty then s
  else
    (List.range (matKb ty)).foldl (fun (t : State) k => match src.places ty sc mode r k with
      | some (x, b) => t.correctLocal i [(x.1, elemBytes ty), (b, mode)]
      | none => t) s

/-- Row r of a stream accumulated (R280, R294). -/
def State.runRow (s : State) (i : Nat) (ty : Ty) (mode : Nat) (src : RowSource) (sc : Word) (b : Latched)
    (c0 r : Nat) : Nat × List Ev × State :=
  let pair := matClass ty = 0
  let col := c0 + colsPerRow ty * r
  let cols := if pair then [col, col + 1] else [col]
  let s := (s.correctCols i cols).correctRow i ty mode src sc r
  let es := (List.range (matKb ty)).map fun k => s.rowElem i src ty sc mode r k
  let c := s.core i
  if es.any (·.2) || c.colPoison cols then (stPoison, [], s)
  else
    let outs := (List.range 8).map fun n => macOut ty mode b (es.map (·.1)) n (c.accOut pair col n)
    (stOk, outs.map (·.2), s.onCore i fun c => c.putOuts pair (accTy ty) col (outs.map (·.1)))

/-- MSTREAM runs (R294). -/
def State.runStream (s : State) (i : Nat) (ty : Ty) (mode axis : Nat) (src : RowSource) (sc : Word) (c0 rows : Nat) :
    Ran :=
  let c := s.core i
  let cols := (List.range (colsPerRow ty * rows)).map (· + c0)
  let other := cols.any fun n => (c.col n).state == .acc && (c.col n).fmt != accTy ty
  match c.latched with
  | none => allItems s rows stFormat
  | some b =>
    if matClass ty ≠ matClass b.fmt ∨ !modeOk ty mode ∨ (mode ≠ 0 ∧ axis ≠ 0) ∨ c.hasPark cols ∨ other then
      allItems s rows stFormat
    else
      (List.range rows).foldl (fun (x : Ran) r =>
        let (st, es, t) := x.state.runRow i ty mode src sc b c0 r
        { state := t, statuses := x.statuses ++ [st], events := x.events ++ es }) (allItems s 0 stOk)

/-- One column converted in place (R295). -/
def State.convertCol (s : State) (i : Nat) (ty : Ty) (rm : Rm) (sat : Bool) (n : Nat) : Nat × List Ev × State :=
  let s := s.correctCols i [n]
  let x := (s.core i).col n
  if x.state = .free ∨ x.fmt = ty then (stOk, [], s)
  else if x.bad then (stPoison, [], s)
  else
    let rs := (List.range 8).map fun k => convert x.fmt ty rm sat (elem 32 x.bits k)
    (stOk, rs.map (·.ev), s.onCore i fun c => c.putOuts false ty n (rs.map (·.bits)))

/-- MFMT runs (R295). -/
def State.runFmt (s : State) (i : Nat) (ty : Ty) (rm : Rm) (sat : Bool) (c0 n : Nat) : Ran :=
  let c := s.core i
  let cols := (List.range n).map (· + c0)
  if c.hasPark cols ∨ cols.any (fun k => (c.col k).state == .acc && (c.col k).fmt == .fp64) then
    allItems s n stFormat
  else
    cols.foldl (fun (x : Ran) k =>
      let (st, es, t) := x.state.convertCol i ty rm sat k
      { state := t, statuses := x.statuses ++ [st], events := x.events ++ es }) (allItems s 0 stOk)

/-- MCLR runs (R296); it reads no column's bits. -/
def State.runClear (s : State) (i c0 n : Nat) : Ran :=
  let c := s.core i
  let cols := (List.range n).map (· + c0)
  let half (k : Nat) : Bool :=
    (c.col k).state == .acc && (c.col k).fmt == .fp64 && !cols.contains (if k % 2 = 0 then k + 1 else k - 1)
  if c.hasPark cols ∨ cols.any half then allItems s n stFormat
  else allItems (s.onCore i fun c => cols.foldl (fun (c : Core) k => c.setCol k {}) c) n stOk

/-! ### Draining (R282, R283, R297) -/

/-- Output n of a position and its value in the source format. -/
def drainValue (fmt : Ty) (x : Nat) : FVal :=
  if fmt = .i32 then .num (decide (intOf .i32 x < 0)) (intOf .i32 x).natAbs 0 else unpack fmt x

/-- The position and output of element j of block b (R282). -/
def drainSource (axis b j : Nat) : Nat × Nat := if axis = 0 then (4 * b + j / 8, j % 8) else (32 * (b / 8) + j, b % 8)

/-- The element index of output n of position p (R282). -/
def drainIndex (axis p n : Nat) : Nat := if axis = 0 then 8 * p + n else 32 * (8 * (p / 32) + n) + p % 32

/-- Bytes written by the unit at offsets from a local address; nothing where they cut a poisoned part. A part that they
cover whole loses its poison (R400). -/
def State.engineBytes (s : State) (i : Nat) (k : Cmd) (a : Word) (bs : List (Nat × Byte)) : Option State :=
  let key := localKey i a
  if cutsPoison s key bs then none
  else
    let whole (p : Nat) : Bool := (List.range 8).all fun j => bs.any fun c => key + c.1 == p * 8 + j
    let kept := bs.foldl (fun (t : State) (b : Nat × Byte) => t.keepOld (key + b.1) 1 (k.writes i a)) s
    let t := bs.foldl (fun (t : State) (b : Nat × Byte) => t.storeLocal i (a + word b.1) [b.2]) kept
    some { t with poison := t.poison.filter (!whole ·) }

/-- The bytes that elements of a type fill: element index and pattern, in a memory that they may share bytes of. -/
def State.elemWrites (s : State) (i : Nat) (a : Word) (ty : Ty) (xs : List (Nat × Nat)) : List (Nat × Byte) :=
  if tyBits ty = 4 then
    xs.foldl (fun (l : List (Nat × Byte)) x =>
      let o := x.1 / 2
      let old := match tget? l o with
        | some b => b.toNat
        | none => leNat (s.loadLocal i (a + word o) 1)
      let v := if x.1 % 2 = 0 then old / 16 * 16 + x.2 % 16 else old % 16 + x.2 % 16 * 16
      tset l o (BitVec.ofNat 8 v)) []
  else
    (xs.map fun x => (leBytes (tyBits ty / 8) x.2).mapIdx fun k b => (x.1 * (tyBits ty / 8) + k, b)).flatten

/-- One item of a drain: its columns read, its elements and its scale written. -/
def State.drainItem (s : State) (i : Nat) (cmd : Cmd) (axis : Nat) (ty : Ty) (mode : Nat) (rm : Rm) (sat : Bool) (dst sc : Word)
    (c0 : Nat) (fmt : Ty) (k : Nat) : Nat × List Ev × State :=
  let pair := fmt = .fp64
  let col (p : Nat) : Nat := if pair then c0 + 2 * p else c0 + p
  let cells : List (Nat × Nat) :=
    if mode = 0 then (List.range 8).map fun n => (k, n) else (List.range 32).map (drainSource axis k)
  let cols := (cells.map fun x => if pair then [col x.1, col x.1 + 1] else [col x.1]).flatten.eraseDups
  let s := s.correctCols i cols
  let c := s.core i
  if c.colPoison cols then (stPoison, [], s)
  else
    let xs := cells.map fun x => c.accOut pair (col x.1) x.2
    let index (x : Nat × Nat) (j : Nat) : Nat := if mode = 0 then drainIndex axis x.1 x.2 else 32 * k + j
    let (rs, extra, scale) : List FRes × List Ev × List (Nat × Byte) :=
      if mode = 0 then (xs.map (convert fmt ty rm sat), [], [])
      else
        let q := quantise ty sat (xs.map (drainValue fmt))
        let subs := xs.map fun x => if isFloat fmt && (isDx ty || !q.nan) then operandEv fmt x else 0
        ((q.elems.zip subs).map fun r => r.1.also r.2, [ev 10 q.nan], (leBytes mode q.scale).mapIdx fun n b =>
          (k * mode + n, b))
    let ws := s.elemWrites i dst ty ((cells.zip rs).mapIdx fun j x => (index x.1 j, x.2.bits))
    match s.engineBytes i cmd dst ws with
    | none => (stPoison, [], s)
    | some t =>
      match if mode = 0 then some t else (if cutsPoison s (localKey i sc) scale then none else t.engineBytes i cmd sc scale) with
      | none => (stPoison, [], s)
      | some u => (stOk, extra ++ rs.map (·.ev), u)

/-- MDRAIN runs (R297). -/
def State.runDrain (s : State) (i : Nat) (cmd : Cmd) (axis : Nat) (ty : Ty) (imm : Nat) (rm : Rm) (dst sc : Word) (c0 n : Nat) :
    Ran :=
  let c := s.core i
  let mode := field imm 8 2
  let sat := field imm 4 1 == 1
  let items := if mode = 0 then n else n / 4
  let first := c.col c0
  let fmt := if first.state = .free then .fp32 else first.fmt
  let pair := fmt = .fp64
  let cols := (List.range (if pair then 2 * n else n)).map (· + c0)
  let mixes := cols.any fun k => (c.col k).state == .acc && (c.col k).fmt != fmt
  if !drainModeOk ty mode ∨ (mode = 1 ∧ sat) ∨ (mode ≠ 0 ∧ field imm 0 3 ≠ 0)
      ∨ (pair ∧ (c0 % 2 = 1 ∨ 255 < c0 + 2 * n - 1)) ∨ c.hasPark cols ∨ mixes then allItems s items stFormat
  else
    (List.range items).foldl (fun (x : Ran) k =>
      let (st, es, t) := x.state.drainItem i cmd axis ty mode rm sat dst sc c0 fmt k
      { state := t, statuses := x.statuses ++ [st], events := x.events ++ es }) (allItems s 0 stOk)

/-- STATE of R29 as two bits. -/
def colCode : ColState → Nat
  | .free => 0
  | .acc => 1
  | .park => 2

/-- The 96 bytes of the matrix status record (R298). -/
def Core.matrixStatus (c : Core) : List Byte :=
  let first := match c.latched with
    | none => 0
    | some b => 2 ^ 63 + tyCode b.fmt * 2 ^ 8 + b.mode * 2 ^ 4 + b.axis
  let states := (List.range 8).map fun k =>
    ((List.range 32).map fun n => colCode (c.col (32 * k + n)).state * 4 ^ n).sum
  leBytes 8 first ++ leBytes 8 (c.accepted % 2 ^ 32 * 2 ^ 32 + min c.carried 0xFFFF) ++ List.replicate 16 0
    ++ (states.map (leBytes 8)).flatten

/-- A matrix command runs: its effects, and how each of its items will end (R275, R292). -/
def State.runCommand (s : State) (i : Nat) (k : Cmd) : Ran :=
  match k.op with
  | .mloadw ty mode axis a sc => s.runLoad i ty mode axis a sc
  | .mstream ty mode axis src sc c0 rows => s.runStream i ty mode axis src sc c0 rows
  | .mfmt ty rm sat c0 n => s.runFmt i ty rm sat c0 n
  | .mclr c0 n => s.runClear i c0 n
  | .mdrain axis ty imm rm dst sc c0 n => s.runDrain i k axis ty imm rm dst sc c0 n
  | .mstat dst =>
    { state := (s.keepOld (localKey i dst) 96 (k.writes i dst)).storeLocal i dst (s.core i).matrixStatus,
      statuses := [stOk] }
  | _ => allItems s 0 stOk

/-- MATRIX_QUEUE_RUN (R275, R289): the oldest accepted command that has not finished runs whole. -/
def execMatrixQueueRun (core : Nat) (s : State) : Host.Outcome State Fault Refusal :=
  .next (match (s.core core).cmds.find? (·.matrix) with
    | none => s
    | some k =>
      if !k.items.all (· == .pending) ∨ !s.cmdReady core k then s
      else
        match s.startCmd core k with
        | (false, t) => t
        | (true, t) =>
          let x := t.runCommand core k
          { x.state with free := x.state.free + 1 }.onCmd core k.ctx k.tl fun k =>
            { k with events := x.events,
                     items := x.statuses.map fun st => if st = stOk then .served [] else .failed st })

/-! ## The end of an item (R292) -/

/-- ADDR of a failed item: its first byte, or the column, where it touches only that (also a row that is all padding). -/
def EngineOp.itemAddr : EngineOp → Nat → Word
  | .mloadw _ _ _ a _, _ => a
  | .mstream ty mode _ src sc c0 _, j =>
    match (List.range (matKb ty)).findSome? fun k => src.places ty sc mode j k with
    | some x => x.1.1
    | none => word (c0 + colsPerRow ty * j)
  | .mfmt _ _ _ c0 _, j | .mclr c0 _, j => word (c0 + j)
  | .mdrain axis ty imm _ dst _ _ _, j =>
    dst + word ((if field imm 8 2 = 0 then drainIndex axis j 0 else 32 * j) * tyBits ty / 8)
  | .mstat dst, _ => dst
  | _, _ => 0

/-- The status word of R286. -/
def statusWord (tl left st : Nat) : Word := word (tl % 2 ^ 32 * 2 ^ 32 + left % 2 ^ 16 * 2 ^ 16 + st)

/-- The status of the lowest failed item of a command, or OK (R288). -/
def Cmd.result (k : Cmd) : Nat :=
  match (k.failed.map (·.1)).min? with
  | some n => tget stOk k.failed n
  | none => stOk

/-- Commands that an accepted capability still admits. -/
def PeerSide.remaining (q : PeerSide) : Nat :=
  match q.auth with
  | some (w, n) => bits w 24 10 - n
  | none => 0

/-- The answer of a carried command goes to its commander when it finishes (R288). -/
def State.answerCmd (s : State) (k : Cmd) : State :=
  match k.chan.bind s.peer? with
  | some q => (s.peerMsg q 2 (leBytes 8 (statusWord k.tl q.remaining k.result).toNat)).onPeer q.chan fun q =>
      { q with cmd := none }
  | none => s

/-- An item of a matrix command ends (R292); with the last one the events land and the answer goes. A command whose record
was poisoned at issue has items that fail without a run (R399). -/
def State.matrixItemEnds (s : State) (r : ItemRef) (k : Cmd) : State :=
  let st := if !s.cmdReady r.core k then none else
    match k.items[r.item]? with
    | some (.served _) => some stOk
    | some (.failed st) => some st
    | _ => none
  match st, s.startCmd r.core k with
  | none, _ => s
  | some _, (false, t) => t
  | some st, (true, s) =>
    let k := { if st = stOk then k else { k with failed := tset k.failed r.item st } with started := true }
    let s := s.onCmd r.core k.ctx k.tl fun _ => k
    let last := (k.items.zipIdx.all fun x => x.2 == r.item || x.1 == .done)
    let s := if last then (s.onCore r.core fun c => c.count k.events).answerCmd k else s
    s.endItem r (k.op.itemAddr r.item) 1 st

/-- ENGINE_ITEM_END (R189): of an engine command, or of a matrix command. -/
def execEngineItemEnd (r : ItemRef) (outside : Reply) (s : State) : Host.Outcome State Fault Refusal :=
  .next (match s.cmd? r with
    | none => s
    | some k =>
      if k.matrix then s.matrixItemEnds r k
      else
        match s.moveOf k.op r.item, k.op with
        | some _, .mcast _ _ _ _ => s
        | some m, _ => s.engineItemEnds r k m outside
        | none, _ => s)

/-! ## Checks at issue (R291, R292) -/

/-- A command read from its fields: what it does, its items, and the trap it meets. -/
structure MatIssue where
  op : EngineOp
  items : Nat
  trap : Option Trap
  /-- the walk record or the descriptor that it was read from is poisoned: every item fails (R399; log 38) -/
  hurt : Bool := false
  /-- local ranges read as it is issued -/
  reads : List (Word × Nat) := []

/-- The items of a command as it is issued. -/
def MatIssue.phases (k : MatIssue) : List ItemPhase := List.replicate k.items (if k.hurt then .failed stPoison else .pending)

/-- The local-guard trap of a word that breaks its limits, whose ktval no rule gives. -/
def limitTrap (s : State) : Trap := { cls := 0x05, detail := 0x08, tval := Config.freeBits s.free 72 64 }

/-- C0 and N of a column word; none where it is illegal (R291). -/
def columnWord? (w : Word) : Option (Nat × Nat) :=
  let c0 := bits w 0 8
  let n := bits w 8 9
  if n = 0 ∨ 256 < n ∨ bits w 17 47 ≠ 0 ∨ 255 < c0 + n - 1 then none else some (c0, n)

/-- The rows and first column of a stream word, with K0 and ROW0 (R294). -/
def streamWord? (ty : Ty) (w : Word) : Option (Nat × Nat × Nat × Nat) :=
  let c0 := bits w 0 8
  let n := bits w 8 9
  let k := colsPerRow ty
  if bits w 62 2 ≠ 0 ∨ n = 0 ∨ 256 < k * n ∨ c0 % k ≠ 0 ∨ 255 < c0 + k * n - 1 then none
  else some (c0, n, 8 * bits w 41 21, bits w 17 24)

/-- The checks of every byte that a stream reads (R276, R292). -/
def Core.streamTrap (c : Core) (src : RowSource) (ty : Ty) (mode : Nat) (sc : Word) (rows : Nat) : Option Trap :=
  let base := match src with
    | .walk w => firstTrap (c.rangeTrap .load w.base 8 32 ::
        (List.range w.total).map fun e => c.rangeTrap .load (w.addr e) 8 8)
    | .unfold u _ _ => if u.base.toNat % 32 ≠ 0 then some (guardTrap 0x02 u.base) else none
  let cells := ((List.range rows).map fun r => (List.range (matKb ty)).filterMap fun k =>
    src.places ty sc mode r k).flatten
  -- a type of fewer than 32 elements along K has no scales to read (R273)
  let scales (l : List ((Word × Nat) × Word)) : Option Trap :=
    if mode = 0 ∨ kBlocks ty = 0 then none else l.findSome? fun x => c.rangeTrap .load x.2 mode mode
  match base with
  | some t => some t
  | none =>
    match src with
    | .walk _ => scales cells
    | .unfold _ _ _ =>
      match cells.findSome? fun x => c.rangeTrap .load x.1.1 (elemBytes ty) 1 with
      | some t => some t
      | none => scales cells

/-- The source of a stream from the record at an address (R276, R277, R294). -/
def State.rowSource? (s : State) (i : Nat) (ty : Ty) (imm : Nat) (a : Word) (rows k0 row0 : Nat) : Option RowSource :=
  let bs := s.loadLocal i a 64
  if field imm 8 1 = 0 then
    match walkOf? bs with
    | some w =>
      if k0 = 0 ∧ row0 = 0 ∧ w.elem = 8 ∧ w.total = rows * rowBytes ty / 8 ∧ (windowOf? w.base 1).isSome then
        some (.walk w)
      else none
    | none => none
  else
    match unfoldOf? bs ty (field imm 0 2) with
    | some u => if k0 % matKb ty = 0 then some (.unfold u k0 row0) else none
    | none => none

/-- MSTREAM at issue (R294). -/
def State.issueStream (s : State) (i : Nat) (c : Core) (ty : Ty) (imm : Nat) (d s1 s2 : Word) : MatIssue :=
  let mode := field imm 0 2
  let fails (t : Trap) : MatIssue := { op := .mclr 0 0, items := 0, trap := some t }
  match c.rangeTrap .load d 64 64 with
  | some t => fails t
  | none =>
    match streamWord? ty s2 with
    | none => fails (limitTrap s)
    | some (c0, rows, k0, row0) =>
      match s.rowSource? i ty imm d rows k0 row0 with
      | none => fails (guardTrap 0x08 d)
      | some src =>
        { op := .mstream ty mode (field imm 4 1) src s1 c0 rows, items := rows, hurt := poisoned s (localKey i d) 64,
          reads := [(d, 64)],
          trap := c.streamTrap src ty mode s1 rows }

/-- MLOADW at issue (R293). -/
def Core.issueLoad (c : Core) (ty : Ty) (imm : Nat) (d s1 : Word) : MatIssue :=
  let mode := field imm 0 2
  { op := .mloadw ty mode (field imm 4 1) d s1, items := 1,
    trap := firstTrap [c.rangeTrap .load d (imageBytes ty) 32, c.rangeTrap .load s1 (scaleBytes ty mode) mode] }

/-- A command on a column word, at issue. -/
def State.issueCols (s : State) (w : Word) (k : Nat → Nat → MatIssue) : MatIssue :=
  match columnWord? w with
  | none => { op := .mclr 0 0, items := 0, trap := some (limitTrap s) }
  | some (c0, n) => k c0 n

/-- The mode of an RM field of IMM32, DYN resolved (R295). -/
def Core.immRm (c : Core) (imm : Nat) : Rm := c.rm ((rmOfCode (field imm 0 3)).getD .rne)

/-- MDRAIN at issue (R297). -/
def State.issueDrain (s : State) (c : Core) (axis : Nat) (ty : Ty) (imm : Nat) (d s1 s2 : Word) : MatIssue :=
  s.issueCols s2 fun c0 n =>
    let mode := field imm 8 2
    let op : EngineOp := .mdrain axis ty imm (c.immRm imm) d s1 c0 n
    if n % (if axis = 0 then 4 else 32) ≠ 0 then { op := op, items := 0, trap := some (limitTrap s) }
    else
      { op := op, items := if mode = 0 then n else n / 4,
        trap := firstTrap [c.rangeTrap .store d (n * tyBits ty) 32, c.rangeTrap .store s1 (n / 4 * mode) mode] }

/-- A matrix command of core i from its instruction and its operands D, S1 and S2, checked as core `c`. -/
def State.matIssue (s : State) (i : Nat) (c : Core) (ins : Instr) (d s1 s2 : Word) : MatIssue :=
  match ins with
  | .mloadw o => c.issueLoad o.ty o.imm.toNat d s1
  | .mstream o => s.issueStream i c o.ty o.imm.toNat d s1 s2
  | .mfmt o => s.issueCols s1 fun c0 n =>
      { op := .mfmt o.ty (c.immRm o.imm.toNat) (o.imm.getLsbD 4) c0 n, items := n, trap := none }
  | .mclr _ => s.issueCols s1 fun c0 n => { op := .mclr c0 n, items := n, trap := none }
  | .mdrain o => s.issueDrain c o.sub.toNat o.ty o.imm.toNat d s1 s2
  | _ => { op := .mstat d, items := 1, trap := c.rangeTrap .store d 96 32 }

/-- A checked command is accepted by its unit's queue (R292, R303). -/
def State.acceptCmd (s : State) (i : Nat) (k : Cmd) : State :=
  let s := s.beginCmd i { k with matrix := true } k.items.length
  s.onCore i fun c => { c with accepted := c.accepted + 1, carried := c.carried + (if k.chan.isSome then 1 else 0) }

/-- A matrix command of the owner (R292). -/
def matrixCmd (ins : Instr) (o : OpM) (s : State) : Host.Outcome State Fault Refusal :=
  issued (fieldsM o) anyLevel [o.d] s fun x s0 s1 =>
    let c := s0.self
    let i := s0.cur
    if c.contextFull o.ctx then .wait s0 stallWait
    else
      match c.objTrap o.s3 x.s3 with
      | some t => .trap s0 t
      | none =>
        let k := s0.matIssue i c ins (c.srcWord s.free 4 o.d 0) x.s1 x.s2
        match k.trap with
        | some t => .trap s0 t
        | none =>
          .ok ((s1.correctLocal i k.reads).acceptCmd i
            { ctx := o.ctx, tl := 0, drain := o.ord == .drain, ord := o.ord,
              obj := if o.s3 = .none then none else some x.s3, op := k.op, items := k.phases })

/-- MLOADW (R293). -/
def execMloadw (o : OpM) (s : State) : Host.Outcome State Fault Refusal := matrixCmd (.mloadw o) o s

/-- MSTREAM (R294). -/
def execMstream (o : OpM) (s : State) : Host.Outcome State Fault Refusal := matrixCmd (.mstream o) o s

/-- MFMT (R295). -/
def execMfmt (o : OpM) (s : State) : Host.Outcome State Fault Refusal := matrixCmd (.mfmt o) o s

/-- MCLR (R296). -/
def execMclr (o : OpM) (s : State) : Host.Outcome State Fault Refusal := matrixCmd (.mclr o) o s

/-- MDRAIN (R297). -/
def execMdrain (o : OpM) (s : State) : Host.Outcome State Fault Refusal := matrixCmd (.mdrain o) o s

/-- MSTAT (R298). -/
def execMstat (o : OpM) (s : State) : Host.Outcome State Fault Refusal := matrixCmd (.mstat o) o s

/-! ## AMOV (R299) -/

/-- The column that an AMOV names. -/
def amovCol (o : OpM) (s2 : Word) : Nat := if o.s2 = .none then o.imm.toNat % 256 else s2.toNat % 256

/-- The columns of an AMOV: one, or a pair. -/
def amovCols (o : OpM) (n : Nat) : List Nat := if o.ty = .fp64 then [n, n + 1] else [n]

/-- The local-guard trap of an AMOV on its columns (R299, R399). -/
def amovTrap (o : OpM) (read : Bool) (c : Core) (n : Nat) : Option Trap :=
  let bad (k : Nat) : Bool :=
    (c.col k).state == .park || (read && (c.col k).state == .acc && (c.col k).fmt != o.ty)
  if (o.ty = .fp64 ∧ n % 2 = 1) ∨ (amovCols o n).any bad then some (guardTrap 0x0B (word n))
  else if read ∧ c.colPoison (amovCols o n) then some (guardTrap 0x10 (word n))
  else none

/-- AMOV from a column (R299). -/
def execAmovRead (o : OpM) (s : State) : Host.Outcome State Fault Refusal :=
  issued (fieldsM o) anyLevel [] s fun x s0 s1 =>
    let i := s0.cur
    let n := amovCol o x.s2
    match amovTrap o true s0.self n with
    | some t => .trap s0 t
    | none =>
      let t := s1.correctCols i (amovCols o n)
      let c := t.self
      .ok (t.setSelf (
        if o.ty = .fp64 then
          let half (h : Nat) : VReg := (List.range 4).foldl (fun v k => setElem 64 v k (c.accOut true n (4 * h + k))) 0
          (c.setDstV o.d (half 0)).setDstV (nextReg o.d) (half 1)
        else c.setDstV o.d (c.col n).bits))

/-- AMOV to a column (R299); it stalls while an unfinished command names the column. -/
def execAmovWrite (o : OpM) (s : State) : Host.Outcome State Fault Refusal :=
  issued (fieldsM o) anyLevel (if o.ty = .fp64 then [nextReg o.s1] else []) s fun x s0 s1 =>
    let c := s0.self
    let n := amovCol o x.s2
    match amovTrap o false c n with
    | some t => .trap s0 t
    | none =>
      if (amovCols o n).any c.columnBusy then .wait s0 stallWait
      else
        let a := c.srcV s.free 1 o.s1
        let d := s1.self
        .ok (s1.setSelf (
          if o.ty = .fp64 then
            let b := c.srcV s.free 2 (nextReg o.s1)
            let d := if o.l1 then d.freeReg (nextReg o.s1) else d
            d.putOuts true .fp64 n ((List.range 8).map fun k => if k < 4 then elem 64 a k else elem 64 b (k - 4))
          else d.setCol n { state := .acc, fmt := o.ty, bits := a }))

/-! ## Capabilities and commands over channels -/

/-- CHECK of a capability's bits 43:0 under a partition's key (R287). -/
def capCheck (key : BitVec 256) (low : Nat) : Nat := bits (Config.capCode key [word low]) 0 20

/-- MCAP (R302). -/
def execMcap (o : OpM) (s : State) : Host.Outcome State Fault Refusal :=
  issued (fieldsM o) (needsP1 (irOf (.mcap o))) [] s fun x s0 s1 =>
    let node := x.s1.toNat
    let imm := o.imm.toNat
    let w : Word :=
      if 2 ^ 24 ≤ node ∨ nodeKind node ≠ 5 then 0
      else
        match s0.partOf? s0.cur with
        | none => 0
        | some (n, p) =>
          let low := field imm 19 1 * 2 ^ 43 + field imm 18 1 * 2 ^ 42 + field imm 17 1 * 2 ^ 41
            + field imm 16 1 * 2 ^ 40 + n * 2 ^ 34 + field imm 0 10 * 2 ^ 24 + node
          word (capCheck p.key low * 2 ^ 44 + low)
    .ok (s1.setSelf (s1.self.setDst o.d w))

/-- Whether a capability word admits commands at a unit (R288). -/
def State.capGood (s : State) (q : PeerSide) (w : Word) : Bool :=
  match s.part? q.part with
  | none => false
  | some p =>
    bits w 44 20 == capCheck p.key (bits w 0 44) && bits w 0 24 == s.asSeen q.node && bits w 34 6 == q.part
      && s.pnum (nodeIdx q.node) == q.part && bits w 24 10 != 0

/-- The unit answers with a status and aborts the channel with it as CAUSE (R288). -/
def State.refuseSide (s : State) (q : PeerSide) (st : Nat) : State :=
  let t := s.peerMsg q 2 (leBytes 8 (statusWord 0 0 st).toNat)
  match t.peer? q.chan with
  | some r => t.peerAborts r 2 st
  | none => t

/-- The unit takes a message of a type off its side of a channel, unless the core is away; a poisoned one aborts. -/
def State.unitTakes (s : State) (chan mt : Nat) (k : State → PeerSide → List Byte → State) : State :=
  match s.peer? chan with
  | none => s
  | some q =>
    if !q.matrix ∨ (s.core (nodeIdx q.node)).diverts then s
    else
      match q.next? with
      | some (_, m, bs, poison) =>
        if m ≠ mt then s
        else if poison then s.peerAborts q (if mt = 0 then 0 else 2) stPoison
        else k s q bs
      | none => s

/-- CAP_WORD (R288). -/
def execCapWord (chan : Nat) (s : State) : Host.Outcome State Fault Refusal :=
  .next (s.unitTakes chan 0 fun s q bs =>
    let w := word (leNat bs)
    let t := s.peerTakes q
    match t.peer? chan with
    | none => t
    | some r =>
      if s.capGood q w then
        (t.peerMsg r 2 (leBytes 8 (statusWord 0 (bits w 24 10) stOk).toNat)).onPeer chan fun q =>
          { q with auth := some (w, 0) }
      else t.refuseSide r 0x30)

/-- The right of a capability that an operation needs (R287): the bit, or none for another operation. -/
def rightBit : Nat → Option Nat
  | 0x180 => some 41
  | 0x181 => some 42
  | 0x182 | 0x183 | 0x186 => some 40
  | 0x184 => some 43
  | _ => none

/-- The instruction that a command vector carries (R300), where its fields form one. -/
def carried? (bs : List Byte) : Option Instr :=
  let w := fieldAt bs 0 4
  let op := field w 0 9
  let scaled : Opnd := if fieldAt bs 16 8 = 0 then .none else .g 9
  match tyOfCode (field w 13 5), ordOfCode (field w 20 3) with
  | some ty, some ord =>
    let o : OpM := { sub := BitVec.ofNat 4 (field w 9 4), ty := ty, ctx := Fin.ofNat 4 (field w 18 2), ord := ord,
                     imm := BitVec.ofNat 32 (fieldAt bs 4 4) }
    let unused (l : List Nat) : Bool := l.any fun x => fieldAt bs x 8 != 0
    let keep (bad : Bool) (i : Instr) : Option Instr := if bad ∨ field w 23 9 ≠ 0 ∨ !i.wf then none else some i
    match op with
    | 0x180 => keep (unused [24]) (.mloadw { o with d := .g 8, s1 := scaled })
    | 0x181 => keep false (.mstream { o with d := .g 8, s1 := scaled, s2 := .g 10 })
    | 0x182 => keep (unused [8, 24]) (.mfmt { o with s1 := .g 9 })
    | 0x183 => keep (unused [8, 24]) (.mclr { o with s1 := .g 9 })
    | 0x184 => keep false (.mdrain { o with d := .g 8, s1 := scaled, s2 := .g 10 })
    | 0x186 => keep (unused [16, 24]) (.mstat { o with d := .g 8 })
    | _ => none
  | _, _ => none

/-- A carried command is checked at its target at P0, then accepted, refused, or left to wait (R288, R300). -/
def State.carry (s : State) (q : PeerSide) (w : Word) (n : Nat) (bs : List Byte) : State :=
  let i := nodeIdx q.node
  let answer (st : Nat) : State :=
    let t := s.peerTakes q
    match t.peer? q.chan with
    | some r => t.peerMsg r 2 (leBytes 8 (statusWord 0 r.remaining st).toNat)
    | none => t
  let ctx := field (fieldAt bs 0 4) 18 2
  if bits w 24 10 ≤ n then
    match (s.peerTakes q).peer? q.chan with
    | some r => (s.peerTakes q).refuseSide r 0x32
    | none => s
  else if (rightBit (field (fieldAt bs 0 4) 0 9)).any fun b => bits w b 1 == 0 then answer 0x31
  else
    match carried? bs with
    | none => answer 0x33
    | some ins =>
      let c := { s.core i with kpriv := setBits (s.core i).kpriv 0 2 0 }
      let k := s.matIssue i c ins (word (fieldAt bs 8 8)) (word (fieldAt bs 16 8)) (word (fieldAt bs 24 8))
      if k.trap.isSome then answer 0x33
      else if (s.core i).contextFull ctx then s
      else
        let t := s.peerTakes q
        let tl := (s.core i).issued[ctx]! + 1
        let t := t.onPeer q.chan fun q => { q with auth := some (w, n + 1), cmd := some (ctx, tl) }
        t.acceptCmd i { ctx := ctx, tl := 0, drain := field (fieldAt bs 0 4) 20 3 == 3,
                        ord := (ordOfCode (field (fieldAt bs 0 4) 20 3)).getD .rlx, op := k.op,
                        items := k.phases, chan := some q.chan }

/-- COMMAND_VECTOR (R288, R300). -/
def execCommandVector (chan : Nat) (s : State) : Host.Outcome State Fault Refusal :=
  .next (s.unitTakes chan 1 fun s q bs =>
    match q.auth, q.cmd with
    | some (w, n), none => s.carry q w n bs
    | _, _ => s)

/-- Whether an MCMD in progress has sent its command. -/
def Core.commanded (c : Core) : Bool :=
  match c.wait with
  | some w => w.stage == .commanded
  | none => false

/-- The endpoint that an operand names. -/
def endpointNo : Opnd → Nat
  | .e n => n.val
  | _ => 0

/-- Refusals of MCMD (R156, R301): of a send of type 1, and of an endpoint that is not a MATCMD in idle. -/
def State.commandRefusals (s : State) (i e : Nat) : List Nat :=
  let x := (s.core i).ep e
  let slot := s.slot i x.slot
  s.refusals i e .sendv 1
    ++ (if x.binding == .user && (!isMatCmd slot || x.state != 2) then [0x03] else [])

/-- MCMD (R301). -/
def execMcmd (o : OpM) (s : State) : Host.Outcome State Fault Refusal :=
  let e := endpointNo o.s1
  let refused := if s.self.commanded then none else s.refuse e (s.commandRefusals s.cur e)
  channelOp (fieldsM o) (limitPriv (irOf (.mcmd o)) o.imm) s refused fun _ s0 s1 =>
    let i := s0.cur
    let w (detail : Nat) := s0.chanWaits detail e o.imm []
    if s0.self.commanded then
      let wait := { w 0x20 with stage := .commanded }
      let ends (t : State) (x : Word) : Result := .ok (t.setSelf (t.self.setDst o.d x))
      match s0.delivery i e with
      | .none | .link _ => .wait s0 wait
      | .closed x => ends s1 x
      | .poisoned x => ends (s1.failEp i e 0x04) x
      | .msg m bs => ends ((s1.correctSlot i e m).takeMsg i e 1 m.mt) (word (leNat bs))
    else if !s0.sendOk i e then .wait s0 (w 0x21)
    else
      .wait (s0.transmit i e 0 1 o.cls (leBytes 32 (s0.self.srcV s0.free 2 o.s2).toNat) false none)
        { w 0x20 with stage := .commanded }

end Sys2Proof.Machine
end

