-- ==== Sys2Proof/Machine/Monitors.lean ====
section
/-! DEFINITION. The monitor table of a cluster and WAITA (R231 to R234). -/
namespace Sys2Proof.Machine

/-- The waiters of a cluster without those of a core. -/
def State.dropWaiter (s : State) (i : Nat) : State :=
  let n := clusterOf i
  let k := s.cluster n
  if k.monitors.any fun m => m.core == i then
    s.setCluster n { k with monitors := k.monitors.filter fun m => m.core != i }
  else s

/-- Whether the table of 8 entries takes a waiter on a location (R231). -/
def Cluster.monitorRoom (k : Cluster) (key : Nat) : Bool :=
  let locs := (k.monitors.map fun m => m.loc / 8).eraseDups
  locs.contains (key / 8) || decide (locs.length < 8)

/-- A WAITA in progress: armed, and whether it was woken. -/
def Core.waitaStage (c : Core) : Option Bool :=
  match c.wait with
  | some w =>
    match w.stage with
    | .monitoring b => some b
    | _ => none
  | none => none

/-- WAITA (R233). -/
def execWaita (o : OpM) (s : State) : Host.Outcome State Fault Refusal :=
  issued (fieldsM o) (limitPriv (irOf (.waita o)) o.imm) [] s fun x s0 s1 =>
    let i := s0.cur
    let a := x.s1
    let n := tySize o.ty
    let key := localKey i a
    let ends (r : Nat) : Result :=
      let t := s1.correct key n
      .ok (t.setSelf (t.self.setDst o.d (word r)))
    let k := s0.cluster (clusterOf i)
    let w : Wait := { detail := 0x28, left := s0.self.waitLeft o.imm, stage := .monitoring false,
                      args := [a.toNat, (extendTy o.ty (patternOf o.ty x.s2)).toNat, n] }
    match s0.self.waitaStage with
    | some true => ends 0x00
    | some false => .wait s0 w
    | none =>
      match s0.self.addressTrap .load a n n with
      | some t => .trap s0 t
      | none =>
        if a.toNat < scratchBase then .trap s0 (guardTrap 0x0A a)
        else if poisoned s0 key n then .trap s0 (guardTrap 0x10 a)
        else if s0.localNat a n ≠ patternOf o.ty x.s2 then ends 0x00
        else if !k.monitorRoom key then ends 0x06
        else
          .wait ((s0.correct key n).setCluster (clusterOf i)
            { k with monitors := k.monitors ++ [{ loc := key, width := 8 * n, value := x.s2, core := i }] }) w

/-- WAITA_WAKE (R233): a waiter whose word a write has changed wakes and leaves the table. -/
def execWaitaWake (core : Nat) (s : State) : Host.Outcome State Fault Refusal :=
  .next (if (s.cluster (clusterOf core)).monitors.any fun m => m.core == core && m.fired then
      (s.dropWaiter core).onCore core fun c =>
        { c with wait := c.wait.map fun w => { w with stage := .monitoring true } }
    else s)

end Sys2Proof.Machine
end

