-- ==== Sys2Proof/Machine/Trees.lean ====
section
/-! DEFINITION. Reductions in the network (R304 to R313), supersteps and votes (R344, R345). -/
namespace Sys2Proof.Machine

/-! ## Domains and the logical tree (R304) -/

/-- The domain of a level at a core (R304, R307): its rectangle word, where it exists. -/
def Core.domain? (c : Core) (level : Nat) : Option Word :=
  let plain (w : Word) : Word := let (x0, y0, x1, y1) := rectOf w; rectWord x0 y0 x1 y1
  match level with
  | 0 => some (plain c.kgroup)
  | n + 1 => if n < 4 ∧ bits (c.kdom[n]!) 63 1 = 1 then some (plain c.kdom[n]!) else none

/-- A rectangle word as a rectangle. -/
def rectFrom (w : Word) : Rect :=
  let (x0, y0, x1, y1) := rectOf w
  { x := x0, y := y0, w := x1 + 1 - x0, h := y1 + 1 - y0 }

/-- The members of a rectangle, row by row, as y·1024 + x. -/
def Rect.members (r : Rect) : List Nat :=
  ((List.range r.h).map fun y => (List.range r.w).map fun x => (r.y + y) * 1024 + r.x + x).flatten

/-- The side of what a slot of a level covers. -/
def slotSide (level : Nat) : Nat := 4 ^ (level - 1)

/-- Slots of a node of a level. -/
def slotCount (level : Nat) : Nat := if level = 4 then 256 else 16

/-- The rectangle that a slot of a node covers. -/
def slotRect (level idx slot : Nat) : Rect :=
  let a := slotSide level
  if level = 4 then { x := slot % 16 * 64, y := slot / 16 * 64, w := 64, h := 64 }
  else
    let across := 256 / a
    { x := idx % across * (4 * a) + slot % 4 * a, y := idx / across * (4 * a) + slot / 4 * a, w := a, h := a }

/-- The node of a level above a place. -/
def nodeAt (level x y : Nat) : Nat :=
  if level = 4 then 0 else (y / (4 * slotSide level)) * (256 / slotSide level) + x / (4 * slotSide level)

/-- The slot of a level's node in which a place lies. -/
def slotAt (level x y : Nat) : Nat :=
  if level = 4 then hallIndex x y else (y / slotSide level % 4) * 4 + x / slotSide level % 4

/-- The present slots of a node for a domain. -/
def presentSlots (dom : Rect) (level idx : Nat) : List Nat :=
  (List.range (if level = 4 then 160 else 16)).filter fun s => (slotRect level idx s).meets dom

/-- Members of a domain in a slot's subtree. -/
def slotMembers (dom : Rect) (level idx slot : Nat) : List Nat :=
  let r := slotRect level idx slot
  r.members.filter fun m =>
    decide (dom.x ≤ m % 1024) && decide (m % 1024 < dom.x + dom.w) && decide (dom.y ≤ m / 1024)
      && decide (m / 1024 < dom.y + dom.h)

/-! ## Combining (R305, R312) -/

/-- Elements with their flags. -/
structure Partial where
  elems : List Nat
  flags : Nat := 0
  deriving DecidableEq, Repr, Inhabited

/-- Flags 1 INEXACT, 2 OVERFLOW, 4 INVALID of an event mask. -/
def redFlags (e : Ev) : Nat :=
  (if e.getLsbD 4 then 1 else 0) + (if e.getLsbD 2 then 2 else 0) + (if e.getLsbD 0 then 4 else 0)

/-- Combine of R305, or the saturating sum of CSUM (R312). -/
def combine (kind : TreeKind) (ty : Ty) (a b : Partial) : Partial :=
  match kind with
  | .csum => { elems := (a.elems.zip b.elems).map fun p => min (p.1 + p.2) 0xFFFFFFFF }
  | _ =>
    let rs := (a.elems.zip b.elems).map fun p => fAdd ty .rne false false p.1 p.2
    { elems := rs.map (·.bits), flags := rs.foldl (fun f r => f ||| redFlags r.ev) (a.flags ||| b.flags) }

/-- The value of a slot, absent where it is empty. -/
def NodeVal.part? (v : NodeVal) : Option Partial :=
  if v.elems.isEmpty then none else some { elems := v.elems, flags := v.flags }

/-- A value whose NaNs are canonical (R305): one contributor meets no Combine. -/
def Partial.canonical (kind : TreeKind) (ty : Ty) (x : Partial) : Partial :=
  if kind = .csum then x else { x with elems := x.elems.map (Machine.canonical ty) }

/-- The combination of a node's slots in the order that RED names (R305). -/
def combineSlots (kind : TreeKind) (p : TreeParams) (level : Nat) (slots : List (Nat × NodeVal)) : Option Partial :=
  let vs := (List.range (slotCount level)).map fun s => (tget? slots s).bind NodeVal.part?
  if p.sub = 1 ∧ kind = .red then pairTree (combine kind p.ty) (if level = 4 then 8 else 4) vs
  else
    vs.foldl (fun acc v =>
      match acc, v with
      | some a, some b => some (combine kind p.ty a b)
      | none, v => v
      | a, none => a) none

/-! ## Nodes -/

/-- The destination under which a contribution travels: no node identifier of R19 has this kind. -/
def treeDst : Nat := 7 * 2 ^ 20

/-- A contribution or partial sent to a node. -/
def State.contribute (s : State) (from' : Nat) (key : TreeKey) (level idx slot : Nat) (p : TreeParams)
    (limit : Option Nat) (v : NodeVal) (after : List Nat) : State :=
  s.send treeDst 0 from' from' .o (.contribution key level idx slot p limit v after)

/-- A node of a key. -/
def State.node? (s : State) (key : TreeKey) (level idx : Nat) : Option TreeNode :=
  s.nodes.find? fun d => d.key == key && d.level == level && d.idx == idx

/-- The state with one node changed. -/
def State.onNode (s : State) (id : Nat) (f : TreeNode → TreeNode) : State :=
  { s with nodes := s.nodes.map fun d => if d.id = id then f d else d }

/-- The physical core of a member. -/
def State.memberAt (s : State) (part m : Nat) : Nat :=
  match s.part? part with
  | some p => (64 * p.hy0 + m / 1024) * 1024 + 64 * p.hx0 + m % 1024
  | none => m

/-- A result sent to members of a domain. -/
def State.sendResult (s : State) (key : TreeKey) (members : List Nat) (r : HeldResult) : State :=
  members.foldl (fun (t : State) m => t.send (t.memberAt key.part m) 0 0 treeDst .o (.result r)) s

/-- The result that a final record gives. -/
def FinalRec.result (f : FinalRec) : HeldResult :=
  { kind := f.key.kind, level := f.key.dom, n := f.key.n, status := f.status, nelem := f.p.nelem, ty := f.p.ty,
    elems := f.v.elems, flags := f.v.flags, missing := f.v.missing }

/-- Status INCOMPLETE. -/
def stIncomplete : Nat := 0x05
/-- Status RED-MISMATCH. -/
def stMismatch : Nat := 0x1C
/-- Status RED-STALE. -/
def stStale : Nat := 0x1D

/-- Elements of a result (R307, R312). -/
def TreeKey.elems (k : TreeKey) (p : TreeParams) : Nat := if k.kind = .csum then 16 else p.nelem

/-- The top node's value is final (R309): its record is kept with the three before it, it goes to every member in it, and
an incomplete one is reported (R346). A lower node that has not passed its value up stays: what it passes later finds the
record. -/
def State.finish (s : State) (key : TreeKey) (p : TreeParams) (v : NodeVal) : State :=
  let zero := List.replicate (key.elems p) 0
  let f : FinalRec :=
    if v.mismatch then { key := key, p := p, status := stMismatch, v := { v with elems := zero, flags := 0, missing := [] } }
    else if v.poison then
      -- an error that a queue could not correct (R399; log 118)
      { key := key, p := p, status := stPoison, v := { v with elems := zero, flags := 0 } }
    else
      { key := key, p := p, status := if v.missing.isEmpty then stOk else stIncomplete,
        v := { v with elems := if v.elems.isEmpty then zero else v.elems } }
  let same (g : FinalRec) : Bool :=
    g.key.part == key.part && g.key.rect == key.rect && g.key.dom == key.dom && g.key.kind == key.kind
  let old := s.finals.filter same
  let s := { s with
    finals := s.finals.filter (!same ·) ++ old.drop (old.length - 3) ++ [f]
    nodes := s.nodes.filter fun d => d.key != key || (decide (d.level < 4) && !d.passed) }
  let s := if f.status = stIncomplete then s.notice key.part 5 key.rect (word key.n) v.missing.length else s
  s.sendResult key v.members f.result

/-- A node passes its value up (R309): what has reported is combined, and the members that have not are named. -/
def State.passUp (s : State) (d : TreeNode) : State :=
  let dom := rectFrom d.key.rect
  let lost := (presentSlots dom d.level d.idx).filter fun k => (tget? d.slots k).isNone
  let missing := (lost.map fun k => slotMembers dom d.level d.idx k).flatten
  let x := (combineSlots d.key.kind d.p d.level d.slots).map (Partial.canonical d.key.kind d.p.ty)
  let v : NodeVal :=
    { elems := (x.map (·.elems)).getD [], flags := (x.map (·.flags)).getD 0,
      members := (d.slots.map fun k => k.2.members).flatten,
      missing := if d.mismatch then [] else missing ++ (d.slots.map fun k => k.2.missing).flatten,
      mismatch := d.mismatch || d.slots.any fun k => k.2.mismatch
      poison := d.slots.any fun k => k.2.poison }
  let final := s.finals.any fun f => f.key == d.key
  let s := if final then { s with nodes := s.nodes.filter fun x => x.id != d.id }
    else s.onNode d.id fun d => { d with passed := true }
  if d.level = 4 then s.finish d.key d.p v
  else
    let r := slotRect d.level d.idx 0
    s.contribute 0 d.key (d.level + 1) (nodeAt (d.level + 1) r.x r.y) (slotAt (d.level + 1) r.x r.y) d.p d.limit v []

/-- Whether a node has heard from every present slot. -/
def TreeNode.full (d : TreeNode) : Bool :=
  (presentSlots (rectFrom d.key.rect) d.level d.idx).all fun k => (tget? d.slots k).isSome

/-- A contribution or partial reaches a node that has not passed (R309). A mismatch completes the reduction at once. -/
def State.enterNode (s : State) (key : TreeKey) (level idx slot : Nat) (p : TreeParams) (limit : Option Nat)
    (v : NodeVal) : State :=
  let s : State := match s.node? key level idx with
    | some _ => s
    | none => { s with
        nodes := s.nodes ++ [{ id := s.fresh, key := key, level := level, idx := idx, p := p, left := limit, limit := limit }]
        fresh := s.fresh + 1 }
  match s.node? key level idx with
  | none => s
  | some d =>
    let d := { d with slots := tset d.slots slot v, mismatch := d.mismatch || v.mismatch || p != d.p }
    let s := s.onNode d.id fun _ => d
    if d.mismatch ∨ d.full then s.passUp d else s

/-- The final record that answers a late contribution, or the answer RED-STALE (R309). -/
def State.late? (s : State) (key : TreeKey) (p : TreeParams) : Option HeldResult :=
  let same := s.finals.filter fun g =>
    g.key.part == key.part && g.key.rect == key.rect && g.key.dom == key.dom && g.key.kind == key.kind
  match same.find? fun g => g.key.n == key.n with
  | some f => some f.result
  | none =>
    if 4 ≤ same.length ∧ same.all fun g => decide (key.n < g.key.n) then
      some { kind := key.kind, level := key.dom, n := key.n, status := stStale, nelem := p.nelem, ty := p.ty,
             elems := List.replicate (key.elems p) 0 }
    else none

/-- A superstep or vote collects its members at one node, by member (R344, R345). -/
def State.enterDomain (s : State) (key : TreeKey) (slot : Nat) (p : TreeParams) (v : NodeVal) : State :=
  match s.node? key 4 0 with
  | some d => s.onNode d.id fun d => { d with slots := tset d.slots slot v, mismatch := d.mismatch || p.sub != d.p.sub }
  | none =>
    { s with nodes := s.nodes ++ [{ id := s.fresh, key := key, level := 4, idx := 0, p := p, slots := [(slot, v)] }]
             fresh := s.fresh + 1 }

/-- CONTRIBUTION (R309): a contribution or partial reaches its node, once the accesses that it waits for are
acknowledged (R308); after its node has passed, it goes on to the top, and takes the final record there. -/
def execContribution (packet : Nat) (s : State) : Host.Outcome State Fault Refusal :=
  .next (match s.packet? packet with
    | none => s
    | some q =>
      match q.body with
      | .contribution key level idx slot p limit v after =>
        if !s.allAcked q.chan after then s
        else
          let t := s.takeOff q
          match key.kind with
          | .step | .vote => t.enterDomain key slot p v
          | _ =>
            match s.late? key p, s.node? key level idx with
            | some r, _ => t.sendResult key v.members r
            | none, some d =>
              if level = 5 then s
              else if d.passed then t.contribute q.chan key 5 0 slot p limit v []
              else t.enterNode key level idx slot p limit v
            | none, none => if level = 5 then s else t.enterNode key level idx slot p limit v
      | _ => s)

/-- NODE_TIMER_EXPIRY (R309). -/
def execNodeTimerExpiry (node : Nat) (s : State) : Host.Outcome State Fault Refusal :=
  .next (match s.nodes.find? fun d => d.id == node with
    | some d => if d.left = some 0 ∧ !d.passed ∧ !s.isHeld d.key.part then s.passUp d else s
    | none => s)

/-- RESULT_ARRIVAL (R310): a result reaches its member and is held there. -/
def execResultArrival (packet : Nat) (s : State) : Host.Outcome State Fault Refusal :=
  .next (s.arrive packet (fun
    | .result _ => true
    | _ => false) false)

/-! ## Descriptors (R307) -/

/-- LEVEL of a descriptor. -/
def descLevel (d : Word) : Nat := bits d 0 3

/-- NELEM of a descriptor. -/
def descElems (d : Word) : Nat := bits d 8 6

/-- A descriptor whose reserved bits or domain break R307; CLR and NELEM where they must be zero. -/
def Core.descBad (c : Core) (d : Word) (clr nelem : Bool) : Bool :=
  bits d 17 47 != 0 || bits d 14 2 != 0 || bits d 3 5 != 0 || (!clr && bits d 16 1 != 0) || (!nelem && descElems d != 0)
    || (c.domain? (descLevel d)).isNone

/-- Whether NELEM is allowed for a type. -/
def elemsOk (ty : Ty) (n : Nat) : Bool :=
  if ty = .fp64 then n == 4 || n == 8 else n == 8 || n == 16 || n == 32

/-- Registers of a group. -/
def redRegs (ty : Ty) (n : Nat) : Nat := n * tyBits ty / 256

/-- Whether a group operand starts at a multiple of its length. -/
def aligned (o : Opnd) (k : Nat) : Bool :=
  match o with
  | .v r => r.val % k == 0
  | _ => false

/-- The descriptor trap (R307). -/
def descTrap (d : Word) : Trap := guardTrap 0x0C d

/-- The counts of a level. -/
def Core.lv (c : Core) (level : Nat) : LevelCounts := c.counts[level]!

/-- The core with the counts of a level changed. -/
def Core.onLv (c : Core) (level : Nat) (f : LevelCounts → LevelCounts) : Core :=
  { c with counts := c.counts.set! level (f (c.lv level)) }

/-- What identifies the n-th operation of a kind at a core's level. -/
def State.treeKey (s : State) (i level : Nat) (kind : TreeKind) (n : Nat) : TreeKey :=
  { part := s.pnum i, rect := ((s.core i).domain? level).getD 0, dom := level, kind := kind, n := n }

/-- A core's own contribution, to its level-1 node. -/
def State.contributeOwn (s : State) (i : Nat) (key : TreeKey) (p : TreeParams) (limit : Option Nat) (elems : List Nat)
    (after : List Nat) : State :=
  let v := s.virt i
  s.contribute i key 1 (nodeAt 1 v.1 v.2) (slotAt 1 v.1 v.2) p limit { elems := elems, members := [v.2 * 1024 + v.1] } after

/-! ## RED, REDW and CSUM -/

/-- The elements of a group of registers. -/
def Core.groupElems (c : Core) (n : Nat) (o : Opnd) (ty : Ty) (count : Nat) : List Nat :=
  let per := 256 / tyBits ty
  (List.range count).map fun j =>
    elem (tyBits ty) (c.srcV n (10 + j / per) (((groupOf o (redRegs ty count))[j / per]?).getD o)) (j % per)

/-- RED (R308). -/
def execRed (o : OpM) (s : State) : Host.Outcome State Fault Refusal :=
  let d := s.self.srcWord s.free 2 o.s2 0
  let n := descElems d
  let regs := groupOf o.s1 (max 1 (redRegs o.ty n))
  issued { fieldsM o with l1 := false } (limitPriv (irOf (.red o)) o.imm) regs s fun _ s0 s1 =>
    let c := s0.self
    let i := s0.cur
    let level := descLevel d
    if c.descBad d false true ∨ !elemsOk o.ty n ∨ !aligned o.s1 (redRegs o.ty n) then .trap s0 (descTrap d)
    else if 4 ≤ (c.lv level).redSeq - (c.lv level).redTaken then .trap s0 (descTrap d)
    else
      let m := (c.lv level).redSeq + 1
      let (t, held) := s1.releasing i (o.ord == .rel)
      let t := t.contributeOwn i (s0.treeKey i level .red m)
        { sub := o.sub.toNat, ty := o.ty, nelem := n, imm := o.imm.toNat } (c.limitOf o.imm)
        (c.groupElems s.free o.s1 o.ty n) held
      let c1 := if o.l1 then regs.foldl Core.freeReg t.self else t.self
      .ok (t.setSelf (c1.onLv level fun l => { l with redSeq := m }))

/-- The result of a kind, level and number that a core holds. -/
def Core.held? (c : Core) (kind : TreeKind) (level n : Nat) : Option HeldResult :=
  c.results.find? fun r => r.kind == kind && r.level == level && r.n == n

/-- The core without the results of a kind and level up to a number. -/
def Core.dropResults (c : Core) (kind : TreeKind) (level n : Nat) : Core :=
  { c with results := c.results.filter fun r => !(r.kind == kind && r.level == level && decide (r.n ≤ n)) }

/-- The status word (R310). -/
def redStatus (misscnt flags status : Nat) : Word := word (misscnt % 2 ^ 32 * 2 ^ 32 + flags * 2 ^ 8 + status)

/-- The elements of a result written to a group of registers. -/
def Core.putElems (c : Core) (o : Opnd) (ty : Ty) (xs : List Nat) : Core :=
  let per := 256 / tyBits ty
  ((groupOf o (redRegs ty xs.length)).zipIdx).foldl (fun (c : Core) r =>
    c.setDstV r.1 ((List.range per).foldl (fun v j => setElem (tyBits ty) v j ((xs[r.2 * per + j]?).getD 0)) 0)) c

/-- Bits and granularity of the MISSING field for a domain (R310). -/
def missBits (r : Rect) : Nat × Nat :=
  if r.w * r.h ≤ 4096 then (r.w * r.h, 0)
  else (((r.x + r.w - 1) / 4 + 1 - r.x / 4) * ((r.y + r.h - 1) / 4 + 1 - r.y / 4), 1)

/-- The bit of a member in the MISSING field. -/
def missBit (r : Rect) (m : Nat) : Nat :=
  let x := m % 1024
  let y := m / 1024
  if (missBits r).2 = 0 then (y - r.y) * r.w + (x - r.x)
  else (y / 4 - r.y / 4) * ((r.x + r.w - 1) / 4 + 1 - r.x / 4) + (x / 4 - r.x / 4)

/-- The bytes of a result record (R310). -/
def redRecord (r : Rect) (st : Word) (n : Nat) (missing : List Nat) : List Byte :=
  let (b, gran) := missBits r
  let map := (missing.map (missBit r)).eraseDups.foldl (fun x k => x + 2 ^ k) 0
  leBytes 8 st.toNat ++ leBytes 4 n ++ leBytes 4 b ++ leBytes 16 gran ++ leBytes ((b + 7) / 8) map

/-- REDW (R310). -/
def execRedw (o : OpM) (s : State) : Host.Outcome State Fault Refusal :=
  issued (fieldsM o).noS3 (limitPriv (irOf (.redw o)) o.imm) [] s fun x s0 s1 =>
    let c := s0.self
    let d := x.s2
    let n := descElems d
    let level := descLevel d
    let lv := c.lv level
    if c.descBad d false true ∨ !elemsOk o.ty n ∨ !aligned o.d (redRegs o.ty n) ∨ lv.redSeq = lv.redTaken then
      .trap s0 (descTrap d)
    else
      let r := rectFrom ((c.domain? level).getD 0)
      let len := 32 + ((missBits r).1 + 7) / 8
      match if o.s1 = .none then none else s0.localTrap .store x.s1 len 32 with
      | some t => .trap s0 t
      | none =>
        let m := lv.redTaken + 1
        match c.held? .red level m with
        | none => .wait s0 { detail := 0x29, left := c.waitLeft o.imm, args := [level, m] }
        | some h =>
          let same := h.nelem = n
          let st := if same then redStatus h.missing.length h.flags h.status else redStatus 0 0 stMismatch
          let xs := if same then h.elems else List.replicate n 0
          let t := if o.s1 = .none then s1
            else s1.progStore x.s1 (redRecord r st m (if same then h.missing else []))
          let c1 := (t.self.dropResults .red level m).onLv level fun l => { l with redTaken := m }
          .ok (t.setSelf ((c1.putElems o.d o.ty xs).setDst o.s3 st))

/-- Whether a CSUM of a level has contributed and not completed (R312, R411). -/
def Core.summing (c : Core) (level : Nat) : Bool :=
  c.pendCsum.getLsbD level
    || (match c.wait with
        | some w =>
          match w.stage with
          | .summed _ => true
          | _ => false
        | none => false)

/-- A CSUM contributes: the counters are read, and zeroed with CLR (R312). -/
def State.contributeCsum (s : State) (i level : Nat) (clr : Bool) (imm : BitVec 32) : State :=
  let c := s.core i
  let n := (c.lv level).csumSeq + 1
  let t := s.contributeOwn i (s.treeKey i level .csum n) { imm := imm.toNat } (c.limitOf imm)
    (c.kev.toList.map fun w => bits w 0 32) []
  t.onCore i fun c =>
    { c.onLv level fun l => { l with csumSeq := n } with kev := if clr then Vector.replicate 16 0 else c.kev }

/-- CSUM (R312). -/
def execCsum (o : OpM) (s : State) : Host.Outcome State Fault Refusal :=
  issued (fieldsM o).noS3 (limitPriv (irOf (.csum o)) o.imm) [] s fun x s0 s1 =>
    let c := s0.self
    let d := x.s2
    let level := descLevel d
    if c.descBad d true false ∨ !aligned o.d 2 then .trap s0 (descTrap d)
    else if !c.summing level then
      let n := (c.lv level).csumSeq + 1
      .wait (s0.contributeCsum s0.cur level (bits d 16 1 == 1) o.imm)
        { detail := 0x2A, left := c.waitLeft o.imm, stage := .summed n, args := [level, n] }
    else
      let n := (c.lv level).csumSeq
      match c.held? .csum level n with
      | none => .wait s0 { detail := 0x2A, left := c.waitLeft o.imm, stage := .summed n, args := [level, n] }
      | some h =>
        let c1 := s1.self.dropResults .csum level n
        let c1 := { c1 with pendCsum := c1.pendCsum &&& ~~~(1#5 <<< level) }
        .ok (s1.setSelf ((c1.putElems o.d .fp32 h.elems).setDst o.s3 (redStatus h.missing.length 0 h.status)))

/-! ## Supersteps and votes -/

/-- SSTEP (R344): it holds as SPAWN holds, but only toward the members of the domain. -/
def execSstep (o : OpA) (s : State) : Host.Outcome State Fault Refusal :=
  issued (fieldsA o) (limitPriv (irOf (.sstep o)) o.imm) [] s fun x s0 s1 =>
    let c := s0.self
    let i := s0.cur
    let d := x.s1
    let level := descLevel d
    if c.descBad d false false then .trap s0 (descTrap d)
    else
      let n := (c.lv level).stepArr
      let w (n : Nat) : Wait := { detail := 0x2D, left := c.waitLeft o.imm, stage := .arrived n, args := [level, n] }
      if n = (c.lv level).stepDone then
        releasing (w (n + 1)) [] s0 s1 (scope := c.domain? level) fun _ =>
          let v := s0.virt i
          let t := s0.contribute i (s0.treeKey i level .step (n + 1)) 4 0 (v.2 * 1024 + v.1) {} none
            { members := [v.2 * 1024 + v.1] } []
          .wait (t.onCore i fun c => c.onLv level fun l => { l with stepArr := n + 1 }) (w (n + 1))
      else
        match c.held? .step level n with
        | none => .wait s0 (w n)
        | some _ =>
          let c1 := (s1.self.dropResults .step level n).onLv level fun l => { l with stepDone := n }
          .ok (s1.setSelf (c1.setDst o.d (word n)))

/-- Bit 0 of the q register that an operand names. -/
def Core.voteBit (c : Core) (n : Nat) (o : Opnd) : Nat := if (c.srcQ n 1 o).getLsbD 0 then 1 else 0

/-- VOTE (R345). -/
def execVote (o : OpM) (s : State) : Host.Outcome State Fault Refusal :=
  issued (fieldsM o).noS3 (limitPriv (irOf (.vote o)) o.imm) [] s fun x s0 s1 =>
    let c := s0.self
    let i := s0.cur
    let d := x.s2
    let level := descLevel d
    if c.descBad d false false then .trap s0 (descTrap d)
    else
      let n := (c.lv level).voteArr
      let w (n : Nat) : Wait := { detail := 0x2E, left := c.waitLeft o.imm, stage := .arrived n, args := [level, n] }
      if n = (c.lv level).voteDone then
        let v := s0.virt i
        let t := s0.contribute i (s0.treeKey i level .vote (n + 1)) 4 0 (v.2 * 1024 + v.1) { sub := o.sub.toNat } none
          { members := [v.2 * 1024 + v.1], ones := c.voteBit s.free o.s1 } []
        .wait (t.onCore i fun c => c.onLv level fun l => { l with voteArr := n + 1 }) (w (n + 1))
      else
        match c.held? .vote level n with
        | none => .wait s0 (w n)
        | some h =>
          let c1 := (s1.self.dropResults .vote level n).onLv level fun l => { l with voteDone := n }
          let q : Word := if h.flags = 1 then 0xFFFFFFFF else 0
          .ok (s1.setSelf ((c1.setDst o.d q).setDst o.s3 (word (h.ones * 2 ^ 32 + h.status))))

/-- The members of a superstep or vote that have not arrived and are not done (R344). -/
def State.awaited (s : State) (d : TreeNode) : List Nat :=
  (rectFrom d.key.rect).members.filter fun m =>
    (tget? d.slots m).isNone && (s.core (s.memberAt d.key.part m)).thread != .done

/-- A superstep or vote at a node completes with a result for the members that arrived. -/
def State.completeDomain (s : State) (tree : Nat) (kind : TreeKind) (r : TreeNode → HeldResult) : State :=
  match s.nodes.find? fun d => d.id == tree && d.key.kind == kind with
  | none => s
  | some d =>
    if (s.awaited d).isEmpty then
      ({ s with nodes := s.nodes.filter fun x => x.id != tree }).sendResult d.key (d.slots.map Prod.fst) (r d)
    else s

/-- SUPERSTEP_COMPLETE (R344). -/
def execSuperstepComplete (tree : Nat) (s : State) : Host.Outcome State Fault Refusal :=
  .next (s.completeDomain tree .step fun d => { kind := .step, level := d.key.dom, n := d.key.n })

/-- The result of a vote (R345): done members vote 1 under .all and 0 under .any; members that differ in SUB mismatch. -/
def voteResult (d : TreeNode) : HeldResult :=
  let all := (rectFrom d.key.rect).members.length
  let done := all - d.slots.length
  let ones := (d.slots.map fun x => x.2.ones).sum + (if d.p.sub = 0 then done else 0)
  let yes := if d.p.sub = 0 then ones == all else decide (0 < ones)
  { kind := .vote, level := d.key.dom, n := d.key.n, status := if d.mismatch then stMismatch else stOk,
    flags := if yes && !d.mismatch then 1 else 0, ones := ones }

/-- VOTE_COMPLETE (R345). -/
def execVoteComplete (tree : Nat) (s : State) : Host.Outcome State Fault Refusal :=
  .next (s.completeDomain tree .vote voteResult)

end Sys2Proof.Machine
end

