-- ==== Sys2Proof/Machine/Waits.lean ====
section
/-! DEFINITION. Withdrawing a waiting instruction (R348, R349, R404), the expiry of a wait with its record (R157, R348,
R392), and the watchdog (R349). -/
namespace Sys2Proof.Machine

/-- Whether an instruction that waits can no longer be withdrawn without effect: a JOIN whose access its destination has
performed, or a TAKE that has its record (log 41). -/
def State.committed (s : State) (i : Nat) : Bool :=
  (s.core i).branching?.isSome ||
  match (s.core i).joinAccess with
  | some id =>
    match (s.access? id).map Access.phase with
    | some (.performed _ _) | some (.returned _ _) => true
    | _ => false
  | none => false

/-- A CONNECT withdrawn (R157, R160): its endpoint is UNBOUND again, and a withdrawal follows its request. -/
def State.withdrawConnect (s : State) (i e : Nat) : State :=
  if ((s.core i).ep e).mode ≠ .connecting then s
  else (s.sendPeer i e .o .withdraw).onEp i e fun x => x.unboundAt e

/-- An ACCEPT withdrawn after it has answered (R348): its reservation is freed, and the request it took is held again,
the oldest. -/
def State.withdrawAccept (s : State) (i e chan : Nat) : State :=
  match ((s.core i).kept? e chan).bind (·.pending) with
  | some r => (s.onCore i fun c => c.dropKept e chan).onEp i e fun x => { x with requests := r :: x.requests }
  | none => s

/-- A LAND withdrawn (R119, R405): a detached member waits no longer, and a head's landing is over. -/
def State.withdrawLand (s : State) (i : Nat) : State :=
  let c := s.core i
  s.onStair c.stairNo fun x =>
    if c.isHead then { x with landing := none } else { x with waiting := x.waiting.filter (· != i) }

/-- A shoot-down whose SHOOT waits no longer runs on unreported (R386). -/
def State.forgetShoot (s : State) (id : Nat) : State :=
  { s with shoots := s.shoots.map fun x => if x.id = id then { x with issuer := none } else x }

/-- A CSAVE or CREST withdrawn (R348): its writes run on as posted accesses, and what its reads return is dropped. -/
def State.withdrawSave (s : State) (ids : List Nat) : State :=
  let kept (a : Access) : Bool := !ids.contains a.id || (!a.acked && (match a.kind with
    | .read _ => false
    | _ => true))
  { s with flight := (s.flight.filter kept).map fun a => if ids.contains a.id then { a with posted := true } else a }

/-- The waiting instruction of a core is withdrawn (R348, R349, R404): what its own description undoes is undone. -/
def State.withdraw (s : State) (i : Nat) : State :=
  match (s.core i).wait with
  | none => s
  | some w =>
    let t := match w.stage with
      | .connecting _ _ => s.withdrawConnect i ((w.args[0]?).getD 0)
      | .accepting n _ => s.withdrawAccept i ((w.args[0]?).getD 0) n
      | .claiming n => s.releaseClaims i n
      | .landed => s.withdrawLand i
      | .ring id | .joining id => s.dropAccess id
      | .summed _ => s.onCore i fun c => { c with pendCsum := c.pendCsum ||| (1#5 <<< ((w.args[0]?).getD 0)) }
      | .monitoring _ => s.dropWaiter i
      | .shooting id => s.forgetShoot id
      | .saving ids => s.withdrawSave ids
      | .branching _ | .plain | .popping | .fence _ _ | .arrived _ | .following _ | .commanded => s
    t.onCore i fun c => { c with wait := none }

/-! ## Whether a wait is satisfied -/

/-- The first two values that a wait keeps. -/
def Wait.arg (w : Wait) (n : Nat) : Nat := (w.args[n]?).getD 0

/-- Whether a queue of a TAKE holds a record that the core may pop now (R336). -/
def State.popReady (s : State) (i sel : Nat) : Bool :=
  if sel = 0 then
    match s.groupOf? i with
    | some (_, p, g) =>
      if s.popYields i 0 g.queue (g.cores p) then false else
      match g.queue.pop (hallOf i) with
      | .empty => false
      | .got _ _ => true
      | .ring => !s.groupBusy i p g
    | none => false
  else
    match s.partOf? i with
    | some (n, p) =>
      if s.popYields i 1 p.notices (s.cores.map (·.1)) then false else
      match p.notices.pop (hallOf i) with
      | .empty => false
      | .got _ _ => true
      | .ring => !s.noticeBusy i n p
    | none => false

/-- Whether a receive at an endpoint, or the pop of a port, has something to take. -/
def State.recvReady (s : State) (i e : Nat) : Bool :=
  match s.delivery i e with
  | .none => !((s.core i).ep e).linkIn.isEmpty
  | _ => true

/-- Whether the condition that a core's wait awaits holds (R157): such a wait does not expire. -/
def State.waitMet (s : State) (i : Nat) (w : Wait) : Bool :=
  let c := s.core i
  match w.stage with
  | .fence ids tls => s.allAcked i ids && (tls.zipIdx.all fun t => decide (t.1 ≤ c.tl[t.2]!))
  | .saving ids => ids.all fun id => (s.access? id).all Access.acked
  | .summed n => (c.held? .csum (w.arg 0) n).isSome
  | .arrived n => (c.held? (if w.detail = 0x2D then .step else .vote) (w.arg 0) n).isSome
  | .commanded => s.recvReady i (w.arg 0)
  | .shooting id => s.shoots.all fun x => x.id != id || x.done
  | .monitoring b => b || ((s.cluster (clusterOf i)).monitors.any fun m => m.core == i && m.fired)
  | .claiming n => s.allAttached i n
  | .landed => (s.stairOf? i).any fun x => (s.landed? x).isSome
  | .plain | .popping =>
    match w.detail with
    | 0x20 => s.recvReady i (w.arg 0)
    | 0x21 => s.sendOk i (w.arg 0)
    | 0x23 => !(c.ep (w.arg 0)).requests.isEmpty
    | 0x24 => c.phaseSeen
    | 0x25 => decide (w.arg 1 ≤ (c.tl[w.arg 0]?).getD 0)
    | 0x29 => (c.held? .red (w.arg 0) (w.arg 1)).isSome
    | 0x2B => s.popReady i (w.arg 0)
    | _ => false
  | .branching _ | .connecting _ _ | .accepting _ _ | .ring _ | .joining _ | .following _ => false

/-! ## The wait-expiry record (R392) -/

/-- Accesses of a core's ordinary stream that are not acknowledged, those held behind a release included. -/
def State.unacked (s : State) (i : Nat) : Nat := (s.pendIds i fun _ => true).length

/-- Words 1 to 3 for a wait on an endpoint. -/
def Core.epWords (c : Core) (e : Nat) : List Word := [word e, ((c.ep e).words[0]?).getD 0, ((c.ep e).words[1]?).getD 0]

/-- Words 1 to 3 for a wait on a ring: the origin's ClusterIndex and the segment's HallIndex, HEAD and TAIL. -/
def State.ringWords (s : State) (i sel : Nat) : List Word :=
  let v := s.virt i
  let words (x y : Nat) (q : TaskQueue) (hall : Nat) : List Word :=
    [word (clusterIndex x y % 2 ^ 16 + hall * 2 ^ 16), q.head.zeroExtend 64, q.tail.zeroExtend 64]
  if sel = 1 then
    match s.partOf? i with
    | some (_, p) => words 0 0 p.notices 0
    | none => []
  else
    match s.groupOf? i with
    | some (_, _, g) => words g.x0 g.y0 g.queue (hallIndex v.1 v.2)
    | none => []

/-- Members of a domain that have not arrived n times at its supersteps or votes, and are not done (R344, R347). -/
def State.missingMembers (s : State) (i level n : Nat) (kind : TreeKind) : Nat :=
  let key := s.treeKey i level kind n
  ((rectFrom key.rect).members.filter fun m =>
    let c := s.core (s.memberAt key.part m)
    c.thread != .done && decide ((if kind = .step then (c.lv level).stepArr else (c.lv level).voteArr) < n)).length

/-- Stair length and members arrived. -/
def State.stairWords (s : State) (i : Nat) (w : Wait) : List Word :=
  match w.stage with
  | .claiming n => [word n, word (((List.range n).drop 1).filter fun k => (s.core (i + k)).attachedTo i).length]
  | .landed =>
    match s.stairOf? i with
    | some x =>
      [word x.len, word (match x.landing with
        | some p => (x.span.filter fun j => (s.core j).arrivedAt x j p).length
        | none => x.waiting.length)]
    | none => []
  | _ => []

/-- Words 1 to 7 of the record of an expired wait (R392). -/
def State.expiryWords (s : State) (i : Nat) (w : Wait) : List Word :=
  let c := s.core i
  match w.detail with
  | 0x20 | 0x21 | 0x22 | 0x23 => c.epWords (w.arg 0)
  | 0x24 =>
    let o := s.obj (localKey i (word (w.arg 0)))
    [word (w.arg 0), o.w0, o.w1]
  | 0x25 => [word (w.arg 0), word ((c.tl[w.arg 0]?).getD 0), word (w.arg 1)]
  | 0x26 | 0x27 =>
    [word (s.unacked i), word (leNat ((List.range 4).map fun k => BitVec.ofNat 8 (c.unfinished k))),
     word (s.ownEntries i).length]
  | 0x28 => [word (w.arg 0), word (leNat (s.loadLocal i (word (w.arg 0)) (w.arg 2))), word (w.arg 1)]
  | 0x29 | 0x2A => [word (w.arg 0), word (w.arg 1)]
  | 0x2B => s.ringWords i (w.arg 0)
  | 0x30 => s.ringWords i 0
  | 0x2C => [word (w.arg 0)]
  | 0x2D => [word (w.arg 0), word (w.arg 1), word (s.missingMembers i (w.arg 0) (w.arg 1) .step)]
  | 0x2E => [word (w.arg 0), word (w.arg 1), word (s.missingMembers i (w.arg 0) (w.arg 1) .vote)]
  | 0x2F => word (s.unacked i) :: 0 :: 0 :: c.tl.toList.map word
  | 0x31 | 0x32 | 0x33 => s.stairWords i w
  | 0x34 => [word (w.arg 0), word (w.arg 1)]
  | _ => []

/-! ## WAIT_EXPIRY and WATCHDOG_EXPIRY -/

/-- Whether a core may take a trap now that is not its instruction's: it has a thread and is not stopped or away. -/
def State.live (s : State) (i : Nat) : Bool :=
  let c := s.core i
  c.thread == .running && !c.halted && !s.stairHalted i && !c.diverts && !s.heldPart i

/-- A CSUM that has contributed and an MCMD that has sent expire with kepc at their FallThrough (R301, R312). -/
def Wait.pastIt (w : Wait) : Bool :=
  match w.stage with
  | .summed _ | .commanded => true
  | _ => false

/-- The wait-expiry trap of a wait (R157, R348, R391, R392). -/
def State.expiryTrap (s : State) (i : Nat) (w : Wait) : Trap :=
  let c := s.core i
  { cls := 0x09, detail := w.detail, tval := word (0x8000000000000000 + c.recordAt),
    epc := if w.pastIt then some (nextAddr c.pc) else none, record := s.expiryWords i w }

/-- Whether a core's wait has reached its limit unsatisfied (R157): its trap comes before the watchdog's (R395). -/
def State.expired (s : State) (i : Nat) : Bool :=
  match (s.core i).wait with
  | some w => w.left == some 0 && w.counting && !s.waitMet i w
  | none => false

/-- WAIT_EXPIRY (R348): the wait of a core whose limit has run out and whose condition does not hold. -/
def execWaitExpiry (core : Nat) (s : State) : Host.Outcome State Fault Refusal :=
  .next (match (s.core core).wait with
    | some w =>
      if s.live core ∧ s.expired core then
        let t := s.expiryTrap core w
        let u := s.withdraw core
        ((match w.stage with
          | .summed _ => u.onCore core fun c => { c with pendCsum := c.pendCsum &&& ~~~(1#5 <<< w.arg 0) }
          | _ => u).takeTrap core t).endStair (s.core core).stairNo
      else s
    | none => s)

/-- The watchdog trap of a core (R349): a waiting instruction is withdrawn, and a follower steps off its stair (R116). -/
def State.takeWatchdog (s : State) (i : Nat) : State :=
  if (s.core i).wdogPending ∧ s.live i ∧ !s.committed i ∧ !s.expired i then
    (((s.withdraw i).onCore i fun c => { c with wdogPending := false }).takeTrap i { cls := 0x0A, detail := 0 }).endStair
      (s.core i).stairNo
  else s

/-- Whether the watchdog trap of a core does not wait for the core's next issue (R349, R395): its instruction waits, or it
is an attached follower. -/
def Core.idles (c : Core) : Bool := c.wait.isSome || c.follower

/-- WATCHDOG_EXPIRY (R349): the watchdog trap of a core that waits or follows. At any other core it is taken when the core
next issues, unless the instruction takes a trap of its own (R395, `plan`). -/
def execWatchdogExpiry (core : Nat) (s : State) : Host.Outcome State Fault Refusal :=
  .next (if (s.core core).idles then s.takeWatchdog core else s)

end Sys2Proof.Machine
end

