-- ==== Sys2Proof/Machine/Pages.lean ====
section
/-! DEFINITION. Accesses that arrive (R361), page replies (R367, R438), shoot-downs (R370, R386), interfaces that power
down and wake (R370), and budgets and their periods (R375, R376, R385). -/
namespace Sys2Proof.Machine

/-- REMOTE_ACCESS_ARRIVAL (R361): an access in flight, the remote side of an engine item, or an access of another
package. -/
def execRemoteAccessArrival (access : AccessRef) (s : State) : Host.Outcome State Fault Refusal :=
  .next (match access with
    | .flight id => s.arriveFlight id
    | .item r => s.arriveItem r
    | .inbound id => s.arriveInbound id)

/-! ## Page replies (R367, R438) -/

/-- The reply ring of a stage of a partition (R438). -/
def State.replyRing (s : State) (pnum stage : Nat) : Ring :=
  tget {} (if stage = 1 then s.board.rp1 else s.board.rp2) pnum

/-- The state with that ring replaced. -/
def State.setReplyRing (s : State) (pnum stage : Nat) (r : Ring) : State :=
  if stage = 1 then { s with board := { s.board with rp1 := tset s.board.rp1 pnum r } }
  else { s with board := { s.board with rp2 := tset s.board.rp2 pnum r } }

/-- The interface and the outstanding request that a reply with TAG and NODE matches (R366). -/
def State.replied (s : State) (pnum stage tag node : Nat) : Option (Nat × PageReq) :=
  s.ifaces.findSome? fun f =>
    match f.2.requests.find? fun r =>
      r.posted && r.part == pnum && r.stage == stage && r.tag == tag
        && s.virtNode pnum f.1 == node with
    | some r => some (f.1, r)
    | none => none

/-- The state without a request of an interface. -/
def State.dropRequest (s : State) (node tag : Nat) : State :=
  let f := s.iface node
  s.setIface node { f with requests := f.requests.filter fun r => r.tag != tag }

/-- What a FAIL does to everything that a request holds (R367). -/
def State.failRequest (s : State) (r : PageReq) : State :=
  let s := r.accesses.foldl (fun (t : State) id => t.onAccess id fun a => { a with phase := .performed stPage [] }) s
  let s := r.items.foldl (fun (t : State) i => t.failHeld i stPage) s
  let s := r.fetches.foldl (fun (t : State) (x : Nat × Word × List (Nat × Nat)) => t.fillEnds x.1 x.2.1 stPage []) s
  let s := r.inbound.foldl (fun (t : State) n =>
    match t.inbound? n with
    | some x => t.answerInbound x stPage []
    | none => t) s
  r.peers.foldl (fun (t : State) n =>
    match t.peer? n with
    | some q => t.peerAborts q 1 stPage
    | none => t) s

/-! What a request held is walked again (R367): each of these answers whether the walk now succeeds. `key` is the request's
span, at which a command keeps its own count. -/

/-- A held access is walked again; behind earlier accesses it stays at its interface (R369). -/
def State.rewalkAccess (s : State) (key id : Nat) : Bool × State :=
  match s.access? id with
  | none => (false, s)
  | some a =>
    let a := { a with phase := .sent, reps := again a.reps (tget 0 a.reps key) }
    match (s.onAccess id fun _ => a).comeAccess a with
    | (.held _, t) => (false, t)
    | (g, t) =>
      let u := if a.stream && t.behindOrder a.core a.id a.node a.cls then t else t.serveAccess a
      (g == .clear, u.onAccess id fun a => { a with reps := walked a.reps })

/-- A held line fetch is walked again. -/
def State.rewalkFetch (s : State) (key i : Nat) (line : Word) (reps : List (Nat × Nat)) : Bool × State :=
  let t := s.fillLine i line (again reps (tget 0 reps key))
  (((t.core i).cached? line).any fun l => l.failed.isNone, t)

/-- A memory peer whose item was held is walked again. -/
def State.rewalkPeer (s : State) (key chan : Nat) : Bool × State :=
  match s.peer? chan with
  | none => (false, s)
  | some q =>
    let q := { q with held := false, reps := again q.reps (tget 0 q.reps key) }
    let t := (s.onPeer chan fun _ => q).memPeer q
    ((t.peer? chan).any fun x => !x.held, t.onPeer chan fun q => { q with reps := walked q.reps })

/-- A held access of another package is walked again; behind earlier ones it stays at the gateway (R369). -/
def State.rewalkInbound (s : State) (key id : Nat) : Bool × State :=
  match s.inbound? id with
  | none => (false, s)
  | some x =>
    let x := { x with held := false, reps := again x.reps (tget 0 x.reps key) }
    let s := s.onInbound id fun _ => x
    match farAsks x.req with
    | none => (false, s)
    | some r =>
      match s.lookAhead (some (gatewayNode x.port)) x.part x.addr r (.inbound id) x.reps with
      | (.held reps, t) => (false, t.onInbound id fun x => { x with held := true, reps := reps })
      | (g, t) =>
        (g == .clear, (if t.inboundHeld x then t else t.serveInbound x).onInbound id fun x =>
          { x with reps := walked x.reps })

/-- Everything that a request held is walked again (R367); whether an item proceeded. The items of one command share its
count as it was before. -/
def State.rewalkAll (s : State) (key : Nat) (r : PageReq) : Bool × State :=
  let items := r.items.map fun i => (i, tget 0 ((s.cmd? i).map (·.reps)).toList.flatten key)
  let run {α : Type} (f : State → α → Bool × State) (l : List α) (x : Bool × State) : Bool × State :=
    l.foldl (fun (y : Bool × State) a => let z := f y.2 a; (y.1 || z.1, z.2)) x
  run (·.rewalkInbound key) r.inbound
    (run (·.rewalkPeer key) r.peers
      (run (fun t (x : Nat × Word × List (Nat × Nat)) => t.rewalkFetch key x.1 x.2.1 x.2.2) r.fetches
        (run (fun t (x : ItemRef × Nat) => t.rewalkItem x.1 x.2) items
          (run (·.rewalkAccess key) r.accesses (false, s)))))

/-- The page size code of the page that a request's address has now (R367): 0, 1 or 2 for 64 KiB, 2 MiB or 1 GiB. -/
def State.mappedSize (s : State) (node : Nat) (r : PageReq) : Nat :=
  match s.part? r.part with
  | none => 0
  | some p =>
    let w := r.window
    let (to', v) := match s.dest r.part (if nodeKind node = 4 then s.ownPeer r.addr else r.addr) with
      | .here n _ v => (n, v)
      | _ => (node, 0)
    match (if r.stage = 1 then s.walk1 node to' r.part w v (p.root 1 w) (p.root 2 w)
           else s.walk2 node to' r.part w r.iaddr (p.root 2 w)).1 with
    | .leaf _ _ lv _ => 3 - lv
    | _ => 0

/-- A reply is taken (R367): a reply that matches no request is discarded. DESIGN CHOICE (log 63): bits of its words that
R366 says are zero, and a RESULT that it does not define, are not looked at beyond that; the spec states no refusal of
such a reply. -/
def State.reply (s : State) (pnum stage : Nat) (w0 w1 : Word) : State :=
  match s.replied pnum stage (bits w0 48 16) (bits w0 0 24) with
  | none => s
  | some (node, r) =>
    match bits w1 0 8 with
    | 0 =>
      let (moved, t) := (s.dropRequest node r.tag).rewalkAll (r.key node) r
      if moved then t.notice pnum 1 r.addr (word pnum) (t.mappedSize node r) else t
    | 1 => (s.dropRequest node r.tag).failRequest r
    | _ => s

/-- PAGE_REPLY (R367, R438): the device takes the next reply of a ring. -/
def execPageReply (pnum stage : Nat) (s : State) : Host.Outcome State Fault Refusal :=
  let ring := s.replyRing pnum stage
  .next (if !ring.enabled ∨ ring.count = 0 then s
    else
      let a := hostKey (ring.slotAt 16 ring.cons)
      let w (n : Nat) : Word := word (leNat (readBytes s.mem (a + 8 * n) 8))
      (s.setReplyRing pnum stage { ring with cons := ring.cons + 1 }).reply pnum stage (w 0) (w 1))

/-! ## Shoot-downs (R370, R386) -/

/-- Whether a cached entry matches a shoot-down: the stage's entries of the partition, of its window, or those whose
region meets the page named. -/
def Shoot.hits (x : Shoot) (e : CacheEntry) : Bool :=
  e.part == x.part && e.stage == x.stage && (x.window.all fun w => e.window == w)
    && (x.page.all fun p =>
      e.window == p.1
        && meets (e.page * spanBytes e.size) (spanBytes e.size) p.2.1 (spanBytes (3 - p.2.2)))

/-- The translation caches of a partition (R370): its hall interfaces, the far-memory controllers, the host interface
and the gateways. -/
def Partition.caches (p : Partition) : List Nat :=
  (((List.range p.hh).map fun y => (List.range p.hw).map fun x => hallNode ((p.hy0 + y) * 16 + p.hx0 + x)).flatten)
    ++ (List.range 8).map farNode ++ [hostNode] ++ (List.range 16).map gatewayNode

/-- The state with one shoot-down changed. -/
def State.onShoot (s : State) (id : Nat) (f : Shoot → Shoot) : State :=
  { s with shoots := s.shoots.map fun x => if x.id = id then f x else x }

/-- The caches of a shoot-down that have not acknowledged: one that is powered down is skipped (R370). -/
def State.unackedCaches (s : State) (x : Shoot) : List Nat :=
  match s.part? x.part with
  | some p => p.caches.filter fun n => (s.iface n).powered && !x.acked.contains n
  | none => []

/-- A cache removes what matches. -/
def State.purge (s : State) (node : Nat) (x : Shoot) : State :=
  let f := s.iface node
  s.setIface node { f with cache := f.cache.filter fun e => !x.hits e }

/-- SHOOT_DOWN (R370): the message reaches a cache, which acknowledges; one for another package leaves for it. Walks and
their accesses are one step in this model, so none is in progress. -/
def execShootDown (shoot cache : Nat) (s : State) : Host.Outcome State Fault Refusal :=
  .next (match s.shoots.find? fun x => x.id == shoot with
    | some x =>
      if !s.allAcked x.origin x.after then s
      else if x.away then
        (if x.acked.isEmpty then
          (s.leave (peerOf x.words.1) (s.transferOf x.origin .o (.shoot x.words.1 x.words.2))).onShoot shoot fun x =>
            { x with acked := [gatewayNode 0] }
        else s)
      else if (s.unackedCaches x).contains cache then
        (s.purge cache x).onShoot shoot fun x => { x with acked := x.acked ++ [cache] }
      else s
    | none => s)

/-- A shoot-down that nobody here waits for ends: a package that asked for it is told (R386). -/
def State.shootEnds (s : State) (x : Shoot) : State :=
  let t := { s with shoots := s.shoots.filter fun y => y.id != x.id }
  match x.asker with
  | some (pkg, node) =>
    t.leave pkg
      { pkg := s.board.peer, node := node, cls := .o, what := .reply stOk [], ttag := s.tagOf x.part }
  | none => t

/-- SHOOT_DOWN_COMPLETE (R370): every cache has acknowledged. A SHOOT that waits goes on; one that expired is not told
(R386). Another package's caches are not held here: the event is its acknowledgement (log 15). -/
def execShootDownComplete (shoot : Nat) (s : State) : Host.Outcome State Fault Refusal :=
  .next (match s.shoots.find? fun x => x.id == shoot with
    | some x =>
      if s.allAcked x.origin x.after ∧ (if x.away then !x.acked.isEmpty else (s.unackedCaches x).isEmpty) then
        if x.issuer.isSome then s.onShoot shoot fun x => { x with done := true } else s.shootEnds x
      else s
    | none => s)

/-- The window of R358 that a global address lies in. -/
def windowOfAddr (a : Word) : Nat :=
  match winOf a with
  | 0 => bits a 36 8
  | 1 => 160 + 32 * bits a 41 3 + bits a 36 5
  | _ => 416 + bits a 36 8

/-- The page of an address and a shoot word (R386): window, base, size code; none for every entry. -/
def shootPage (a w : Word) : Option (Nat × Nat × Nat) :=
  if bits w 0 2 = 3 then none
  else some (windowOfAddr a, bits a 0 36 / spanBytes (3 - bits w 0 2) * spanBytes (3 - bits w 0 2), bits w 0 2)

/-- The shoot-down that a SHOOT in progress waits for. -/
def Core.shooting? (c : Core) : Option Nat :=
  match c.wait with
  | some w =>
    match w.stage with
    | .shooting id => some id
    | _ => none
  | none => none

/-- The trap of an address or a shoot word (R386). -/
def shootTrap (a w : Word) : Option Trap :=
  if bits w 2 62 ≠ 0 then some (guardTrap 0x0F w)
  else if bits w 0 2 ≠ 3 ∧ malformed a then some (guardTrap 0x0F a)
  else none

/-- Whether core i's partition reaches the package of an address (R374), and whether it is its own. -/
def State.shootPeer (s : State) (i : Nat) (a : Word) : Option Bool :=
  match s.partOf? i with
  | some (_, p) =>
    if peerOf a = s.board.peer ∨ p.home = some (peerOf a) then some true
    else if s.reachesPeer p (peerOf a) then some false
    else none
  | none => if peerOf a = s.board.peer then some true else none

/-- Issue a shoot-down: what it names, and the accesses that it is a release of. -/
def State.issueShoot (s : State) (x : Shoot) : State :=
  { s with shoots := s.shoots ++ [{ x with id := s.fresh }], fresh := s.fresh + 1 }

/-- SHOOT (R386). -/
def execShoot (o : OpA) (s : State) : Host.Outcome State Fault Refusal :=
  let ir := irOf (.shoot o)
  issued (fieldsA o) (needsP1 ir) [] s fun x s0 s1 =>
    let i := s0.cur
    let w (id : Nat) : Wait :=
      { detail := 0x34, left := s0.self.waitLeft o.imm, stage := .shooting id, args := [x.s1.toNat, x.s2.toNat] }
    let ends (t : State) (st : Nat) : Result := .ok (t.setSelf (t.self.setDst o.d (word st)))
    match s0.self.shooting? with
    | some id =>
      if s0.shoots.any fun y => y.id == id && !y.done then .wait s0 (w id)
      else ends { s1 with shoots := s1.shoots.filter fun y => y.id != id } 0
    | none =>
      match shootTrap x.s1 x.s2 with
      | some t => .trap s0 t
      | none =>
        match s0.shootPeer i x.s1 with
        | none => ends s1 stNoPeer
        | some own =>
          let d := s0.drainOwn i fun _ => true
          .wait (d.issueShoot
            { id := 0, part := s0.pnum i, stage := 1, page := shootPage x.s1 x.s2, issuer := some i,
              after := d.pendIds i fun _ => true, origin := i, away := !own, words := (x.s1, x.s2) })
            (w d.fresh)

/-! ## Interfaces that are powered down (R370) -/

/-- Whether a node identifier names an interface that translates: a hall's, a controller's, the host's or a gateway. -/
def isIface (node : Nat) : Bool :=
  match nodeKind node with
  | 1 => decide (nodeIdx node < 160)
  | 2 => decide (nodeIdx node < 8)
  | 3 => nodeIdx node == 0
  | 4 => decide (nodeIdx node < 16)
  | _ => false

/-- INTERFACE_POWER_DOWN (R370). -/
def execInterfacePowerDown (node : Nat) (s : State) : Host.Outcome State Fault Refusal :=
  .next (if isIface node then s.setIface node { s.iface node with powered := false } else s)

/-- INTERFACE_WAKE (R370): the interface empties its whole cache. -/
def execInterfaceWake (node : Nat) (s : State) : Host.Outcome State Fault Refusal :=
  .next (if isIface node ∧ !(s.iface node).powered then
      s.setIface node { s.iface node with powered := true, cache := [] }
    else s)

/-! ## Budgets -/

/-- The controller that a selector names (R385). -/
def selController (imm : BitVec 32) : Nat := if imm.toNat % 16 = 3 then imm.toNat / 16 % 8 else 0

/-- USED of the counter that serves core i (R385): its cluster's router for codes 0 to 2. -/
def State.usedFor (s : State) (i : Nat) (imm : BitVec 32) : Nat :=
  match imm.toNat % 16, s.partOf? i with
  | 3, some (_, p) => p.usedAt 3 (selController imm)
  | 4, some (_, p) => p.usedAt 4 (hallOf i)
  | 5, some (_, p) => p.usedAt 5 0
  | n, some (_, p) => p.usedAt n (routerPlace 1 (clusterOf i))
  | _, none => 0

/-- The bounds of the counter that a selector names, at core i's partition. -/
def State.budgetFor (s : State) (i : Nat) (imm : BitVec 32) : Budget :=
  match s.partOf? i with
  | some (_, p) => tget {} p.budgets (imm.toNat % 16 * 8 + selController imm)
  | none => {}

/-- The word that BUDGET reads (R385). -/
def State.budgetWord (s : State) (i : Nat) (imm : BitVec 32) : Word :=
  let b := s.budgetFor i imm
  word (s.usedFor i imm % 2 ^ 20 * 2 ^ 40 + b.cap % 2 ^ 20 * 2 ^ 20 + b.limit % 2 ^ 20)

/-- A new CAP for every counter of an activity of core i's partition, from the next period on (R385). -/
def State.sendCap (s : State) (i : Nat) (imm : BitVec 32) (cap : Nat) : State :=
  match s.partOf? i with
  | some (n, p) =>
    let code := imm.toNat % 16
    let set (l : List (Nat × Budget)) (ctrl : Nat) : List (Nat × Budget) :=
      tset l (code * 8 + ctrl) { tget {} l (code * 8 + ctrl) with nextCap := some (max 1 cap) }
    s.setPart n { p with budgets := (List.range (if code = 3 then 8 else 1)).foldl set p.budgets }
  | none => s

/-- BUDGET (R385). -/
def execBudget (o : OpA) (s : State) : Host.Outcome State Fault Refusal :=
  let ir := irOf (.budget o)
  issued (fieldsA o) (fun c => if o.s2 = .none then none else needsP1 ir c) [] s fun x s0 s1 =>
    let i := s0.cur
    let d := s0.budgetWord i o.imm
    if o.s2 = .none then .ok (s1.setSelf (s1.self.setDst o.d d))
    else if bits x.s2 20 44 ≠ 0 then .trap s0 (guardTrap 0x0F x.s2)
    else .ok ((s1.setSelf (s1.self.setDst o.d d)).sendCap i o.imm x.s2.toNat)

/-- A unit that waited is served (R376). -/
def State.serveWaiting (s : State) (who : Who) : State :=
  match who with
  | .access id => s.arriveFlight id
  | .item r => s.arriveItem r
  | .fetch i line => if s.fetchHeld i line then s else s.fillLine i line []
  | .peer n =>
    match s.peer? n with
    | some q => s.memPeer q
    | none => s
  | .command i ctx tl =>
    match (s.core i).cmds.find? fun k => k.ctx == ctx && k.tl == tl with
    | some k => if s.cmdReady i k then (s.startCmd i k).2 else s
    | none => s
  | .inbound id => s.arriveInbound id
  | .packet id =>
    match s.packet? id with
    | some p =>
      match s.routed p with
      | (true, t) => { t with net := t.net.map fun q => if q.id = id then { q with paid := (s.packetWay p).length } else q }
      | (false, t) => t
    | none => s

/-- A partition's counters at the start of a period (R375, R385). -/
def Partition.newPeriod (p : Partition) : Partition :=
  { p with
    used := []
    budgets := tmap p.budgets fun _ b => { b with
      cap := b.nextCap.getD b.cap, nextCap := none, limit := b.nextLimit.getD b.limit, nextLimit := none } }

/-- BUDGET_PERIOD (R375, R376): at 65,536 cycles of the one period clock, use starts afresh everywhere, and what waited is
served first, in order of arrival. -/
def execBudgetPeriod (s : State) : Host.Outcome State Fault Refusal :=
  .next (if s.clock < periodCycles then s
    else
      s.stalled.foldl State.serveWaiting
        { s with parts := tmap s.parts fun _ p => p.newPeriod, stalled := [], clock := 0 })

end Sys2Proof.Machine
end

