-- ==== Sys2Proof/Machine/Record.lean ====
section
/-! DEFINITION. The core record (R410): its parts as bytes, and the core that a record's parts give. -/
namespace Sys2Proof.Machine

/-- Words of 64 bits as bytes. -/
def wordBytes (ws : List Nat) : List Byte := (ws.map (leBytes 8)).flatten

/-- Zeros up to a length. -/
def padTo (n : Nat) (bs : List Byte) : List Byte := bs ++ List.replicate (n - bs.length) 0

/-- Freed marks as one number: g at bit 0, v at bit 64, q at bit 96. -/
def Core.marks (c : Core) : Nat := c.gFreed.toNat + c.vFreed.toNat * 2 ^ 64 + c.qFreed.toNat * 2 ^ 96

/-- 0x0040–0x067F: the registers and freed marks. -/
def Core.regBytes (c : Core) : List Byte :=
  wordBytes (c.g.toList.map BitVec.toNat) ++ (c.q.toList.map fun x => leBytes 4 x.toNat).flatten
    ++ padTo 32 (leBytes 16 c.marks) ++ (c.v.toList.map fun x => leBytes 32 x.toNat).flatten

/-- 0x0680–0x087F: the control registers. -/
def Core.crBytes (c : Core) : List Byte := wordBytes ((List.range 64).map fun n => (c.cr n).toNat)

/-- 0x0880–0x097F: the column tags. -/
def Core.tagBytes (c : Core) : List Byte :=
  c.acc.toList.map fun x => BitVec.ofNat 8 (colCode x.state * 32 + tyCode x.fmt)

/-- 0x0980–0x0DBF: the park banks and their occupancy. -/
def Core.bankBytes (c : Core) : List Byte :=
  (c.bank.toList.map fun x => leBytes 32 x.toNat).flatten ++ padTo 64 (leBytes 8 c.bankOcc.toNat)

/-- 0x0DC0–0x127F: the endpoint descriptors, the LINK queues and their counts. -/
def Core.epBytes (c : Core) : List Byte :=
  let links := c.eps.toList.drop 16
  wordBytes ((c.eps.toList.map fun e => e.words.map BitVec.toNat).flatten)
    ++ (links.map fun e => padTo 128 (wordBytes (e.linkIn.map BitVec.toNat))).flatten
    ++ padTo 64 (links.map fun e => BitVec.ofNat 8 e.linkIn.length)

/-- Sixteen fault records as bytes (R191). -/
def faultBytes (q : List FaultRec) : List Byte := padTo 256 ((q.map FaultRec.toBytes).flatten)

/-- The counts of a level as bytes. -/
def LevelCounts.toBytes (l : LevelCounts) : List Byte :=
  padTo 64 (wordBytes [l.redSeq, l.redTaken, l.csumSeq, l.stepArr, l.stepDone, l.voteArr, l.voteDone])

/-- BSTALL bits of the contexts. -/
def Core.bstallBits (c : Core) : Nat := (c.bstall.toList.zipIdx.map fun b => if b.1 then 2 ^ b.2 else 0).sum

/-- 0x1280–0x198F: engine state, fault queues, counts and the dirty mask. -/
def Core.engineBytes (c : Core) (idle : Bool) : List Byte :=
  wordBytes (c.issued.toList ++ c.tl.toList)
    ++ (c.faultQ.toList.map faultBytes).flatten ++ faultBytes c.postedQ
    ++ padTo 64 ((c.faultQ.toList.map fun q => BitVec.ofNat 8 q.length)
        ++ [BitVec.ofNat 8 c.postedQ.length, BitVec.ofNat 8 c.bstallBits])
    ++ (c.counts.toList.map LevelCounts.toBytes).flatten
    ++ padTo 64 (wordBytes [c.sent, c.rcvd, if idle then 1 else 0, if c.calls = 0 then 1 else 0, c.trapSeq.toNat])
    ++ leBytes 16 c.dirty.toNat

/-- 0x2000–0x227F: the latched block. -/
def Core.latchedBytes (c : Core) : List Byte :=
  let b := c.latched.getD { fmt := .i8, mode := 0, axis := 0, elems := [], scales := [] }
  padTo 64 (c.matrixStatus.take 8) ++ padTo 512 b.elems ++ padTo 64 b.scales

/-- 0x3000–0x4FFF: the accumulator store. -/
def Core.accBytes (c : Core) : List Byte := (c.acc.toList.map fun x => leBytes 32 x.bits.toNat).flatten

/-- A part of the record: offset, MASK bit and bytes (R410, R413). -/
structure RecPart where
  off : Nat
  mask : Nat
  len : Nat
  deriving DecidableEq, Repr

/-- The parts of the record in ascending offset. -/
def recParts : List RecPart :=
  [{ off := 0x0040, mask := 0, len := 0x640 }, { off := 0x0680, mask := 3, len := 0x200 },
   { off := 0x0880, mask := 1, len := 0x100 }, { off := 0x0980, mask := 2, len := 0x440 },
   { off := 0x0DC0, mask := 4, len := 0x4C0 }, { off := 0x1280, mask := 5, len := 0x710 },
   { off := 0x2000, mask := 5, len := 0x280 }, { off := 0x3000, mask := 1, len := 0x2000 },
   { off := 0x5000, mask := 6, len := 0x20000 }]

/-- The bytes of a part of core i's record. -/
def State.partBytes (s : State) (i off : Nat) : List Byte :=
  let c := s.core i
  match off with
  | 0x0040 => c.regBytes
  | 0x0680 => c.crBytes
  | 0x0880 => c.tagBytes
  | 0x0980 => c.bankBytes
  | 0x0DC0 => c.epBytes
  | 0x1280 => c.engineBytes (s.idleFlag i)
  | 0x2000 => c.latchedBytes
  | 0x3000 => c.accBytes
  | _ => readBytes s.mem (tcmKey i 0) 0x20000

/-- The header of core i's record (R410). -/
def State.recHeader (s : State) (i : Nat) (next : Word) (mask : Nat) : List Byte :=
  let v := s.virt i
  padTo 64 (wordBytes [next.toNat,
    v.1 + v.2 * 2 ^ 16 + (s.core i).pendCsum.toNat * 2 ^ 32 + mask * 2 ^ 40])

/-- Offsets in core i's record of the poisoned 8-byte parts of the parts that a mask selects (R398): the poison of the
accumulator store and of the TCM travels with them. -/
def State.recHurt (s : State) (i mask : Nat) : List Nat :=
  let cols := if mask.testBit 1 then (List.range 256).filter fun n => ((s.core i).acc[n]!).bad else []
  let tcm := if mask.testBit 6 then s.poison.filter fun p => decide (tcmKey i 0 ≤ p * 8) && decide (p * 8 < tcmKey i 0x20000)
    else []
  (cols.map fun n => (List.range 4).map fun k => 0x3000 + 32 * n + 8 * k).flatten
    ++ tcm.map fun p => 0x5000 + (p * 8 - tcmKey i 0)

/-- Header and selected parts of core i's record: offset and bytes. -/
def State.recPieces (s : State) (i : Nat) (next : Word) (mask : Nat) : List (Nat × List Byte) :=
  (0, s.recHeader i next mask)
    :: ((recParts.filter fun p => mask.testBit p.mask).map fun p => (p.off, s.partBytes i p.off))

/-- The whole record of 0x2_5000 bytes, reserved bytes zero. -/
def State.coreRecord (s : State) (i : Nat) (next : Word) : List Byte :=
  padTo 0x25000 ((s.recPieces i next 0x7F).foldl (fun bs p => padTo p.1 bs ++ p.2) [])

/-- Bytes cut into pieces of one 64-byte line, with their offsets. -/
def inLines (off : Nat) (bs : List Byte) : List (Nat × List Byte) :=
  (List.range ((bs.length + 63) / 64)).map fun j => (off + 64 * j, (bs.drop (64 * j)).take 64)

/-! ## Reading a record back -/

/-- n words of w bytes from an offset. -/
def itemsAt (bs : List Byte) (off w n : Nat) : List Nat := (List.range n).map fun k => fieldAt bs (off + w * k) w

/-- A vector of n values from a list. -/
def vecOf {α : Type} (n : Nat) (d : α) (l : List α) : Vector α n := Vector.ofFn fun k => (l[k.val]?).getD d

/-- Registers and freed marks restored; g0 and q0 stay what they are (R26). -/
def Core.loadRegs (c : Core) (b : List Byte) : Core :=
  let m := fieldAt b 0x220 16
  { c with
    g := (vecOf 64 0 ((itemsAt b 0 8 64).map word)).set 0 0
    q := (vecOf 8 0 ((itemsAt b 0x200 4 8).map (BitVec.ofNat 32))).set 0 (BitVec.allOnes 32)
    v := vecOf 32 0 ((itemsAt b 0x240 32 32).map (BitVec.ofNat 256))
    gFreed := BitVec.ofNat 64 m &&& ~~~1#64
    vFreed := BitVec.ofNat 32 (m / 2 ^ 64)
    qFreed := BitVec.ofNat 8 (m / 2 ^ 96) &&& ~~~1#8 }

/-- The fields of a control register that a record restores: all that the highest level writes (R34). -/
def crKept (n : Nat) : Word := if n = 0x006 then maskOf 8 8 ||| maskOf 1 0 else crWriteMask n 2

/-- Control registers restored from a record, but for those that a caller leaves out (R415). -/
def Core.loadCrs (c : Core) (b : List Byte) (keep : Nat → Word) : Core :=
  (List.range 64).foldl (fun (c : Core) n =>
    let m := crKept n &&& ~~~keep n
    c.setCr n ((c.cr n &&& ~~~m) ||| (word (fieldAt b (8 * n) 8) &&& m))) c

/-- A column's tag from its byte. -/
def tagOf (x : Nat) : ColState × Ty :=
  ((match x / 32 % 4 with
    | 1 => ColState.acc
    | 2 => .park
    | _ => .free), (tyOfCode (x % 32)).getD .i8)

/-- Column tags restored. -/
def Core.loadTags (c : Core) (b : List Byte) : Core :=
  { c with acc := Vector.ofFn fun (k : Fin 256) =>
      let t := tagOf (fieldAt b k.val 1)
      { c.acc[k] with state := t.1, fmt := t.2 } }

/-- Park banks and their occupancy restored. -/
def Core.loadBanks (c : Core) (b : List Byte) : Core :=
  { c with
    bank := vecOf 32 0 ((itemsAt b 0 32 32).map (BitVec.ofNat 256))
    bankOcc := BitVec.ofNat 32 (fieldAt b 0x400 8) }

/-- A descriptor restored over the endpoint that a core kept while it was away (R146, R409). -/
def Endpoint.restored (e : Endpoint) (ws : List Word) : Endpoint :=
  if e.builtin then e
  else
    let d := endpointOf ws
    { d with
      binding := if d.mode = .unbound then .none else .user
      peerPkg := e.peerPkg
      chan := e.chan
      arrived := e.arrived
      closeNote := e.closeNote
      peerHeld := e.peerHeld
      requests := e.requests }

/-- Descriptors and LINK queues restored. -/
def Core.loadEps (c : Core) (b : List Byte) : Core :=
  { c with eps := Vector.ofFn fun (k : Fin 20) =>
      let e := c.eps[k].restored ((itemsAt b (32 * k.val) 8 4).map word)
      if k.val < 16 then e
      else
        { e with linkIn := (itemsAt b (640 + 128 * (k.val - 16)) 8 (min 16 (fieldAt b (1152 + (k.val - 16)) 1))).map word, linkSoft := [] } }

/-- A fault record from its two words (R191). -/
def faultOf (b : List Byte) : FaultRec :=
  let w := word (fieldAt b 8 8)
  { addr := word (fieldAt b 0 8), status := bits w 56 8, ctx := bits w 54 2, posted := bits w 53 1 == 1,
    item := bits w 32 16, tlnum := bits w 0 32 }

/-- The first n records of a saved fault queue. -/
def faultsOf (b : List Byte) (off n : Nat) : List FaultRec :=
  (List.range (min 16 n)).map fun k => faultOf ((b.drop (off + 16 * k)).take 16)

/-- The counts of a level from its bytes. -/
def levelOf (b : List Byte) (off : Nat) : LevelCounts :=
  let w (k : Nat) := fieldAt b (off + 8 * k) 8
  { redSeq := w 0, redTaken := w 1, csumSeq := w 2, stepArr := w 3, stepDone := w 4, voteArr := w 5, voteDone := w 6 }

/-- Engine state, fault queues, counts and the dirty mask restored. -/
def Core.loadEngine (c : Core) (b : List Byte) : Core :=
  { c with
    issued := vecOf 4 0 (itemsAt b 0 8 4)
    tl := vecOf 4 0 (itemsAt b 32 8 4)
    faultQ := Vector.ofFn fun (k : Fin 4) => faultsOf b (64 + 256 * k.val) (fieldAt b (1344 + k.val) 1)
    postedQ := faultsOf b 1088 (fieldAt b 1348 1)
    bstall := Vector.ofFn fun (k : Fin 4) => (fieldAt b 1349 1).testBit k.val
    counts := Vector.ofFn fun (k : Fin 5) => levelOf b (1408 + 64 * k.val)
    sent := fieldAt b 1728 8
    rcvd := fieldAt b 1736 8
    idle := fieldAt b 1744 8 == 1
    trapSeq := BitVec.ofNat 32 (fieldAt b 1760 8)
    dirty := BitVec.ofNat 96 (fieldAt b 1792 16) }

/-- The latched block restored. -/
def Core.loadLatched (c : Core) (b : List Byte) : Core :=
  let w := word (fieldAt b 0 8)
  { c with latched :=
      if bits w 63 1 = 0 then none
      else
        let ty := (tyOfCode (bits w 8 5)).getD .i8
        some { fmt := ty, mode := bits w 4 2, axis := bits w 0 1, elems := (b.drop 64).take (imageBytes ty),
               scales := (b.drop 576).take (scaleBytes ty (bits w 4 2)) } }

/-- The accumulator store restored. -/
def Core.loadAcc (c : Core) (b : List Byte) : Core :=
  { c with acc := Vector.ofFn fun (k : Fin 256) =>
      { c.acc[k] with bits := BitVec.ofNat 256 (fieldAt b (32 * k.val) 32), soft := [], bad := false } }

/-- The occupancy of the park stack follows the spill map that a restoration leaves (R32): the record has no place for it
(log 103). -/
def State.rebuildStack (s : State) (i : Nat) : State :=
  let occ := (List.range 96).foldl (fun (o : BitVec 512) e =>
    match s.parkedAt i e with
    | some (.stack n) => o ||| (1#512 <<< n)
    | _ => o) 0
  s.onCore i fun c => { c with stackOcc := occ }

/-- A part of the record restored into core i: all of the TCM below a bound. -/
def State.loadPart (s : State) (i off : Nat) (b : List Byte) (keep : Nat → Word) (tcm : Nat) : State :=
  match off with
  | 0x0040 => s.onCore i fun c => c.loadRegs b
  | 0x0680 => s.onCore i fun c => c.loadCrs b keep
  | 0x0880 => s.onCore i fun c => c.loadTags b
  | 0x0980 => s.onCore i fun c => c.loadBanks b
  | 0x0DC0 => s.onCore i fun c => c.loadEps b
  | 0x1280 => s.onCore i fun c => c.loadEngine b
  | 0x2000 => s.onCore i fun c => c.loadLatched b
  | 0x3000 => s.onCore i fun c => c.loadAcc b
  | _ => s.storeTcm i 0 (b.take tcm)

end Sys2Proof.Machine
end

