-- ==== Sys2Proof/Machine/Preempt.lean ====
section
/-! DEFINITION. Pre-emption requests (R403, R405, R406), the save of a core (R404), resumption (R405, R409, R412), and
CSAVE and CREST with the events of pre-emption (R413 to R415). -/
namespace Sys2Proof.Machine

/-! ## Requests -/

/-- A pre-emption request becomes pending at a core that has a thread and is not away; it merges with one that is
(R403). -/
def Core.ask (c : Core) (halt : Bool) : Core :=
  if (c.thread = .running ∨ c.thread = .loaded) ∧ !c.preempted then { c with request := some (halt || c.request.getD false) }
  else c

/-- The members of the stair of a core (R405). -/
def State.stairMembers (s : State) (i : Nat) : List Nat :=
  match s.stairOf? i with
  | some x => if (s.core i).memb then x.span.filter fun j => (s.core j).memb && (s.core j).stairNo == x.id else []
  | none => []

/-- The cores of every group of the gang that a core belongs to (R406). -/
def State.gangMembers (s : State) (i : Nat) : List Nat :=
  match s.groupOf? i with
  | some (_, p, g) => if g.gang then ((p.groups.filter fun h => h.launch == g.launch).map fun h => h.cores p).flatten else []
  | none => []

/-- The cores that a request to a core extends to (R405, R406). -/
def State.extended (s : State) (i : Nat) : List Nat :=
  let gang := s.gangMembers i
  ((i :: gang) ++ ((i :: gang).map s.stairMembers).flatten).eraseDups

/-- A request reaches a core (R403): its stair and its gang are asked with it. -/
def State.requestSave (s : State) (i : Nat) (halt : Bool) : State :=
  (s.extended i).foldl (fun (t : State) j => t.onCore j fun c => c.ask halt) s

/-- MESH_INTERRUPT (R403): the request under way to a core reaches it. -/
def execMeshInterrupt (core : Nat) (s : State) : Host.Outcome State Fault Refusal :=
  .next (match s.mesh.find? fun m => m.1 == core with
    | some m => { s with mesh := s.mesh.erase m }.requestSave core m.2
    | none => s)

/-! ## Redelivery and resumption -/

/-- An entry of a spill queue has its effect at the core (R409); what cannot have it yet stays in the network. The entries
are those that the router diverted, whatever a program has stored over the queue's bytes since (log 43). -/
def State.redeliver (s : State) (i : Nat) (x : Spilled) : State :=
  match x with
  | .packet p => (s.deliver i p).getD { s with net := s.net ++ [p] }
  | .arrival a n _ own =>
    let t := s.updateObj i a n 0
    if own then t else t.countRcvd i
  | .result r => s.onCore i fun c => { c with results := c.results ++ [r] }

/-- The whole spill queue applied in order; diversion ends (R409). -/
def State.redeliverAll (s : State) (i : Nat) : State :=
  let l := (s.core i).spill
  l.foldl (fun (t : State) x => t.redeliver i x)
    (s.onCore i fun c => { c with spill := [], diverting := false, preempted := false })

/-- ktick of a core that returns: the partition's cycles while it was away are added (R412). -/
def State.tickBack (s : State) (i : Nat) : State :=
  match s.partOf? i with
  | some (n, p) =>
    match tget? p.away i with
    | some r =>
      (s.onCore i fun c => { c with ktick := c.ktick + word (p.ran - r) }).setPart n { p with away := tdel p.away i }
    | none => s
  | none => s

/-- The TCM of a record restored: the dirty bits of the pages that change are set (R365). -/
def State.restoreTcm (s : State) (i : Nat) (b : List Byte) : State :=
  (List.range 32).foldl (fun (t : State) k =>
    let x := (b.drop (4096 * k)).take 4096
    if readBytes t.mem (tcmKey i (4096 * k)) 4096 = x then t else t.storeTcm i (4096 * k) x) s

/-- The parts of a record restored into core i, every value bit for bit, with the poison of its TCM and its columns (R398,
R410). The dirty mask has the record's bits, and those of pages written since (R365). Reserved bytes that are not zero
are not looked at: R409 states no refusal for them (DESIGN CHOICE, log 43). -/
def State.loadRecord (s : State) (i : Nat) (b : List Byte) (hurt : List Nat) : State :=
  let t := (recParts.filter fun p => p.off != 0x5000).foldl (fun (t : State) p =>
    t.loadPart i p.off ((b.drop p.off).take p.len) (fun _ => 0) 0) s
  let t := t.onCore i fun c =>
    { c with
      pc := word (fieldAt b 0 8), pendCsum := BitVec.ofNat 5 (fieldAt b 8 8 / 2 ^ 32), calls := 0
      dirty := c.dirty ||| (s.core i).dirty
      acc := Vector.ofFn fun (k : Fin 256) =>
        if hurt.contains (0x3000 + 32 * k.val) then { c.acc[k] with bad := true } else c.acc[k] }
  let t := (t.restoreTcm i ((b.drop 0x5000).take 0x20000)).rebuildStack i
  (hurt.filter (0x5000 ≤ ·)).foldl (fun (t : State) o => t.poisonRange (tcmKey i (o - 0x5000)) 1) t

/-- A core that has its record again goes on: it waits for nothing, its clock runs on, and its spill queue is applied
(R409, R412). -/
def State.goesOn (s : State) (i : Nat) : State :=
  let t := s.onCore i fun c =>
    { c with wait := none, request := none, resumeDue := false, restored := false, queueIds := [], queueFailed := false }
  (t.tickBack i).redeliverAll i

/-- The bytes of a record at an address and the offsets of its poisoned parts: a copy by hardware, with which poison
travels (R398); none while a line of it cannot be read at once. -/
def State.recordAt? (s : State) (pnum : Nat) (a : Word) : Option (List Byte × List Nat) :=
  (linePieces a 0x25000).foldl (fun (r : Option (List Byte × List Nat)) x =>
    match r, s.keyOf? pnum (a + word x.1) x.2 0 with
    | some (bs, h), some k =>
      some (bs ++ readBytes s.mem k x.2,
            h ++ ((List.range ((x.2 + 7) / 8)).filter fun j => poisoned s (k + 8 * j) 8).map fun j => x.1 + 8 * j)
    | _, _ => none) (some ([], []))

/-- The lines of a core's record that cannot be read at once are read by accesses, which page requests may hold (R366). -/
def State.startReturn (s : State) (i : Nat) : State :=
  let c := s.core i
  let missing := (linePieces c.saveArea 0x25000).filter fun x =>
    (s.keyOf? (s.pnum i) (c.saveArea + word x.1) x.2 0).isNone
  let t := missing.foldl (fun (t : State) x =>
    t.launchAccess { id := 0, core := i, cls := .o, addr := c.saveArea + word x.1, kind := .read x.2, posted := false,
                     stream := false }) s
  t.onCore i fun c => { c with returning := some ((List.range missing.length).map (s.fresh + ·)) }

/-- The state without some accesses. -/
def State.dropAll (s : State) (ids : List Nat) : State := { s with flight := s.flight.filter fun a => !ids.contains a.id }

/-- Whether one of some returned accesses failed, a poisoned line aside. -/
def State.someFailed (s : State) (ids : List Nat) : Bool :=
  ids.any fun id => (s.access? id).any fun a => match a.phase with
    | .returned st _ => st != stOk && st != stPoison
    | _ => true

/-- The next part of the restoration of a core that is to resume (R409, R410): from its save area, or from what RESTORE
has loaded into it (R417). Where the record cannot be read the core stays away (log 43). -/
def State.restoreCore (s : State) (i : Nat) : State :=
  let c := s.core i
  let read (t : State) : State :=
    match t.recordAt? (t.pnum i) c.saveArea with
    | some (b, h) => (t.loadRecord i b h).onCore i fun c => { c with restored := true, returning := none }
    | none => t.startReturn i
  if !c.preempted || !c.resumeDue || c.restored || !c.queueIds.all (fun id => (s.access? id).all Access.acked) then s
  else
    match c.returning with
    | none => read (s.dropAll c.queueIds)
    | some ids =>
      if !ids.all fun id => (s.access? id).all Access.acked then s
      else if s.someFailed ids then
        (s.dropAll ids).onCore i fun c => { c with returning := none, resumeDue := false }
      else read (s.dropAll ids)

/-- The cores that resume together with a core: of its stair and its gang, those that are away, being saved, or asked for
(R405, R406). -/
def State.resumesWith (s : State) (i : Nat) : List Nat :=
  (s.extended i).filter fun j => (s.core j).preempted || (s.core j).diverting || (s.core j).request.isSome

/-- A core resumes, with its stair and its gang and not before them (R405, R406): every member is restored before any
goes on. -/
def State.resumeCore (s : State) (i : Nat) : State :=
  let l := s.resumesWith i
  let t := l.foldl State.restoreCore s
  if l.all fun j => (t.core j).preempted && (t.core j).resumeDue && (t.core j).restored then l.foldl State.goesOn t else t

/-- Cores are named to resume, and those resume that can. -/
def State.resumeAll (s : State) (l : List Nat) : State :=
  let t := l.foldl (fun (t : State) j => t.onCore j fun c => { c with resumeDue := true }) s
  l.foldl State.resumeCore t

/-! ## The save (R404) -/

/-- Whether the whole stair of a core has accepted (R405). -/
def State.stairAccepted (s : State) (i : Nat) : Bool :=
  (s.stairMembers i).all fun j => (s.core j).diverts || (s.core j).thread != .running

/-- The boundary at which a core accepts its pending request (R403, R405): a HALT at any, another with MIE set and no trap
due there (R395). A JOIN that its destination has performed completes first (log 41). -/
def State.accepts (s : State) (i : Nat) : Bool :=
  let c := s.core i
  match c.request with
  | none => false
  | some halt =>
    if c.diverts || (c.halted && !halt) then false
    else if c.thread = .loaded then halt
    else if c.thread ≠ .running then false
    else if c.follower then
      match c.place, s.stairOf? i with
      | some p, some x => (s.core x.head).diverts && p.next == x.base + x.stream.length && c.wait.isNone
      | _, _ => false
    else !s.committed i && (halt || (c.mie == 1 && !c.wdogPending && !s.expired i))

/-- Acceptance (R404, items 1 to 3): the waiting instruction is withdrawn, its code address in the record's NEXTPC, which
is where R176 has it held (log 104), and diversion begins. An attached follower
resumes where its head does (R405). -/
def State.accept (s : State) (i : Nat) : State :=
  let t := (s.withdraw i).onCore i fun c => { c with thread := .running, idle := s.isIdle i }
  let t := match t.stairOf? i with
    | some x => if (t.core i).follower then t.onCore i fun c => { c with pc := (s.core x.head).pc } else t
    | none => t
  t.beginSave i

/-- Whether everything that a core issued has ended (R404, item 4). -/
def State.quiesced (s : State) (i : Nat) : Bool :=
  (s.ownEntries i).isEmpty && (s.pendIds i fun _ => true).isEmpty && (s.core i).cmds.isEmpty

/-- A save that cannot be made stops the core as a monitor event (R404, item 5); what was diverted has its effect. -/
def State.saveFails (s : State) (i : Nat) : State :=
  let t := (s.dropAll (s.core i).queueIds).onCore i fun c =>
    { c with saving := none, headed := false, queueIds := [], queueFailed := false, request := none, resumeDue := false }
  let t := t.redeliverAll i
  t.monitorEvent i (t.core i).kcause

/-- The writes of a core's record begin (R404, item 5): results that it holds go ahead of every diverted entry (R410), and
single-bit errors are corrected as it is read (R398). -/
def State.startSave (s : State) (i : Nat) : State :=
  let c := s.core i
  if bits c.ksave 8 56 = 0 then s.saveFails i
  else
    let lines := inLines 0 (s.coreRecord i c.pc)
    let hurt := s.recHurt i 0x7F
    let ids := (List.range lines.length).map (s.fresh + ·)
    let t := lines.foldl (fun (t : State) l =>
      t.launchAccess
        { id := 0, core := i, cls := .o, addr := c.saveArea + word l.1, kind := .store (l.2.mapIdx fun k b => (k, b)),
          posted := false, stream := false,
          hurt := (hurt.filter fun o => decide (l.1 ≤ o) && decide (o < l.1 + 64)).map (· - l.1) })
      ((s.correct (tcmKey i 0) 0x20000).correctCols i (List.range 256))
    t.onCore i fun c => { c with saving := some ids, spill := c.results.map .result ++ c.spill, results := [] }

/-- The core is away (R404, item 6): it holds no thread, its writes have one value each (log 120), and resumes when that is due already (R415). -/
def State.isAwayNow (s : State) (i : Nat) : State :=
  let t := { s with unsettled := s.unsettled.filter fun x => x.core != i }.onCore i fun c =>
    { c with saving := none, headed := false, preempted := true, diverting := false, request := none }
  let t := match t.partOf? i with
    | some (n, p) => t.setPart n { p with away := tset p.away i p.ran }
    | none => t
  if (t.core i).resumeDue then t.resumeCore i else t

/-- Some writes of a save have ended (R404, item 5): after the record, the spill-queue header and the queue are written
(R408), and when these are written too the core is away. -/
def State.endSave (s : State) (i : Nat) (ids : List Nat) : State :=
  let done (id : Nat) : Bool := (s.access? id).any fun a => match a.phase with
    | .returned st _ => st == stOk
    | _ => false
  let ok := ids.all done
  let t := s.dropAll ids
  let c := t.core i
  let area := c.saveArea + word 0x25000
  let t := if c.headed ∨ !ok then t
    else ((t.queueWrite i area (spillHeader c.spillTail)).queueWrite i (area + 64)
      ((c.spill.map Spilled.toBytes).flatten)).onCore i fun c => { c with headed := true }
  let c := t.core i
  if !ok ∨ c.queueFailed then t.saveFails i
  else if c.queueIds.isEmpty then t.isAwayNow i
  else t.onCore i fun c => { c with saving := some c.queueIds, queueIds := [] }

/-- PRE_EMPTION (R404, R409): the next of its stages that is due at a core: acceptance, the start of the save, its end, or
the return of a core that is to resume. -/
def execPreEmption (core : Nat) (s : State) : Host.Outcome State Fault Refusal :=
  let c := s.core core
  .next (if s.accepts core then s.accept core
    else if c.diverting then
      match c.saving with
      | none => if s.quiesced core ∧ s.stairAccepted core then s.startSave core else s
      | some ids => if ids.all fun id => (s.access? id).all Access.acked then s.endSave core ids else s
    else if c.preempted ∧ c.resumeDue then s.resumeCore core
    else s)

/-! ## CSAVE and CREST -/

/-- The record address that CSAVE and CREST refuse (R414). -/
def recordBad (a : Word) : Bool := malformed a || a.toNat % 256 != 0

/-- The accesses of a CSAVE or CREST in progress. -/
def Core.savingIds (c : Core) : Option (List Nat) :=
  match c.wait with
  | some w =>
    match w.stage with
    | .saving ids => some ids
    | _ => none
  | none => none

/-- Accesses of class O for the lines of a record, in the ordinary stream of core i; `hurt` are the poisoned parts of what
they write. -/
def State.sendLines (s : State) (i : Nat) (a : Word) (lines : List (Nat × AccKind)) (hurt : List Nat) : State :=
  lines.foldl (fun (t : State) l =>
    let b := a + word l.1
    t.launchAccess { id := 0, core := i, cls := .o, addr := b, kind := l.2, posted := false,
                     after := t.lineHolds i .o (lineNo b),
                     hurt := (hurt.filter fun o => decide (l.1 ≤ o) && decide (o < l.1 + 64)).map (· - l.1) }) s

/-- The status that an access returned, and its bytes. -/
def State.returnedOf (s : State) (id : Nat) : Nat × List Byte :=
  match (s.access? id).map Access.phase with
  | some (.returned st bs) => (st, bs)
  | _ => (stOk, [])

/-- CSAVE, save form (R414). -/
def execCsave (o : OpA) (s : State) : Host.Outcome State Fault Refusal :=
  let ir := irOf (.csave o)
  issued (fieldsA o) (needsP1 ir) [] s fun x s0 s1 =>
    let i := s0.cur
    let c := s0.self
    let ends (t : State) (st : Nat) : Result := .ok (t.setSelf (t.self.setDst o.d (word st)))
    let w : Wait := { detail := 0x27, left := c.leftOf c.defaultLimit }
    match c.savingIds with
    | some ids =>
      if ids.all fun id => (s0.access? id).all Access.acked then
        ends (s1.dropAll ids) ((ids.findSome? fun id =>
          let st := (s0.returnedOf id).1
          if st = stOk then none else some st).getD 0)
      else .wait s0 { w with stage := .saving ids }
    | none =>
      if recordBad x.s1 then ends s1 stAddress
      else
        releasing w c.issued.toList s0 s1 fun t =>
          let lines := ((s0.recPieces i (nextAddr c.pc) (o.imm.toNat % 128)).map fun p =>
            (inLines p.1 p.2).map fun l => (l.1, AccKind.store (l.2.mapIdx fun k b => (k, b)))).flatten
          let d := s0.drainOwn i fun _ => true
          .wait (d.sendLines i x.s1 lines (s0.recHurt i (o.imm.toNat % 128)))
            { w with stage := .saving ((List.range lines.length).map (t.fresh + ·)) }

/-- The control-register fields that CREST never restores (R415). -/
def crestKeep (n : Nat) : Word :=
  if n = 0x008 ∨ n = 0x009 ∨ n = 0x00A ∨ n = 0x018 then BitVec.allOnes 64 else if n = 0x006 then maskOf 1 0 else 0

/-- The lines that CREST reads for a mask. -/
def crestLines (mask : Nat) : List (RecPart × Nat × Nat) :=
  ((recParts.filter fun p => mask.testBit p.mask).map fun p =>
    (List.range ((p.len + 63) / 64)).map fun j => (p, p.off + 64 * j, min 64 (p.len - 64 * j))).flatten

/-- The parts restored in ascending offset up to the first read that failed, and its status (R415). -/
def State.crestParts (s : State) (i : Nat) (got : List (RecPart × Nat × List Byte)) : List RecPart → State × Nat
  | [] => (s, 0)
  | p :: r =>
    let mine := got.filter fun g => g.1 == p
    match mine.find? fun g => g.2.1 != stOk with
    | some g => (s, g.2.1)
    | none =>
      let t := s.loadPart i p.off ((mine.map fun g => g.2.2).flatten) crestKeep (s.core i).recordAt
      t.crestParts i got r

/-- CREST, restore form (R415). Reserved bytes of the record that are not zero are not looked at: R415 states no refusal
for them (DESIGN CHOICE, log 43). -/
def execCrest (o : OpA) (s : State) : Host.Outcome State Fault Refusal :=
  let ir := irOf (.crest o)
  let mask := o.imm.toNat % 128
  let priv (c : Core) : Option Trap :=
    if c.level = 0 ∨ mask.testBit 4 ∨ mask.testBit 5 then some (privTrap ir 0x01) else none
  issued (fieldsA o) priv [] s fun x s0 s1 =>
    let i := s0.cur
    let ends (t : State) (st : Nat) : Result := .ok (t.setSelf (t.self.setDst o.d (word st)))
    let lines := crestLines mask
    match s0.self.savingIds with
    | some ids =>
      if ids.all fun id => (s0.access? id).all Access.acked then
        let got := (lines.zip ids).map fun l => (l.1.1, s0.returnedOf l.2)
        let (t, st) := (s1.dropAll ids).crestParts i got (recParts.filter fun p => mask.testBit p.mask)
        let t := if mask.testBit 2 then t.rebuildStack i else t
        ends (s0.spillChanged t 0x030) st
      else .wait s0 { stallWait with stage := .saving ids }
    | none =>
      if recordBad x.s1 then ends s1 stAddress
      else if lines.isEmpty then ends s1 0
      else
        let d := s0.drainOwn i fun _ => true
        .wait (d.sendLines i x.s1 (lines.map fun l => (l.2.1, AccKind.read l.2.2)) [])
          { stallWait with stage := .saving ((List.range lines.length).map (d.fresh + ·)) }

/-- A rectangle word with a reserved bit set or corners out of order (R212, R414). -/
def rectWordBad (w : Word) : Bool :=
  bits w 58 6 != 0 || bits w 42 6 != 0 || bits w 26 6 != 0 || bits w 10 6 != 0
    || decide (bits w 32 10 < bits w 0 10) || decide (bits w 48 10 < bits w 16 10)

/-- The cores of core i's partition in a rectangle of virtual coordinates, without i. -/
def State.inRect (s : State) (i : Nat) (w : Word) : List Nat :=
  let (x0, y0, x1, y1) := rectOf w
  (((List.range (y1 + 1 - y0)).map fun y =>
    (List.range (x1 + 1 - x0)).filterMap fun x => s.physAt? i (x0 + x) (y0 + y)).flatten).filter (· != i)

/-- CSAVE, request form (R414). -/
def execCsaveRect (o : OpA) (s : State) : Host.Outcome State Fault Refusal :=
  issued (fieldsA o) (needsP1 (irOf (.csaveRect o))) [] s fun x s0 s1 =>
    if rectWordBad x.s2 then .ok (s1.setSelf (s1.self.setDst o.d (word stAddress)))
    else
      let l := s0.inRect s0.cur x.s2
      let t := s1.setSelf (s1.self.setDst o.d (word l.length))
      .ok { t with mesh := t.mesh ++ (l.filter fun i => (s0.core i).thread != .none).map fun i => (i, false) }

/-- The cores that the resume form names: those that are away or being saved in the rectangle, with their stairs and
gangs, also where these have only been asked (R405, R406, R415). -/
def State.resumable (s : State) (i : Nat) (w : Word) : List Nat :=
  let named := (s.inRect i w).filter fun j => (s.core j).preempted || (s.core j).diverting
  (named.map s.resumesWith).flatten.eraseDups

/-- CREST, resume form (R415): cores still being saved resume when their save is complete. -/
def execCrestRect (o : OpA) (s : State) : Host.Outcome State Fault Refusal :=
  issued (fieldsA o) (needsP1 (irOf (.crestRect o))) [] s fun x s0 s1 =>
    if rectWordBad x.s2 then .ok (s1.setSelf (s1.self.setDst o.d (word stAddress)))
    else
      let l := s0.resumable s0.cur x.s2
      .ok ((s1.setSelf (s1.self.setDst o.d (word l.length))).resumeAll l)

end Sys2Proof.Machine
end

