-- ==== Sys2Proof/Machine/Traps.lean ====
section
/-! DEFINITION. SYSCALL (R107), TRET and BRK (R396), and a debug halt (R352). -/
namespace Sys2Proof.Machine

/-- SYSCALL (R107): kepc receives the FallThrough; at P2 it has no effect. -/
def execSyscall (o : OpA) (s : State) : Host.Outcome State Fault Refusal :=
  issued (fieldsA o) anyLevel [] s fun _ s0 s1 =>
    if s0.self.level = 2 then .ok s1
    else .trap s1 { cls := 0x0D, detail := 0, tval := o.imm.zeroExtend 64, epc := some (nextAddr s0.self.pc) }

/-- TRET (R396): only above P0, and to P2 only from P2. -/
def execTret (o : OpA) (s : State) : Host.Outcome State Fault Refusal :=
  let ir := irOf (.tret o)
  let priv (c : Core) : Option Trap :=
    if c.level = 0 ∨ (c.level = 1 ∧ bits c.kstatus 0 2 = 2) then some (privTrap ir 0x01) else none
  issued (fieldsA o) priv [] s fun _ _ s1 => .jump (s1.setSelf s1.self.trapReturn) s1.self.kepc

/-- A debug halt of one core (R352, R174). -/
def State.debugHalt (s : State) (i : Nat) : State :=
  if (s.core i).halted then s else (s.onCore i fun c => { c with halted := true }).holdEndpoints i true

/-- BRK (R396): the debug trap, or a halt where a debugger has armed halt on break. -/
def execBrk (o : OpA) (s : State) : Host.Outcome State Fault Refusal :=
  issued (fieldsA o) anyLevel [] s fun _ s0 s1 =>
    let next := nextAddr s0.self.pc
    if s0.self.haltOnBreak ∧ s0.self.level ≠ 2 then
      .stay ((s1.setSelf { s1.self with kepc := next, pc := next, wait := none }).debugHalt s1.cur)
    else .trap s1 { cls := 0x0C, detail := 0x01, tval := o.imm.zeroExtend 64, epc := some next }

end Sys2Proof.Machine
end

