-- ==== Sys2Proof/Machine/Resets.lean ====
section
/-! DEFINITION. Ended groups (R152), resets of cores, halls and dies (R402, R446), soft errors and the scrubber (R398,
R401), debug halts (R352, R394, R449), and the power limiter (R445). -/
namespace Sys2Proof.Machine

/-! ## Ends and resets of cores -/

/-- A core's thread ends from outside: its endpoints and handovers fail with a CAUSE (R152); one whose thread has ended
holds handovers only (R151). -/
def State.endCore (s : State) (i cause : Nat) : State :=
  if (s.core i).thread = .done then s.failHandovers i cause
  else ((((s.withdraw i).exitStair i).failHandovers i cause).failChannels i cause).endThread i

/-- A group ends: every core's thread does (R152). -/
def State.endGroup (s : State) (p : Partition) (g : Group) (cause : Nat) : State :=
  (g.cores p).foldl (fun (t : State) i => t.endCore i cause) s

/-- SUPERVISOR_ENDS_GROUP (R152). -/
def execSupervisorEndsGroup (pnum group : Nat) (s : State) : Host.Outcome State Fault Refusal :=
  .next (match s.part? pnum with
    | none => s
    | some p =>
      match p.groups.find? fun g => g.id == group with
      | none => s
      | some g => s.endGroup p g 0)

/-- A core after its reset: nothing but its place in a group that is to be freed, and the ends of handovers that it has
to tell (R151). -/
def Core.wiped (c : Core) : Core :=
  { haltOnBreak := c.haltOnBreak
    kept := c.kept.filter fun b => b.failedWith.isSome
    thread := if c.thread = .none then .none else .done
    sent := c.sent
    rcvd := c.rcvd
    launch := c.launch
    group := c.group
    part := c.part }

/-- A group that has a core among some. -/
def Group.hasCore (g : Group) (p : Partition) (mine : Nat → Bool) : Bool := (g.cores p).any mine

/-- Every group with a core among some ends. -/
def State.endGroupsOf (s : State) (mine : Nat → Bool) (cause : Nat) : State :=
  s.parts.foldl (fun (t : State) (x : Nat × Partition) =>
    x.2.groups.foldl (fun (t : State) g => if g.hasCore x.2 mine then t.endGroup x.2 g cause else t) t) s

/-- The far sides of channels that some nodes hold abort with a CAUSE (R402). -/
def State.abortPeers (s : State) (mine : PeerSide → Bool) (cause : Nat) : State :=
  (s.peers.filter mine).foldl (fun (t : State) q => t.peerAborts q 1 cause) s

/-- Some cores are reset (R402): their groups end, their channels close with a CAUSE, and what they had under way is
lost. -/
def State.resetCores (s : State) (mine : Nat → Bool) (cause : Nat) : State :=
  let t := s.endGroupsOf mine cause
  let t := t.abortPeers (fun q => nodeKind q.node == 5 && mine (nodeIdx q.node)) cause
  { t with
    cores := tmap t.cores fun i c => if mine i then c.wiped else c
    clusters := tmap t.clusters fun _ k =>
      { k with comb := k.comb.filter fun e => !mine e.owner, monitors := k.monitors.filter fun m => !mine m.core }
    flight := t.flight.filter fun a => !mine a.core
    unsettled := t.unsettled.filter fun x => !mine x.core
    mesh := t.mesh.filter fun m => !mine m.1
    net := t.net.filter fun q => !(match q.body with
      | .result _ => mine q.dst
      | _ => false) }

/-- An access in flight that targets a reset core or hall, and was not performed, fails (R402). -/
def State.failAccess (s : State) (a : Access) (mine node : Nat → Bool) : Access :=
  let hit : Bool := match a.kind.target with
    | some (pkg, n) => pkg == s.board.peer && (s.physNode? a.core n).any mine
    | none => node a.node
  if hit ∧ !a.done then { a with phase := .performed stReset [] } else a

/-- Whether an item that has not been performed has a side at some interfaces. -/
def State.itemMeets (s : State) (i : Nat) (op : EngineOp) (j : Nat) (p : ItemPhase) (node : Nat → Bool) : Bool :=
  let at' (a : Word) : Bool := node (s.nodeFor (s.pnum i) a)
  match s.moveOf op j, p with
  | some m, .pending | some m, .behind _ | some m, .held none | some m, .waits none =>
    (!m.srcLocal && at' m.src) || (!m.dstLocal && at' m.dst)
  | some m, .half _ | some m, .held (some _) | some m, .waits (some _) => !m.dstLocal && at' m.dst
  | _, _ => false

/-- The items of a command that target a reset hall fail (R402). -/
def State.failItems (s : State) (i : Nat) (node : Nat → Bool) (k : Cmd) : Cmd :=
  if k.matrix then k
  else { k with items := k.items.mapIdx fun j p => if s.itemMeets i k.op j p node then .failed stReset else p }

/-- Accesses of other packages that target some cores or hall interfaces fail with RESET (R402). -/
def State.failInbound (s : State) (mine node : Nat → Bool) : State :=
  s.inbound.foldl (fun (t : State) x =>
    if (match x.req with
        | .arrival _ _ => mine x.node
        | _ => node x.node) then t.answerInbound x stReset [] else t) s

/-- Everything that targets some cores or hall interfaces and has not been performed fails with RESET (R402). -/
def State.failTargets (s : State) (mine node : Nat → Bool) : State :=
  let t := (s.abortPeers (fun q => node q.node) stReset).failInbound mine node
  { t with
    flight := t.flight.map fun a => t.failAccess a mine node
    cores := tmap t.cores fun i c => { c with cmds := c.cmds.map (t.failItems i node) }
    ifaces := tmap t.ifaces fun n f => if node n then { f with cache := [], requests := [] } else f }

/-- A reset of some halls (R402). -/
def State.resetHalls (s : State) (hall : Nat → Bool) : State :=
  let mine (i : Nat) : Bool := hall (hallOf i)
  (s.resetCores mine stReset).failTargets mine fun n => nodeKind n == 1 && hall (nodeIdx n)

/-- HALL_RESET (R402). -/
def execHallReset (hall : Nat) (s : State) : Host.Outcome State Fault Refusal :=
  .next (if hall < 160 then s.resetHalls (· == hall) else s)

/-- The die of a hall (R13). -/
def hallDie (h : Nat) : Nat := h / 80 * 2 + h % 16 / 8

/-- Memory of some owners cleared, by kind and index of the storage keys. -/
def State.clearOwned (s : State) (mine : Nat → Nat → Bool) : State :=
  let own (k : Nat) : Bool := mine (k / 2 ^ 64 / 2 ^ 24) (k / 2 ^ 64 % 2 ^ 24)
  { s with
    mem := s.mem.filter fun c => !own c.1
    poison := s.poison.filter fun p => !own (p * 8)
    soft := s.soft.filter fun p => !own (p * 8)
    objects := s.objects.filter fun o => !own o.1 }

/-- The SRAM and near-DRAM of a die, as kinds and indexes of storage. -/
def onDie (d kind index : Nat) : Bool :=
  match kind with
  | 0 => dieOf index == d
  | 1 => dieIndex (4 * (index % 256)) (4 * (index / 256)) == d
  | 2 => hallDie index == d
  | _ => false

/-- Groups of a partition that have a core on a die. -/
def Partition.groupsOn (p : Partition) (d : Nat) : Nat := (p.groups.filter fun g => g.hasCore p fun i => dieOf i == d).length

/-- A notice to every partition that loses groups to a die reset (R402, R346). -/
def State.dieNotices (s : State) (d : Nat) : State :=
  s.parts.foldl (fun (t : State) (x : Nat × Partition) =>
    let n := x.2.groupsOn d
    if n = 0 then t else t.notice x.1 3 (word d) (word n) 0) s

/-- DIE_RESET (R446): the die's cores and halls are reset, its SRAM and near DRAM are cleared, and TRIP records it. Far
memory survives. -/
def execDieReset (die : Nat) (s : State) : Host.Outcome State Fault Refusal :=
  .next (if 4 ≤ die ∨ s.board.dieDown[die]! then s
    else
      let t := (s.dieNotices die).resetHalls fun h => hallDie h == die
      let t := t.clearOwned (onDie die)
      { t with board := { t.board with
          trip := t.board.trip ||| (1#4 <<< die), dieDown := t.board.dieDown.set! die true } })

/-- DIE_RECOVER (R446): the die has cooled below 95 °C and passed its checks. -/
def execDieRecover (die eighths : Nat) (selfCheck : Bool) (s : State) : Host.Outcome State Fault Refusal :=
  .next (if die < 4 ∧ s.board.dieDown[die]! ∧ eighths < 760 then
      { s with board := { s.board with
          temp := s.board.temp.set! die eighths, hot := s.board.hot.set! die false
          dieDown := if selfCheck then s.board.dieDown.set! die false else s.board.dieDown } }
    else s)

/-- INTERFACE_LOCK_LOSS (spec/31_physical.md, Clocks): that interface alone retrains. Training of the CXL and LPDDR6
interfaces only delays (R443); a Kalfa port keeps its retry buffer and is to retrain (R441). -/
def execInterfaceLockLoss (loop : IfLoop) (s : State) : Host.Outcome State Fault Refusal :=
  .next (match loop with
    | .kalfa port =>
      if port < 16 then { s with ports := tset s.ports port { tget {} s.ports port with limit := true } } else s
    | .cxl | .lpddr _ => s)

/-! ## Soft errors -/

/-- A flip in an aligned 8-byte part: the first is single, the second poisons the part (R398). Host memory is not the
part's. -/
def State.flip (s : State) (part : Nat) : State :=
  if 4 ≤ part * 8 / 2 ^ 64 / 2 ^ 24 ∨ s.poison.contains part then s
  else if s.soft.contains part then { s with soft := s.soft.filter (· != part) }.poisonRange (part * 8) 8
  else { s with soft := insertNat s.soft part }

/-- Words with a single-bit error after a flip in one: a second flip there makes an error of two bits (R398). -/
def flipIn (soft : List Nat) (w : Nat) : Option (List Nat) := if soft.contains w then none else some (insertNat soft w)

/-- A flip in a word of an accumulator column (R398). -/
def Core.flipCol (c : Core) (n w : Nat) : Core :=
  if 256 ≤ n ∨ 4 ≤ w ∨ (c.col n).bad then c
  else
    match flipIn (c.col n).soft w with
    | some l => c.setCol n { c.col n with soft := l }
    | none => c.setCol n { c.col n with soft := [], bad := true }

/-- A flip in a word of a line of an instruction cache (R398, R399): the first is corrected when the line is read, the
second makes the line's fetch fail. -/
def Core.flipLine (c : Core) (line : Word) (w : Nat) : Core :=
  { c with icache := c.icache.map fun l =>
      if l.addr ≠ lineAddr line ∨ 8 ≤ w then l
      else
        match flipIn l.soft w with
        | some x => { l with soft := x }
        | none => { l with soft := [], failed := some 0x08 } }

/-- Every item of a core's commands that has not ended ends with a status (R401). -/
def State.endItems (s : State) (i status : Nat) : State :=
  (s.core i).cmds.foldl (fun (t : State) (k : Cmd) =>
    (List.range k.items.length).foldl (fun (t : State) (j : Nat) =>
      if k.items[j]? = some .done then t
      else
        let r : ItemRef := { core := i, ctx := Fin.ofNat 4 k.ctx, tl := k.tl, item := j }
        match if k.matrix then none else t.moveOf k.op j with
        | some m => t.endItem r m.remote m.n status
        | none => t.endItem r (k.op.itemAddr j) 1 status) t) s

/-- An uncorrectable error in a core's registers (R401): a monitor event; its engine items end with POISON, its group
ends, its channels close with CAUSE POISON, and it is reset, which fails what targets it with RESET (R402). -/
def State.coreFails (s : State) (i : Nat) : State :=
  let t := s.post 2 (s.pnum i) [word (coreY i * 2 ^ 16 + coreX i), (s.core i).kcause, 0]
  let t := (t.endItems i stPoison).endCore i stPoison
  let t := match t.groupOf? i with
    | some (_, p, g) => t.endGroup p g 0
    | none => t
  (t.resetCores (· == i) stPoison).failTargets (· == i) fun _ => false

/-- A message with a word that cannot be corrected (R398, R399): a channel message and a value of a reduction are poisoned
on. Of the others the spec names no consumer. -/
def Body.poisoned? : Body → Option Body
  | .msg seq mt bs _ d => some (.msg seq mt bs true d)
  | .contribution key level idx slot p limit v after =>
    if key.kind = .red ∨ key.kind = .csum then
      some (.contribution key level idx slot p limit { v with poison := true } after)
    else none
  | .result r => some (.result { r with status := stPoison, elems := List.replicate r.elems.length 0 })
  | _ => none

/-- A flip in a message of the network (R398). DESIGN CHOICE (log 118): where no consumer of its poison is named, the
error is the one of R401 of the core that it is for, or of its sender. -/
def State.flipPacket (s : State) (id w : Nat) : State :=
  match s.packet? id with
  | none => s
  | some p =>
    let put (q : Packet) : State := { s with net := s.net.map fun x => if x.id = id then q else x }
    match flipIn p.soft w, p.body.poisoned? with
    | some l, _ => put { p with soft := l }
    | none, some b => put { p with soft := p.soft.filter (· != w), body := b }
    | none, none =>
      let t := s.dropPacket id
      if p.dst < Config.coreCount then t.coreFails p.dst
      else if p.origin < Config.coreCount then t.coreFails p.origin
      else t

/-- A flip in a word of a LINK queue (R398): one that cannot be corrected would be read by an instruction, and is the
error of R401 (log 118). -/
def State.flipLink (s : State) (i e w : Nat) : State :=
  let ep := (s.core i).ep e
  if ep.linkIn.length ≤ w then s
  else
    match flipIn ep.linkSoft w with
    | some l => s.onEp i e fun ep => { ep with linkSoft := l }
    | none => s.coreFails i

/-- SOFT_ERROR (R398, R401). -/
def execSoftError (place : ErrPlace) (s : State) : Host.Outcome State Fault Refusal :=
  .next (match place with
    | .mem part => s.flip part
    | .acc core column word => s.onCore core fun c => c.flipCol column word
    | .coreState core => if core < Config.coreCount then s.coreFails core else s
    | .icache core line word => s.onCore core fun c => c.flipLine line word
    | .packet id word => s.flipPacket id word
    | .linkQueue core ep word => s.flipLink core ep word)

/-- SCRUB (R398): the word is read; a single-bit error is corrected and counted, a poisoned part stays so. -/
def execScrub (part : Nat) (s : State) : Host.Outcome State Fault Refusal := .next (s.correct (part * 8) 8)

/-- REFRESH (R443): it delays accesses and never fails them. -/
def execRefresh (_controller : Nat) (s : State) : Host.Outcome State Fault Refusal := .next s

/-! ## Debug -/

/-- Whether a debugger may reach a core: its partition's DBGEN bit (R449). -/
def State.debuggable (s : State) (i : Nat) : Bool :=
  match s.partOf? i with
  | some (n, _) => s.board.dbgEn.getLsbD n
  | none => false

/-- DEBUG_HALT (R449, R352). -/
def execDebugHalt (core : Nat) (s : State) : Host.Outcome State Fault Refusal :=
  .next (if s.debuggable core then s.debugHalt core else s)

/-- DEBUG_STEP (R449): a halted core completes one instruction; not one that a monitor event holds at P2, which runs again
only when the host resumes it (R394). -/
def execDebugStep (core : Nat) (s : State) : Host.Outcome State Fault Refusal :=
  .next (if s.debuggable core ∧ (s.core core).halted ∧ !(s.core core).monitored then s.onCore core fun c => { c with stepping := true } else s)

/-- HALT_ON_BREAK (R449). -/
def execHaltOnBreak (core : Nat) (s : State) : Host.Outcome State Fault Refusal :=
  .next (if s.debuggable core then s.onCore core fun c => { c with haltOnBreak := true } else s)

/-- A halted core that goes on: out of monitor firmware it returns to the level that it came from (log 17). -/
def Core.resumed (c : Core) : Core :=
  { c with
    halted := false, monitored := false, stepping := false
    kpriv := if c.monitored then setBits c.kpriv 0 2 c.enteredFrom else c.kpriv }

/-- HALT_END (R394, R174): the host resumes a halted core, which sends release notices. -/
def execHaltEnd (core : Nat) (s : State) : Host.Outcome State Fault Refusal :=
  .next (if (s.core core).halted then (s.onCore core Core.resumed).holdEndpoints core false else s)

/-- The value of a register that the debug port reads, as words (R449); a freed one is undefined (R30). -/
def Core.debugReg (c : Core) (n : Nat) (o : Opnd) : List Word :=
  match o with
  | .g r => [c.gVal n 74 r]
  | .q r => [(c.qVal n 74 r).zeroExtend 64]
  | .v r => (List.range 4).map fun k => word (field (c.vVal n 74 r).toNat (64 * k) 64)
  | .tl t => [word c.tl[t]]
  | .e e => (c.ep e.val).words
  | .port p _ => (c.ep (16 + p.val)).words
  | .none => [0]

/-- What the debug port reads of a core (R449): zero without DBGEN, and nothing of a core at P2. -/
def State.debugValue (s : State) (i : Nat) (what : DebugSel) : List Word :=
  let c := s.core i
  if !s.debuggable i ∨ c.level = 2 then [0]
  else
    match what with
    | .reg o => c.debugReg s.free o
    | .cr n => [c.cr n]
    | .tcm off => if off + 8 ≤ Config.tcmBytes then [word (leNat (readBytes s.mem (tcmKey i off) 8))] else [0]

/-- DEBUG_READ (R449): the words are shifted out of the port. -/
def execDebugRead (core : Nat) (what : DebugSel) (s : State) : Host.Outcome State Fault Refusal :=
  .next { s with free := s.free + 1, board := { s.board with jtag := 4, jtagOut := s.debugValue core what } }

/-! ## Power and temperature -/

/-- The limit that the limiter uses: PLIM, or 75 % of it while a die is hot (R446). -/
def Board.effectiveLimit (b : Board) : Nat := if b.hot.any id then b.plim * 3 / 4 else b.plim

/-- POWER_WINDOW_END (R445): the window's mean power is reported; one above the limit makes the next window a throttled
one. A new PLIM takes effect here (R448). -/
def execPowerWindowEnd (watts : Nat) (s : State) : Host.Outcome State Fault Refusal :=
  let b := s.board
  let above := decide (b.effectiveLimit < watts)
  .next { s with board := { b with
    pkgPwr := min watts 0xFFFF, throttled := above, plim := b.plimNext
    thrCnt := if above then min (b.thrCnt + 1) 0xFFFFFFFF else b.thrCnt } }

/-- THERMAL_THROTTLE (R446): a die's hottest junction, in eighths of a degree; at 100 °C or above it is hot until it has
cooled below 95 °C. -/
def execThermalThrottle (die eighths : Nat) (s : State) : Host.Outcome State Fault Refusal :=
  .next (if die < 4 then
      { s with board := { s.board with
          temp := s.board.temp.set! die (min eighths 0xFFF)
          hot := if 800 ≤ eighths then s.board.hot.set! die true
                 else if eighths < 760 then s.board.hot.set! die false
                 else s.board.hot } }
    else s)

end Sys2Proof.Machine
end

