-- ==== Sys2Proof/Machine/Manage.lean ====
section
/-! DEFINITION. The management queue (R434) and its commands (R435, R436), but for those on whole partitions' contexts. -/
namespace Sys2Proof.Machine

/-! ## The queue -/

/-- STATUS of a completion (R436). -/
inductive Verdict where
  | ok | badCommand | state | inUse | image | transfer
  deriving DecidableEq, Repr

/-- The code of a STATUS. -/
def Verdict.code : Verdict → Nat
  | .ok => 0 | .badCommand => 1 | .state => 2 | .inUse => 3 | .image => 4 | .transfer => 5

/-- How a command goes on. -/
inductive CmdEnd where
  /-- it has ended with VALUE -/
  | ok (value : Nat) (s : State)
  /-- it is refused, and changes nothing (R436) -/
  | refuse (v : Verdict) (value : Nat)
  /-- it has begun and completes later -/
  | later (s : State)

/-- A word of a command entry. -/
def cmdWord (e : CmdEntry) (n : Nat) : Word := (e.w[n]?).getD 0

/-- OPC, PNUM and TAG of an entry (R434). -/
def cmdOpc (e : CmdEntry) : Nat := bits (cmdWord e 0) 0 8

/-- PNUM. -/
def cmdPart (e : CmdEntry) : Nat := bits (cmdWord e 0) 8 6

/-- TAG. -/
def cmdTag (e : CmdEntry) : Nat := bits (cmdWord e 0) 16 16

/-- Whether a reserved bit of word 0 or an unused word of an entry is set; `used` operand words are used (R434). -/
def cmdReserved (e : CmdEntry) (used : Nat) : Bool :=
  bits (cmdWord e 0) 14 2 != 0 || bits (cmdWord e 0) 32 32 != 0
    || (List.range 8).any fun n => decide (used < n) && cmdWord e n != 0

/-- Host memory read by a command (R436): nothing where it ends with poison or lies outside it. -/
def State.hostBytes (s : State) (a n : Nat) : Option (List Byte) :=
  if a + n ≤ 2 ^ 52 ∧ !poisoned s (hostKey a) n then some (readBytes s.mem (hostKey a) n) else none

/-- The storage key of the entry at the head of the command ring. -/
def State.cmdKey (s : State) : Nat := hostKey (s.board.mq.slotAt 64 s.board.mq.cons)

/-- Whether the device takes a command, and this entry is the one at the head of the ring: the part is READY, both rings
are enabled, and the completion ring has space (R434, R447). -/
def State.takesCmd (s : State) (e : CmdEntry) : Bool :=
  let b := s.board
  b.state == .ready && b.mq.enabled && b.mq.count != 0 && b.cq.enabled && !b.cq.full
    && (List.range 8).all fun n => word (leNat (readBytes s.mem (s.cmdKey + 8 * n) 8)) == cmdWord e n

/-- The completion of the command at the head of the ring (R434): its entry, CPROD, and MSI-X vector 1. -/
def State.completes (s : State) (e : CmdEntry) (v : Verdict) (value : Nat) : State :=
  let (m, cq) := s.board.cq.push s.mem (leBytes 8 (cmdTag e * 2 ^ 16 + v.code) ++ leBytes 8 value)
  { s with
    mem := m
    free := s.free + 1
    board := { s.board with cq := cq, mq := { s.board.mq with cons := s.board.mq.cons + 1 }, begun := none } }.signal 0 1

/-- A management event: the command at the head of the ring, when it is one of this OPC; an unknown OPC is refused. -/
def managed (opc used : Nat) (e : CmdEntry) (s : State) (body : Unit → CmdEnd) :
    Host.Outcome State Fault Refusal :=
  .next (if !s.takesCmd e then s
    else if poisoned s s.cmdKey 64 then s.completes e .transfer 0
    else if cmdOpc e = 0 ∨ 0x0F < cmdOpc e then s.completes e .badCommand 0
    else if cmdOpc e ≠ opc then s
    else if cmdReserved e used then s.completes e .badCommand 0
    else
      match body () with
      | .ok value t => t.completes e .ok value
      | .refuse v value => s.completes e v value
      | .later t => t)

/-- A command on a partition that must exist (R436). -/
def onPartition (s : State) (e : CmdEntry) (f : Partition → CmdEnd) : CmdEnd :=
  match s.part? (cmdPart e) with
  | some p => f p
  | none => .refuse .state 0

/-! ## CREATE and DESTROY -/

/-- Whether a hall of a rectangle of halls belongs to a partition (R372). -/
def State.hallsTaken (s : State) (x y w h : Nat) : Bool :=
  s.parts.any fun q =>
    decide (x < q.2.hx0 + q.2.hw) && decide (q.2.hx0 < x + w) && decide (y < q.2.hy0 + q.2.hh)
      && decide (q.2.hy0 < y + h)

/-- Whether a dirty bitmap lies in one DPA range (R435). -/
def dBaseOk (a : Nat) : Bool :=
  a == 0 || (match dpaOf? a, dpaOf? (a + 0x53FFFFF) with
    | some x, some y => x.1 == y.1
    | _, _ => false)

/-- Whether the operands of a CREATE are illegal (R372, R435). -/
def createBad (e : CmdEntry) : Bool :=
  let w := cmdWord e 1
  let hw := bits w 16 5
  let hh := bits w 24 4
  bits w 6 2 != 0 || bits w 21 3 != 0 || bits w 28 4 != 0 || bits w 48 16 != 0 || bits w 0 6 != cmdPart e
    || hw == 0 || hh == 0 || decide (16 < bits w 8 4 + hw) || decide (10 < bits w 12 4 + hh)
    || bits (cmdWord e 2) 0 16 != 0 || bits (cmdWord e 3) 0 12 != 0 || !dBaseOk (cmdWord e 3).toNat

/-- The record that a CREATE writes (R372, R435). -/
def State.createdPart (s : State) (e : CmdEntry) (peers : List Byte) : Partition :=
  let w := cmdWord e 1
  { hx0 := bits w 8 4, hy0 := bits w 12 4, hw := bits w 16 5, hh := bits w 24 4, ttag := bits w 32 16
    peermap := BitVec.ofNat 512 (leNat peers), ringBase := cmdWord e 2, dBase := cmdWord e 3
    key := Config.partitionKey s.board.created (cmdPart e) }

/-- CREATE (R435). -/
def execCreate (e : CmdEntry) (s : State) : Host.Outcome State Fault Refusal :=
  managed 0x01 4 e s fun _ =>
    let w := cmdWord e 1
    if createBad e then .refuse .badCommand 0
    else if (s.part? (cmdPart e)).isSome ∨ s.hallsTaken (bits w 8 4) (bits w 12 4) (bits w 16 5) (bits w 24 4) then
      .refuse .inUse 0
    else
      match s.hostBytes (cmdWord e 4).toNat 64 with
      | none => .refuse .transfer 0
      | some peers =>
        .ok 0 ({ s with board := { s.board with created := s.board.created + 1 } }.setPart (cmdPart e)
          (s.createdPart e peers))

/-- Everything at the interfaces that belongs to a partition is forgotten. -/
def Iface.without (f : Iface) (pnum : Nat) : Iface :=
  { f with cache := f.cache.filter fun c => c.part != pnum, requests := f.requests.filter fun r => r.part != pnum }

/-- A partition is released (R430, R435): channels with a peer in it close, its halls are free, and its virtual function
reads zero. -/
def State.release (s : State) (pnum : Nat) : State :=
  let mine (i : Nat) : Bool := match s.partOf? i with
    | some (n, _) => n == pnum
    | none => false
  let t := s.abortPeers (fun q => q.part == pnum) stReset
  { t with
    parts := tdel t.parts pnum
    board := { t.board with
      rq1 := tdel t.board.rq1 pnum, rp1 := tdel t.board.rp1 pnum, doe := tdel t.board.doe (pnum + 1) }
    cores := t.cores.filter fun c => !mine c.1
    ifaces := tmap t.ifaces fun _ f => f.without pnum
    peers := t.peers.filter fun q => q.part != pnum
    shoots := t.shoots.filter fun x => x.part != pnum
    flight := t.flight.filter fun a => a.core != partSource pnum && !mine a.core
    inbound := t.inbound.filter fun x => x.part != pnum
    unsettled := t.unsettled.filter fun x => !mine x.core
    mesh := t.mesh.filter fun m => !mine m.1
    nodes := t.nodes.filter fun d => d.key.part != pnum
    finals := t.finals.filter fun d => d.key.part != pnum
    stairs := t.stairs.filter fun x => !mine x.head }

/-- DESTROY (R435). -/
def execDestroy (e : CmdEntry) (s : State) : Host.Outcome State Fault Refusal :=
  managed 0x02 0 e s fun _ =>
    onPartition s e fun p => if p.groups.isEmpty then .ok 0 (s.release (cmdPart e)) else .refuse .inUse 0

/-! ## Roots, shoot-downs, limits and maps -/

/-- A command that waits for a shoot-down: issued first, and complete when the shoot-down is (R370, R435). -/
def shooting (s t : State) (x : Shoot) : CmdEnd :=
  match s.board.begun with
  | none =>
    let u := t.issueShoot x
    .later { u with board := { u.board with begun := some t.fresh } }
  | some id => if s.shoots.any fun y => y.id == id then .later s else .ok 0 s

/-- Whether the operands of a SETROOT are illegal (R358, R435): the root's reserved bits among them. -/
def setrootBad (e : CmdEntry) : Bool :=
  let w := cmdWord e 1
  bits w 10 6 != 0 || bits w 18 46 != 0 || decide (671 < bits w 0 10) || bits w 16 2 == 0 || bits w 16 2 == 3
    || bits (cmdWord e 2) 52 11 != 0 || bits (cmdWord e 2) 0 12 != 0

/-- SETROOT (R435). -/
def execSetroot (e : CmdEntry) (s : State) : Host.Outcome State Fault Refusal :=
  managed 0x03 2 e s fun _ =>
    let w := bits (cmdWord e 1) 0 10
    let stage := bits (cmdWord e 1) 16 2
    if setrootBad e then .refuse .badCommand 0
    else onPartition s e fun p =>
      shooting s (s.setPart (cmdPart e) { p with roots := tset p.roots (w * 2 + (stage - 1)) (cmdWord e 2) })
        { id := 0, part := cmdPart e, stage := stage, page := none, window := some w }

/-- SHOOT2 (R435, R386): word 1 holds the address of a page with the shoot word's SIZE in bits 1:0, which no page address
uses. -/
def execShoot2 (e : CmdEntry) (s : State) : Host.Outcome State Fault Refusal :=
  managed 0x04 1 e s fun _ =>
    let a := cmdWord e 1
    if bits a 0 2 ≠ 3 ∧ malformed a then .refuse .badCommand 0
    else onPartition s e fun _ => shooting s s { id := 0, part := cmdPart e, stage := 2, page := shootPage a a }

/-- Whether the operands of a SETLIMIT are illegal (R375, R435). -/
def setlimitBad (e : CmdEntry) : Bool :=
  let w := cmdWord e 1
  bits w 7 57 != 0 || decide (5 < bits w 0 4) || (bits w 0 4 != 3 && bits w 4 3 != 0)
    || cmdWord e 2 == 0 || bits (cmdWord e 2) 20 44 != 0

/-- SETLIMIT (R435): it acts on periods that begin later (R436). -/
def execSetlimit (e : CmdEntry) (s : State) : Host.Outcome State Fault Refusal :=
  managed 0x05 2 e s fun _ =>
    if setlimitBad e then .refuse .badCommand 0
    else onPartition s e fun p =>
      let k := bits (cmdWord e 1) 0 4 * 8 + bits (cmdWord e 1) 4 3
      .ok 0 (s.setPart (cmdPart e) { p with
        budgets := tset p.budgets k { tget {} p.budgets k with nextLimit := some (cmdWord e 2).toNat } })

/-- PEERMAP (R435). -/
def execPeermap (e : CmdEntry) (s : State) : Host.Outcome State Fault Refusal :=
  managed 0x06 1 e s fun _ =>
    onPartition s e fun p =>
      match s.hostBytes (cmdWord e 1).toNat 64 with
      | none => .refuse .transfer 0
      | some bs => .ok 0 (s.setPart (cmdPart e) { p with peermap := BitVec.ofNat 512 (leNat bs) })

/-- Whether an entry of the group table is illegal (R378): a reserved bit, or NMEMB of a valid entry. -/
def groupBad (bs : List Byte) : Bool :=
  let w := word (fieldAt bs 0 8)
  bits w 48 15 != 0 || bits w 7 25 != 0 || decide (64 < bits w 0 7) || (bits w 63 1 == 1 && bits w 0 7 == 0)
    || (List.range 64).any fun m => field (fieldAt bs (8 + 2 * m) 2) 9 6 != 0

/-- The ports that lead to switches of the scale-up domain: those of the route table that are up (R435, R442). -/
def State.switchPorts (s : State) : List Nat :=
  (List.range 16).filter fun n => (tget {} s.ports n).up && s.board.routes.any fun m => m.getLsbD n

/-- A group-table entry written into the gateway and sent in a management flit to the switches behind every port (R435). -/
def State.sendGroup (s : State) (n : Nat) (bs : List Byte) : State :=
  let f : Flit :=
    { kind := .mgmt, seq := 0, payload := (List.range 232).map fun j => Config.freeBits s.free (2 ^ 40 + j) 8
      group := some (n, bs) }
  { s with
    free := s.free + 1
    ports := s.switchPorts.foldl (fun (l : List (Nat × Port)) p => tset l p ((tget {} l p).transmit f)) s.ports
    board := { s.board with groups := tset s.board.groups n bs, begun := some 0, acksFrom := s.switchPorts } }

/-- GROUPTAB (R435): it completes when every switch has acknowledged (log 119). -/
def execGrouptab (e : CmdEntry) (s : State) : Host.Outcome State Fault Refusal :=
  managed 0x07 2 e s fun _ =>
    if s.board.begun.isSome then (if s.board.acksFrom.isEmpty then .ok 0 s else .later s)
    else if bits (cmdWord e 1) 10 54 ≠ 0 then .refuse .badCommand 0
    else
      match s.hostBytes (cmdWord e 2).toNat 136 with
      | none => .refuse .transfer 0
      | some bs =>
        if groupBad bs then .refuse .badCommand 0
        else
          let t := s.sendGroup (cmdWord e 1).toNat bs
          if t.board.acksFrom.isEmpty then .ok 0 t else .later t

/-! ## Images and root kernels -/

/-- Whether a 64-bit value fits in 32 bits as signed or unsigned, which is how R68 uses the word (DEDUCED, log 84). -/
def fits32 (x : Word) : Bool := decide (x.toNat < 2 ^ 32) || decide (2 ^ 64 - 2 ^ 31 ≤ x.toNat)

/-- Whether an ABS32 relocation does not fit where the image is to lie (R72). -/
def unfitReloc (f : List Byte) (base : Word) : Bool :=
  (relocsOf f).any fun r =>
    r.ty == 2 && (match (symbolsOf f)[r.sym]? with
      | some y => !fits32 (y.at base + BitVec.ofInt 64 r.addend)
      | none => true)

/-- The bytes of a 512-bit digest, as SHA-512 writes them: most significant first. -/
def digestBytes (d : BitVec 512) : List Byte := (leBytes 64 d.toNat).reverse

/-- An image enters a partition (R75, R382): its measurement is extended. -/
def Partition.withImage (p : Partition) (base : Word) (f : List Byte) : Partition :=
  { p with
    images := (p.images.filter fun m => m.base != base) ++ [{ base := base, bytes := f }]
    measurement := Config.sha512 (digestBytes p.measurement ++ f) }

/-- LOADIMG (R435): the reason of a refusal is left open. DESIGN CHOICE (log 84): a target that is no multiple of 64, where
the code could hold no lines, completes BAD-COMMAND. -/
def execLoadimg (e : CmdEntry) (s : State) : Host.Outcome State Fault Refusal :=
  managed 0x08 3 e s fun _ =>
    onPartition s e fun _ =>
      if (cmdWord e 3).toNat % 64 ≠ 0 then .refuse .badCommand 0
      else
        match s.hostBytes (cmdWord e 1).toNat (cmdWord e 2).toNat with
        | none => .refuse .transfer 0
        | some f =>
          if imageRefused f false ∨ unfitReloc f (cmdWord e 3) then .refuse .image (Config.freeBits s.free 80 64).toNat
          else
            match s.writeImage? (cmdPart e) f (cmdWord e 3) with
            | none => .refuse .badCommand 0
            | some t => .ok (cmdWord e 3).toNat (t.onPart (cmdPart e) fun p => p.withImage (cmdWord e 3) f)

/-- START (R435): the launch record is posted as LAUNCH posts it (R325); a full queue gives number 0. -/
def execStart (e : CmdEntry) (s : State) : Host.Outcome State Fault Refusal :=
  managed 0x09 1 e s fun _ =>
    onPartition s e fun p =>
      match s.hostBytes (cmdWord e 1).toNat 64 with
      | none => .refuse .transfer 0
      | some bs =>
        let ws := (List.range 8).map fun n => word (fieldAt bs (8 * n) 8)
        if recBad ws then .refuse .badCommand 0
        else if p.rootRunning.isSome then .refuse .state 0
        else
          let (n, t) := s.postLaunch (cmdPart e) { n := 0, words := ws.set 5 0, launcher := none, addr := cmdWord e 1 }
          .ok n (if n = 0 then t else t.onPart (cmdPart e) fun q => { q with rootRunning := some n })

/-! ## Counters and the peer number -/

/-- RDCOUNT (R435): the count since the last one. -/
def execRdcount (e : CmdEntry) (s : State) : Host.Outcome State Fault Refusal :=
  managed 0x0E 1 e s fun _ =>
    let n := (cmdWord e 1).toNat
    if n < 160 ∨ (256 ≤ n ∧ n < 264) then
      .ok (tget 0 s.board.errors n) { s with board := { s.board with errors := tdel s.board.errors n } }
    else .refuse .badCommand 0

/-- SETPEER (R435): it requires that no partition exists. -/
def execSetpeer (e : CmdEntry) (s : State) : Host.Outcome State Fault Refusal :=
  managed 0x0F 1 e s fun _ =>
    if 511 < (cmdWord e 1).toNat then .refuse .badCommand 0
    else if s.parts.isEmpty then .ok 0 { s with board := { s.board with peer := (cmdWord e 1).toNat } }
    else .refuse .inUse 0

end Sys2Proof.Machine
end

