-- ==== Sys2Proof/Machine/Attest.lean ====
section
/-! DEFINITION. Attestation: the SPDM requests of R439 and the measurements of R382. Hashes and signatures are not computed
(log 14). -/
namespace Sys2Proof.Machine

/-- A function's mailbox: 0 is the PF's, n + 1 VF n's. -/
def State.doe (s : State) (fn : Nat) : Doe := tget {} s.board.doe fn

/-- Whether a function answers: the PF once the link is trained and in STATE FAILED, a VF while its partition exists (R430,
R447). -/
def State.answers (s : State) (fn : Nat) : Bool :=
  match fn with
  | 0 => s.board.state == .ready || s.board.state == .failed
  | n + 1 => decide (n < 64) && s.board.state == .ready && (s.part? n).isSome

/-- A request to a function's mailbox. -/
def spdm (fn : Nat) (s : State) (f : Doe → Doe) : Host.Outcome State Fault Refusal :=
  .next (if s.answers fn then { s with board := { s.board with doe := tset s.board.doe fn (f (s.doe fn)) } } else s)

/-- A response of a mailbox whose session has come so far, and ERROR otherwise. -/
def Doe.when (d : Doe) (ok : Bool) (r : SpdmResponse) : Doe := { d with response := if ok then r else .error }

/-- GET_VERSION (R439): it begins the session anew. -/
def execGetVersion (fn : Nat) (s : State) : Host.Outcome State Fault Refusal :=
  spdm fn s fun _ => { version := true, response := .version }

/-- GET_CAPABILITIES (R439). -/
def execGetCapabilities (fn : Nat) (s : State) : Host.Outcome State Fault Refusal :=
  spdm fn s fun d => { d.when d.version .capabilities with caps := d.version }

/-- The bits of TPM_ALG_RSASSA_4096 and TPM_ALG_SHA_512 in the requests of SPDM 1.2 (log 46). -/
def algRsassa4096 : Nat := 5

/-- TPM_ALG_SHA_512. -/
def algSha512 : Nat := 2

/-- NEGOTIATE_ALGORITHMS (R439): only these two are offered. -/
def execNegotiateAlgorithms (fn : Nat) (asym hash : List Nat) (s : State) : Host.Outcome State Fault Refusal :=
  spdm fn s fun d =>
    let a := asym.contains algRsassa4096
    let h := hash.contains algSha512
    { d.when d.caps (.algorithms a h) with algs := d.caps && a && h }

/-- The digest of the certificate chain (R382). -/
def certDigest : BitVec 512 := Config.sha512 Config.certificateChain

/-- GET_DIGESTS (R439). -/
def execGetDigests (fn : Nat) (s : State) : Host.Outcome State Fault Refusal :=
  spdm fn s fun d => d.when d.algs (.digests [certDigest])

/-- GET_CERTIFICATE (R439): a portion of the chain. -/
def execGetCertificate (fn offset len : Nat) (s : State) : Host.Outcome State Fault Refusal :=
  spdm fn s fun d =>
    let c := Config.certificateChain
    let part := (c.drop offset).take len
    d.when (d.algs && decide (offset < c.length)) (.certificate part (c.length - offset - part.length))

/-- The bytes of a nonce. -/
def nonceBytes (n : BitVec 256) : List Byte := leBytes 32 n.toNat

/-- CHALLENGE (R439): signed with the identity key. -/
def execChallenge (fn : Nat) (nonce : BitVec 256) (s : State) : Host.Outcome State Fault Refusal :=
  spdm fn s fun d =>
    d.when d.algs (.challengeAuth certDigest nonce (Config.identitySign (nonceBytes nonce ++ digestBytes certDigest)))

/-- The bytes of a partition record that measurement 3 covers (R372, R382, R449): KEY excluded, the DBGEN bit included. -/
def State.recordBytes (s : State) (n : Nat) (p : Partition) : List Byte :=
  leBytes 1 n ++ leBytes 1 p.hx0 ++ leBytes 1 p.hy0 ++ leBytes 1 p.hw ++ leBytes 1 p.hh ++ leBytes 2 p.ttag
    ++ leBytes 64 p.peermap.toNat ++ leBytes 8 p.ringBase.toNat ++ leBytes 8 p.dBase.toNat
    ++ leBytes 1 (if s.board.dbgEn.getLsbD n then 1 else 0)

/-- A measurement by index (R382); none where there is none. -/
def State.measurement? (s : State) (index : Nat) : Option (BitVec 512) :=
  match index with
  | 1 => some s.board.meas1
  | 2 => some s.board.meas2
  | 3 => some (Config.sha512 ((s.parts.map fun x => s.recordBytes x.1 x.2).flatten))
  | n => if 16 ≤ n ∧ n < 80 then (s.part? (n - 16)).map (·.measurement) else none

/-- Whether a function may request an index (R382, R439). -/
def mayMeasure (fn index : Nat) : Bool :=
  match fn with
  | 0 => true
  | n + 1 => (decide (1 ≤ index) && decide (index ≤ 3)) || index == 16 + n

/-- GET_MEASUREMENTS (R439): signed; an index that the function may not request returns ERROR. -/
def execGetMeasurements (fn index : Nat) (nonce : BitVec 256) (s : State) : Host.Outcome State Fault Refusal :=
  spdm fn s fun d =>
    match if mayMeasure fn index then s.measurement? index else none with
    | some m =>
      d.when d.algs (.measurements [(index, m)] nonce
        (Config.identitySign (nonceBytes nonce ++ leBytes 1 index ++ digestBytes m)))
    | none => d.when false .error

end Sys2Proof.Machine
end

