-- ==== Sys2Proof/Machine/Contexts.lean ====
section
/-! DEFINITION. Whole partitions: HALT, SAVE, RESTORE and RESUME, and the context image (R416 to R419). -/
namespace Sys2Proof.Machine

/-! ## HALT and RESUME -/

/-- The cores of a partition that are not in their reset state. -/
def State.coresOf (s : State) (pnum : Nat) : List Nat :=
  (s.cores.map (·.1)).filter fun i => match s.partOf? i with
    | some (n, _) => n == pnum
    | none => false

/-- Whether HALT waits for a core's save (R417): it has a thread, is not saved, and a monitor event did not stop it
(log 45). -/
def State.unsaved (s : State) (i : Nat) : Bool :=
  let c := s.core i
  (c.thread == .running || c.thread == .loaded) && !c.preempted && !c.monitored

/-- Whether a HALT has completed (R417): every core has saved, everything that a core or its hall's scheduler has sent has
ended, of cores that exited or a monitor event stopped too (R420), and no page request of the partition is
outstanding. -/
def State.haltEnds (s : State) (pnum : Nat) : Bool :=
  (s.coresOf pnum).all (fun i => !s.unsaved i && s.quiesced i && !s.mesh.any fun m => m.1 == i)
    && s.flight.all (fun a => s.partOfSource a.core != pnum || a.acked)
    && s.ifaces.all fun f => !f.2.requests.any fun r => r.part == pnum

/-- The hold of a HALT begins, and a request goes to every core that has a thread (R403, R417). -/
def State.haltBegins (s : State) (pnum : Nat) (p : Partition) : State :=
  let t := s.setPart pnum { p with hold := true, halting := true }
  { t with mesh := t.mesh ++ ((t.coresOf pnum).filter t.unsaved).map fun i => (i, true) }

/-- HALT (R417): it posts HALTED when it completes (R437). -/
def execHalt (e : CmdEntry) (s : State) : Host.Outcome State Fault Refusal :=
  managed 0x0A 0 e s fun _ =>
    onPartition s e fun p =>
      if p.hold ∧ !p.halting then .ok 0 s
      else if !p.hold then .later (s.haltBegins (cmdPart e) p)
      else if s.haltEnds (cmdPart e) then
        .ok 0 ((s.setPart (cmdPart e) { p with halting := false }).post 4 (cmdPart e) [])
      else .later s

/-- RESUME (R417): the hold ends, and every saved core resumes, its spill queue applied (R409). -/
def execResume (e : CmdEntry) (s : State) : Host.Outcome State Fault Refusal :=
  managed 0x0D 0 e s fun _ =>
    onPartition s e fun p =>
      if !p.hold then .refuse .state 0
      else
        let t := s.setPart (cmdPart e) { p with hold := false, halting := false, imaged := false }
        .ok 0 (t.resumeAll ((t.coresOf (cmdPart e)).filter fun i => (t.core i).preempted))

/-! ## The image (R416) -/

/-- The physical core at virtual coordinates of a partition. -/
def Partition.coreAt (p : Partition) (x y : Nat) : Nat := (y + 64 * p.hy0) * 1024 + x + 64 * p.hx0

/-- The cores of a partition, row-major in virtual coordinates. -/
def Partition.allCores (p : Partition) : List Nat :=
  ((List.range (64 * p.hh)).map fun y => (List.range (64 * p.hw)).map fun x => p.coreAt x y).flatten

/-- The clusters of a partition, row-major. -/
def Partition.allClusters (p : Partition) : List Nat :=
  ((List.range (16 * p.hh)).map fun y => (List.range (16 * p.hw)).map fun x => clusterOf (p.coreAt (4 * x) (4 * y))).flatten

/-- An endpoint whose peer lies in another package, or is the host, is saved closed with CAUSE RESET (R419): its next
receive returns the close word. -/
def Endpoint.cutOff (e : Endpoint) (slot : List Byte) (own : Nat) : Endpoint :=
  if e.binding = .user ∧ e.mode ≠ .unbound ∧ (e.peerPkg ≠ own ∨ nodeKind e.peer = 3) then
    { e with mode := .closedAt, arrived := [], closeNote := some (e.rseq, closeWord slot e stReset false) }
  else e

/-- A core as SAVE writes it. -/
def State.savedCore (s : State) (i : Nat) : Core :=
  let c := s.core i
  { c with eps := Vector.ofFn fun (k : Fin 20) => c.eps[k].cutOff (s.slot i c.eps[k].slot) s.board.peer, wait := none }

/-- The offset of a page's bytes in a member's slice, as scratchpad offsets (R126). -/
def slicePage (m page : Nat) : List Nat :=
  (List.range 4096).map fun k =>
    let o := page * 4096 + k
    o / 128 * 2048 + m * 128 + o % 128

/-- The bytes of a core's record in an image: of the TCM, every page, or those whose dirty bit is set (R417). -/
def State.imageRecord (s : State) (i : Nat) (delta : Bool) : List Byte :=
  let r := (s.setCore i (s.savedCore i)).coreRecord i (s.core i).pc
  if delta then
    r.take 0x5000 ++ ((List.range 32).map fun k =>
      if (s.core i).dirty.getLsbD k then (r.drop (0x5000 + 4096 * k)).take 4096 else []).flatten
  else r

/-- The bytes of a cluster in an image (R416, R417). -/
def State.imageCluster (s : State) (k : Nat) (delta : Bool) : List Byte :=
  if delta then
    ((List.range 16).map fun m => ((List.range 64).map fun page =>
      if (s.core (memberCore k m)).dirty.getLsbD (32 + page) then
        (slicePage m page).map fun o => readByte s.mem (scratchKey k o)
      else []).flatten).flatten
  else readBytes s.mem (scratchKey k 0) Config.scratchBytes

/-- A core's spill queue in an image, with its header (R408, R416). -/
def Core.imageSpill (c : Core) : List Byte :=
  spillHeader c.spillTail ++ padTo 0x10000 ((c.spill.map Spilled.toBytes).flatten)

/-- The bytes of a section whose layout the spec leaves open, as free values: their number too (log 44). -/
def openSection (n kind : Nat) : List Byte :=
  (List.range (Config.freeBits n (100 + kind) 32).toNat).map fun j => Config.freeBits n (2 ^ 32 * kind + j) 8

/-- The sections of an image: KIND, COUNT and bytes. -/
def State.imageSections (s : State) (p : Partition) (delta : Bool) : List (Nat × Nat × List Byte) :=
  let cores := p.allCores
  let free (k : Nat) : Nat × Nat × List Byte := (k, (Config.freeBits s.free (120 + k) 32).toNat, openSection s.free k)
  [free 1, (2, cores.length, (cores.map fun i => s.imageRecord i delta).flatten),
   (3, cores.length, (cores.map fun i => (s.core i).imageSpill).flatten),
   (4, p.allClusters.length, (p.allClusters.map fun k => s.imageCluster k delta).flatten),
   free 5, free 6, free 7, (8, cores.length, (cores.map fun i => leBytes 16 (s.core i).dirty.toNat).flatten)]

/-- The section directory from a first offset (R416). -/
def directoryOf (off : Nat) : List (Nat × Nat × List Byte) → List Byte
  | [] => []
  | (kind, count, bs) :: r =>
    leBytes 2 kind ++ leBytes 2 0 ++ leBytes 4 count ++ leBytes 8 off ++ leBytes 8 bs.length ++ leBytes 8 0
      ++ directoryOf (off + bs.length) r

/-- The header of an image with a CRC (R416). -/
def State.imageHeader (s : State) (p : Partition) (delta : Bool) (size crc : Nat) : List Byte :=
  padTo 256 (leBytes 4 0x47494356 ++ leBytes 2 1 ++ leBytes 2 1 ++ leBytes 1 p.hw ++ leBytes 1 p.hh
    ++ leBytes 2 (if delta then 1 else 0) ++ leBytes 2 s.board.peer ++ leBytes 2 p.ttag ++ leBytes 1 p.hx0
    ++ leBytes 1 p.hy0 ++ leBytes 2 8 ++ leBytes 4 crc ++ leBytes 8 size)

/-- The context image of a partition (R416). -/
def State.imageOf (s : State) (p : Partition) (delta : Bool) : List Byte :=
  let secs := s.imageSections p delta
  let rest := directoryOf (256 + 32 * 8) secs ++ (secs.map fun x => x.2.2).flatten
  let size := 256 + rest.length
  let crc := (crc32 (s.imageHeader p delta size 0 ++ rest)).toNat
  s.imageHeader p delta size crc ++ rest

/-- Whether a storage key belongs to a core or a cluster of a partition. -/
def Partition.ownsKey (p : Partition) (k : Nat) : Bool :=
  let kind := k / 2 ^ 64 / 2 ^ 24
  let n := k / 2 ^ 64 % 2 ^ 24
  let inside (x y : Nat) : Bool :=
    decide (64 * p.hx0 ≤ x) && decide (x < 64 * (p.hx0 + p.hw)) && decide (64 * p.hy0 ≤ y)
      && decide (y < 64 * (p.hy0 + p.hh))
  match kind with
  | 0 => inside (coreX n) (coreY n)
  | 1 => inside (4 * (n % 256)) (4 * (n / 256))
  | _ => false

/-- Whether a packet is addressed to a core, a matrix unit or a hall of a partition, or to one of its trees. -/
def State.packetOf (s : State) (pnum : Nat) (p : Partition) (x : Packet) : Bool :=
  match x.body with
  | .contribution k _ _ _ _ _ _ _ => k.part == pnum
  | _ =>
    let n := nodeIdx x.dst
    match nodeKind x.dst with
    | 0 | 5 => match s.partOf? n with
      | some (q, _) => q == pnum
      | none => false
    | 1 => decide (p.hx0 ≤ n % 16) && decide (n % 16 < p.hx0 + p.hw) && decide (p.hy0 ≤ n / 16)
        && decide (n / 16 < p.hy0 + p.hh)
    | _ => s.peers.any fun q => q.chan == x.chan && q.part == pnum

/-- What a context image holds of a partition beside bytes with a stated layout. -/
def State.snapshot (s : State) (pnum : Nat) (p : Partition) : Snapshot :=
  let mine := s.coresOf pnum
  { hx0 := p.hx0, hy0 := p.hy0, part := p
    cores := mine.map fun i => (i, s.savedCore i)
    stairs := s.stairs.filter fun x => mine.contains x.head
    net := s.net.filter (s.packetOf pnum p)
    nodes := s.nodes.filter fun d => d.key.part == pnum
    finals := s.finals.filter fun d => d.key.part == pnum
    peers := s.peers.filter fun q => q.part == pnum
    poison := s.poison.filter fun k => p.ownsKey (k * 8)
    objects := s.objects.filter fun o => p.ownsKey o.1 }

/-- The bytes of an image's sections that stand for a snapshot: 1, 3, 5, 6 and 7. -/
def openBytes (secs : List (Nat × Nat × List Byte)) : List Byte :=
  ((secs.filter fun x => x.1 == 1 || x.1 == 3 || x.1 == 5 || x.1 == 6 || x.1 == 7).map fun x => x.2.2).flatten

/-- Dirty masks cleared for a partition (R417). -/
def State.clearMasks (s : State) (pnum : Nat) : State :=
  (s.coresOf pnum).foldl (fun (t : State) i => t.onCore i fun c => { c with dirty := 0 }) s

/-- SAVE (R417): the image is written to host memory. -/
def execSave (e : CmdEntry) (s : State) : Host.Outcome State Fault Refusal :=
  managed 0x0B 2 e s fun _ =>
    if bits (cmdWord e 2) 1 63 ≠ 0 then .refuse .badCommand 0
    else onPartition s e fun p =>
      if !p.hold ∨ p.halting then .refuse .state 0
      else
        let delta := bits (cmdWord e 2) 0 1 == 1
        let a := (cmdWord e 1).toNat
        let img := s.imageOf p delta
        if 2 ^ 52 < a + img.length then .refuse .transfer 0
        else
          let t := storeBytes s (hostKey a) img
          let key := openBytes (s.imageSections p delta)
          .ok img.length ({ t with images := (key, s.snapshot (cmdPart e) p) :: t.images }.clearMasks (cmdPart e))

/-! ## RESTORE -/

/-- A section of an image by KIND: COUNT and bytes; nothing where the directory names none. -/
def sectionBytes (f : List Byte) (kind : Nat) : Nat × List Byte :=
  match (List.range (fieldAt f 18 2)).find? fun n => fieldAt f (256 + 32 * n) 2 == kind with
  | some n =>
    let d := 256 + 32 * n
    (fieldAt f (d + 4) 4, (f.drop (fieldAt f (d + 8) 8)).take (fieldAt f (d + 16) 8))
  | none => (0, [])

/-- Whether an image is a delta. -/
def isDelta (f : List Byte) : Bool := fieldAt f 10 2 % 2 == 1

/-- The dirty mask of core n of an image (KIND 8). -/
def maskIn (f : List Byte) (n : Nat) : BitVec 96 := BitVec.ofNat 96 (fieldAt (sectionBytes f 8).2 (16 * n) 16)

/-- Pages of a mask among the first n of it. -/
def pagesIn (d : BitVec 96) (lo n : Nat) : Nat := ((List.range n).filter fun k => d.getLsbD (lo + k)).length

/-- The record of core n in an image, and whether each TCM page of it is there. -/
def recordIn (f : List Byte) (n : Nat) : List Byte :=
  let b := (sectionBytes f 2).2
  if isDelta f then
    let at' := ((List.range n).map fun k => 0x5000 + 4096 * pagesIn (maskIn f k) 0 32).sum
    (b.drop at').take (0x5000 + 4096 * pagesIn (maskIn f n) 0 32)
  else (b.drop (0x25000 * n)).take 0x25000

/-- The bytes of a core's spill queue with its header in an image (R408). -/
def spillIn (f : List Byte) (n : Nat) : List Byte := ((sectionBytes f 3).2.drop (0x10040 * n)).take 0x10040

/-- Whether reserved bits of a core record are not zero (R410): the header's words 1 to 7, and the two reserved ranges. -/
def recordBroken (r : List Byte) : Bool :=
  let w := word (fieldAt r 8 8)
  bits w 10 6 != 0 || bits w 26 6 != 0 || bits w 37 3 != 0 || bits w 47 17 != 0
    || ((r.drop 0x10).take 0x30).any (· != 0) || ((r.drop 0x1990).take 0x670).any (· != 0)
    || ((r.drop 0x2280).take 0xD80).any (· != 0)

/-- Whether MAGIC, the CRC or a reserved field is wrong (R418, code 1): of the header, the directory, the core records and
the spill-queue headers. -/
def imageBroken (f : List Byte) : Bool :=
  fieldAt f 0 4 != 0x47494356 || (crc32 (f.mapIdx fun n b => if 20 ≤ n ∧ n < 24 then 0 else b)).toNat != fieldAt f 20 4
    || decide (1 < fieldAt f 10 2) || (f.drop 32).take 224 != List.replicate 224 0
    || ((List.range (fieldAt f 18 2)).any fun n =>
      fieldAt f (256 + 32 * n + 2) 2 != 0 || fieldAt f (256 + 32 * n + 24) 8 != 0)
    || ((List.range (sectionBytes f 2).1).any fun n => recordBroken (recordIn f n))
    || ((List.range (sectionBytes f 3).1).any fun n => ((spillIn f n).drop 8).take 56 |>.any (· != 0))

/-- Whether a stair of tread 1 would cross a die boundary at a partition (R418, code 5), from the saved kstair. -/
def stairCrosses (p : Partition) (r : List Byte) : Bool :=
  let k := word (fieldAt r (0x680 + 8 * 0x0A) 8)
  let x := fieldAt r 8 2 % 1024 + 64 * p.hx0
  bits k 28 1 == 1 && bits k 12 2 == 0
    && (x - bits k 16 10) / 512 != (x - bits k 16 10 + bits k 0 11 - 1) / 512

/-- The refusal of an image at a partition (R418): the lowest code that applies. -/
def refusalCode (p : Partition) (f : List Byte) : Option Nat :=
  if imageBroken f then some 1
  else if fieldAt f 6 2 ≠ 1 then some 2
  else if 1 < fieldAt f 4 2 then some 3
  else if fieldAt f 8 1 ≠ p.hw ∨ fieldAt f 9 1 ≠ p.hh then some 4
  else if (List.range (sectionBytes f 2).1).any fun n => stairCrosses p (recordIn f n) then some 5
  else if !p.hold ∨ p.halting ∨ (!p.groups.isEmpty ∧ !(p.imaged ∧ isDelta f)) then some 6
  else if isDelta f ∧ !p.imaged then some 7
  else none

/-- How a restored partition's physical numbers change: hall origins of source and target, and the offset that makes
the model's own numbers fresh. -/
structure Shift where
  sx : Nat
  sy : Nat
  tx : Nat
  ty : Nat
  base : Nat
  part : Nat
  /-- the source's peer number, and the target's own (R419) -/
  home : Nat
  own : Nat
  /-- the target's tenant tag -/
  ttag : Nat

/-- A package number of an endpoint: the source's own package is the target's (R419). -/
def Shift.pkg (m : Shift) (p : Nat) : Nat := if p = m.home then m.own else p

/-- A physical core. -/
def Shift.core (m : Shift) (i : Nat) : Nat :=
  (coreY i + 64 * m.ty - 64 * m.sy) * 1024 + (coreX i + 64 * m.tx - 64 * m.sx)

/-- A physical hall. -/
def Shift.hall (m : Shift) (h : Nat) : Nat := (h / 16 + m.ty - m.sy) * 16 + (h % 16 + m.tx - m.sx)

/-- A destination number: a node by physical index, or one beyond this package, which stays. -/
def Shift.node (m : Shift) (n : Nat) : Nat :=
  match n / 2 ^ 20 with
  | 0 => m.core n
  | 1 => hallNode (m.hall (nodeIdx n))
  | 5 => 5 * 2 ^ 20 + m.core (nodeIdx n)
  | _ => n

/-- One of the model's own numbers. -/
def Shift.no (m : Shift) (n : Nat) : Nat := if n = 0 then 0 else n + m.base

/-- A storage key of a core or a cluster. -/
def Shift.key (m : Shift) (k : Nat) : Nat :=
  let n := k / 2 ^ 64 % 2 ^ 24
  let off := k % 2 ^ 64
  match k / 2 ^ 64 / 2 ^ 24 with
  | 0 => tcmKey (m.core n) off
  | _ => scratchKey ((n / 256 + 16 * m.ty - 16 * m.sy) * 256 + (n % 256 + 16 * m.tx - 16 * m.sx)) off

/-- A delegation. -/
def Shift.deleg (m : Shift) (d : Delegation) : Delegation :=
  { d with chan := m.no d.chan, holder := m.node d.holder, peerPkg := m.pkg d.peerPkg }

/-- An arrived message. -/
def Shift.arrived (m : Shift) (a : Arrived) : Arrived := { a with deleg := a.deleg.map m.deleg }

/-- A connection request. -/
def Shift.req (m : Shift) (r : ConnReq) : ConnReq := { r with core := m.node r.core, chan := m.no r.chan, part := m.part }

/-- A tree's key. -/
def Shift.tree (m : Shift) (k : TreeKey) : TreeKey := { k with part := m.part }

/-- A message's body. -/
def Shift.body (m : Shift) (b : Body) : Body :=
  match b with
  | .msg n mt bs x d => .msg n mt bs x (d.map m.deleg)
  | .request r => .request (m.req r)
  | .adopted c e => .adopted (m.node c) e
  | .redirect c e => .redirect (m.node c) e
  | .contribution k l i n p t v _ => .contribution (m.tree k) l i n p t v []
  | b => b

/-- A message in the network. -/
def Shift.packet (m : Shift) (x : Packet) : Packet :=
  { x with
    id := m.no x.id
    dst := m.node x.dst
    origin := m.node x.origin
    ttag := m.ttag
    chan := match x.body with
      | .contribution _ _ _ _ _ _ _ _ => m.core x.chan
      | _ => m.no x.chan
    body := m.body x.body }

/-- An endpoint. -/
def Shift.ep (m : Shift) (e : Endpoint) : Endpoint :=
  { e with chan := m.no e.chan, peerPkg := m.pkg e.peerPkg, arrived := e.arrived.map m.arrived, requests := e.requests.map m.req }

/-- A kept buffer. -/
def Shift.kept (m : Shift) (k : KeptBuffer) : KeptBuffer :=
  { k with
    chan := m.no k.chan
    desc := k.desc.map m.ep
    newHolder := k.newHolder.map fun x => (m.node x.1, x.2)
    msgs := k.msgs.map fun x => (m.arrived x.1, x.2)
    moved := k.moved.map fun x => (m.node x.1, x.2)
    pending := k.pending.map m.req }

/-- A core. -/
def Shift.theCore (m : Shift) (c : Core) : Core :=
  { c with
    eps := c.eps.map m.ep
    kept := c.kept.map m.kept
    spill := c.spill.map fun x => match x with
      | .packet p => .packet (m.packet p)
      | x => x
    queueIds := []
    returning := none
    place := c.place.map fun p => { p with stair := m.no p.stair }
    claimed := c.claimed.map m.core
    icache := []
    part := c.part.map fun _ => m.part
    restored := c.preempted }

/-- A launch. -/
def Shift.launch (m : Shift) (l : Launch) : Launch := { l with launcher := l.launcher.map m.core, after := [] }

/-- A stair. -/
def Shift.stair (m : Shift) (x : Stair) : Stair :=
  { x with id := m.no x.id, head := m.core x.head, waiting := x.waiting.map m.core }

/-- The far side of a channel. -/
def Shift.peer (m : Shift) (q : PeerSide) : PeerSide :=
  { q with chan := m.no q.chan, node := m.node q.node, part := m.part, core := m.node q.core, behind := [], took := [] }

/-- A partition that takes over what an image holds (R416, R419): its own record, halls, roots, images and budgets
stay. -/
def Partition.takes (p q : Partition) (m : Shift) (home : Nat) : Partition :=
  { p with
    home := some home, imaged := true, ran := q.ran, away := []
    pending := q.pending.map m.launch, running := q.running.map m.launch, nextLaunch := q.nextLaunch, postings := q.postings
    served := q.served, groups := q.groups, nextGroup := q.nextGroup, notices := q.notices
    heldNotices := q.heldNotices, rootRunning := q.rootRunning }

/-- What a partition held from an image before is dropped. -/
def State.unload (s : State) (pnum : Nat) (p : Partition) : State :=
  let mine := s.coresOf pnum
  { s with
    cores := s.cores.filter fun c => !mine.contains c.1
    stairs := s.stairs.filter fun x => !mine.contains x.head
    unsettled := s.unsettled.filter fun x => !mine.contains x.core
    net := s.net.filter fun x => !s.packetOf pnum p x
    nodes := s.nodes.filter fun d => d.key.part != pnum
    finals := s.finals.filter fun d => d.key.part != pnum
    peers := s.peers.filter fun q => q.part != pnum
    objects := s.objects.filter fun o => !p.ownsKey o.1 }

/-- The TCM pages of a record of an image written into core i. -/
def State.loadTcmPages (s : State) (i : Nat) (d : BitVec 96) (delta : Bool) (b : List Byte) : State :=
  if delta then
    (((List.range 32).filter fun k => d.getLsbD k).zipIdx).foldl (fun (t : State) x =>
      storeBytes t (tcmKey i (4096 * x.1)) ((b.drop (4096 * x.2)).take 4096)) s
  else storeBytes s (tcmKey i 0) (b.take 0x20000)

/-- Core n of an image loaded at core i (R410): its record's parts, its TCM and its dirty mask. -/
def State.loadImageCore (s : State) (f : List Byte) (n i : Nat) : State :=
  let b := recordIn f n
  let d := maskIn f n
  let t := (recParts.filter fun p => p.off != 0x5000).foldl (fun (t : State) p =>
    t.loadPart i p.off ((b.drop p.off).take p.len) (fun _ => 0) 0) s
  let t := t.loadTcmPages i d (isDelta f) (b.drop 0x5000)
  (t.onCore i fun c =>
    { c with
      pc := word (fieldAt b 0 8), pendCsum := BitVec.ofNat 5 (fieldAt b 8 8 / 2 ^ 32), dirty := d
      acc := Vector.ofFn fun (k : Fin 256) => { c.acc[k] with soft := (s.core i).acc[k].soft, bad := (s.core i).acc[k].bad } }).rebuildStack i

/-- The pages of the slices of a cluster of an image, in the order in which a delta holds them. -/
def deltaPages (f : List Byte) (p : Partition) (k : Nat) : List (Nat × Nat) :=
  ((List.range 16).map fun m =>
    let i := memberCore k m
    let n := (coreY i - 64 * p.hy0) * (64 * p.hw) + (coreX i - 64 * p.hx0)
    ((List.range 64).filter fun page => (maskIn f n).getLsbD (32 + page)).map fun page => (m, page)).flatten

/-- The clusters of an image loaded. -/
def State.loadImageClusters (s : State) (f : List Byte) (p : Partition) : State :=
  let b := (sectionBytes f 4).2
  if isDelta f then
    (p.allClusters.foldl (fun (x : State × Nat) k =>
      (deltaPages f p k).foldl (fun (x : State × Nat) pg =>
        (storeEach x.1 ((slicePage pg.1 pg.2).mapIdx fun j o =>
          (scratchKey k o, BitVec.ofNat 8 (fieldAt b (x.2 + j) 1))), x.2 + 4096)) x) (s, 0)).1
  else
    p.allClusters.zipIdx.foldl (fun (t : State) x =>
      storeBytes t (scratchKey x.1 0) ((b.drop (Config.scratchBytes * x.2)).take Config.scratchBytes)) s

/-- Numbers in rising order. -/
def sortNats (l : List Nat) : List Nat := l.foldl insertNat []

/-- What an image's open bytes stand for: what SAVE kept for them, and otherwise a free value (log 44). -/
def State.snapshotOf (s : State) (key : List Byte) : Snapshot :=
  match s.images.find? fun x => x.1 == key with
  | some x => x.2
  | none => foreignSnapshot key

/-- A snapshot's units put in their places, with the model's own numbers made fresh. -/
def State.placeSnapshot (s : State) (sn : Snapshot) (m : Shift) : State :=
  { s with
    fresh := 2 * s.fresh
    cores := sn.cores.foldl (fun (l : List (Nat × Core)) x => tset l (m.core x.1) (m.theCore x.2)) s.cores
    stairs := s.stairs ++ sn.stairs.map m.stair
    net := s.net ++ sn.net.map m.packet
    nodes := s.nodes ++ sn.nodes.map fun d => { d with id := m.no d.id, key := m.tree d.key }
    finals := s.finals ++ sn.finals.map fun d => { d with key := m.tree d.key }
    peers := s.peers ++ sn.peers.map m.peer
    objects := s.objects ++ sn.objects.map fun o => (m.key o.1, o.2) }

/-- The entry of a spill queue that its bytes hold (R408), at core i. -/
def State.entryAt (s : State) (i : Nat) (b : List Byte) : Spilled :=
  let ep := fieldAt b 0 8 / 2 ^ 55 % 32
  let src := fieldAt b 2 3
  let data := fieldAt b 8 6
  let bs := (b.drop 16).take (fieldAt b 14 2)
  let packet (x : Body) : Spilled :=
    .packet { id := 0, dst := i, ep := ep, chan := ((s.core i).eps[ep]!).chan, src := src, origin := (s.physNode? i src).getD src, ttag := s.tagOf (s.pnum i)
              body := x }
  match fieldAt b 7 1 / 16 with
  | 1 => packet (.msg (fieldAt b 0 2) (data % 16) bs false none)
  | 3 => packet (.word (word (leNat bs)))
  | 4 => .arrival (word (2 ^ 63 + data)) (leNat bs) src (src == s.nodeOf i)
  | _ => foreignSpilled b

/-- The entries of a spill queue from its bytes, with fuel for their number (R408). -/
def State.entriesOf (s : State) (i : Nat) (b : List Byte) : Nat → List Spilled
  | 0 => []
  | n + 1 =>
    if b.length < 16 then []
    else
      let size := 16 + (fieldAt b 14 2 + 15) / 16 * 16
      s.entryAt i (b.take size) :: s.entriesOf i (b.drop size) n

/-- The spill queue of core n of an image, from HEAD to TAIL (R408), decoded at core i. -/
def State.loadSpill (s : State) (f : List Byte) (n i : Nat) : State :=
  let b := spillIn f n
  let hd := fieldAt b 0 4
  let tl := fieldAt b 4 4
  s.onCore i fun c => { c with spill := s.entriesOf i (((b.drop 64).take tl).drop hd) 0x1000 }

/-- An image loaded into a partition (R417, R419). The spill queues of an image that was written elsewhere are those of
its section 3. -/
def State.loadImage (s : State) (pnum : Nat) (p : Partition) (f : List Byte) : State :=
  let key := openBytes ([1, 3, 5, 6, 7].map fun k => (k, (sectionBytes f k).1, (sectionBytes f k).2))
  let sn := s.snapshotOf key
  let m : Shift :=
    { sx := sn.hx0, sy := sn.hy0, tx := p.hx0, ty := p.hy0, base := s.fresh, part := pnum, home := fieldAt f 12 2,
      own := s.board.peer, ttag := p.ttag }
  let t := ((s.unload pnum p).placeSnapshot sn m).setPart pnum (p.takes sn.part m (fieldAt f 12 2))
  let t := p.allCores.zipIdx.foldl (fun (t : State) x => t.loadImageCore f x.2 x.1) t
  let t := if s.images.any fun x => x.1 == key then t
    else p.allCores.zipIdx.foldl (fun (t : State) x => t.loadSpill f x.2 x.1) t
  let t := t.loadImageClusters f p
  { t with poison := sortNats (t.poison ++ sn.poison.map fun k => m.key (k * 8) / 8) }

/-- RESTORE (R417, R418): VALUE is the refusal code, or 0. -/
def execRestore (e : CmdEntry) (s : State) : Host.Outcome State Fault Refusal :=
  managed 0x0C 1 e s fun _ =>
    onPartition s e fun p =>
      let a := (cmdWord e 1).toNat
      match s.hostBytes a 256 with
      | none => .refuse .transfer 0
      | some h =>
        match s.hostBytes a (max 256 (fieldAt h 24 8)) with
        | none => .refuse .transfer 0
        | some f =>
          match refusalCode p f with
          | some c => .refuse .image c
          | none => .ok 0 (s.loadImage (cmdPart e) p f)

end Sys2Proof.Machine
end

