-- ==== Sys2Proof/Machine/Links.lean ====
section
/-! DEFINITION. Kalfa ports: receiving flits and what they carry, replays and retraining (R129, R358, R374, R380, R381,
R440, R441). -/
namespace Sys2Proof.Machine

/-! ## What another package has sent (R129, R358, R374; log 15) -/

/-- The node of this package, by physical index, that a node identifier names in a partition (R19). -/
def Partition.physical? (p : Partition) (node : Nat) : Option Nat :=
  let x := nodeIdx node % 1024
  let y := nodeIdx node / 1024
  match nodeKind node with
  | 0 | 5 =>
    if x < 64 * p.hw ∧ y < 64 * p.hh then some (nodeKind node * 2 ^ 20 + (64 * p.hy0 + y) * 1024 + 64 * p.hx0 + x) else none
  | 1 =>
    let h := nodeIdx node
    if h < 160 ∧ h % 16 < p.hw ∧ h / 16 < p.hh then some (hallNode ((p.hy0 + h / 16) * 16 + p.hx0 + h % 16)) else none
  | 2 => if nodeIdx node < 8 then some node else none
  | 3 => if nodeIdx node = 0 then some node else none
  | _ => none

/-- The destination number of a node of a package. -/
def State.nearNode (s : State) (p : Partition) (pkg node : Nat) : Nat :=
  if pkg = s.board.peer then (p.physical? node).getD (beyond 512 node) else beyond pkg node

/-- An endpoint that a message from another package carries (R149). -/
def State.nearDeleg (s : State) (p : Partition) (d : FarDeleg) : Delegation :=
  { desc := d.desc, chan := s.nearChan d.chan, peerPkg := d.peerPkg, enc := d.enc, holder := s.nearNode p d.pkg d.node
    holderEp := d.ep }

/-- What a message from a node of another package says here. -/
def State.nearBody (s : State) (pnum : Nat) (p : Partition) (x : Transfer) (chan : Nat) : FarBody → Body
  | .msg seq mt bs poison d => .msg seq mt bs poison (d.map (s.nearDeleg p))
  | .credit => .credit
  | .close f w => .close f w
  | .unadopted cause failed => .unadopted cause failed
  | .hold => .hold
  | .release => .release
  | .request ep slot enc =>
    .request { node := x.node, core := beyond x.pkg x.node, ep := ep, slot := slot, chan := chan, enc := enc, part := pnum }
  | .answer st node ep => .answer st node ep
  | .confirm => .confirm
  | .withdraw => .withdraw
  | .adopted e => .adopted (beyond x.pkg x.node) e
  | .redirect pkg node e => .redirect (s.nearNode p pkg node) e
  | .redirected n => .redirected n

/-- An outcome goes back to the package that sent a transfer. -/
def State.replyTo (s : State) (x : Transfer) (status : Nat) : State :=
  s.leave x.pkg { x with pkg := s.board.peer, what := .reply status [] }

/-- A transfer that reaches nothing here (R129, R374): an access, a shoot-down and a connection request are told NO-PEER. -/
def State.refuseTransfer (s : State) (x : Transfer) : State :=
  match x.what with
  | .access _ _ | .shoot _ _ => s.replyTo x stNoPeer
  | .message node _ chan (.request ep _ _) =>
    s.leave x.pkg { x with pkg := s.board.peer, node := node, what := .message x.node ep chan (.answer stNoPeer node 0) }
  | .message _ _ _ _ | .reply _ _ => s

/-- An access of another package stands at the gateway that took it in. -/
def State.enterInbound (s : State) (port pnum : Nat) (x : Transfer) (a : Word) (q : FarReq) (node : Nat) : State :=
  { s with
    inbound := s.inbound ++ [{ id := s.fresh, port := port, part := pnum, pkg := x.pkg, src := x.node, cls := x.cls,
                               addr := a, req := q, node := node }]
    fresh := s.fresh + 1 }

/-- An access of another package comes in (R129, R202, R358, R379): to the interface of its address, or to a core. -/
def State.takeAccess (s : State) (port pnum : Nat) (p : Partition) (x : Transfer) (a : Word) (q : FarReq) : State :=
  match q with
  | .arrival _ _ =>
    if bits a 57 7 ≠ 0 ∨ bits a 24 24 ≠ 0 ∨ nodeKind (bits a 0 24) ≠ 0 then s.replyTo x stAddress
    else
      match p.physical? (bits a 0 24) with
      | some j => s.enterInbound port pnum x a q j
      | none => s.replyTo x stNoPeer
  | _ =>
    let a := match q with
      | .mcast _ _ => s.ownPeer a
      | _ => a
    match s.dest pnum a with
    | .here n _ _ => s.enterInbound port pnum x a q n
    | .malformed => s.replyTo x stAddress
    | .noPeer | .away _ => s.replyTo x stNoPeer

/-- A transfer comes in over a port (R374): it is for the partition with the sender's TTAG. What an outcome answers, the
acknowledging row says (log 15). -/
def State.takeTransfer (s : State) (port : Nat) (x : Transfer) : State :=
  match s.parts.find? fun p => p.2.ttag == x.ttag with
  | none => s.refuseTransfer x
  | some (pnum, p) =>
    match x.what with
    | .message node ep chan b =>
      match p.physical? node with
      | some dst =>
        s.send dst ep (s.nearChan chan) (beyond x.pkg x.node) x.cls (s.nearBody pnum p x (s.nearChan chan) b)
      | none => s.refuseTransfer x
    | .access a q => s.takeAccess port pnum p x a q
    | .shoot a w =>
      s.issueShoot { id := 0, part := pnum, stage := 1, page := shootPage a w, asker := some (x.pkg, x.node), words := (a, w) }
    | .reply _ _ => s

/-! ## Ports -/

/-- A port by number. -/
def State.port (s : State) (n : Nat) : Port := tget {} s.ports n

/-- The state with a port replaced. -/
def State.setPort (s : State) (n : Nat) (p : Port) : State := { s with ports := tset s.ports n p }

/-- Queued flits are sent while the retry buffer has room (R440). -/
def Port.refill (p : Port) : Nat → Port
  | 0 => p
  | fuel + 1 =>
    match p.queued with
    | [] => p
    | f :: r =>
      if p.retry.length < 512 ∧ p.works then { { p with queued := [] }.sends f with queued := r }.refill fuel else p

/-- Flits up to a sequence have been acknowledged (R440). -/
def Port.acked (p : Port) (seq : Nat) : Port :=
  match p.retry.findIdx? fun x => x.1.seq == seq with
  | some n => { p with retry := p.retry.drop (n + 1) }.refill p.queued.length
  | none => p

/-- A flit is replayed under the counter of its own slot (R381). -/
def Port.replay (p : Port) (x : Flit × Nat) : Port :=
  let retry : List (Flit × Nat) := p.retry.map fun y => if y.1.seq = x.1.seq then (y.1, y.2 + 1) else y
  { p with retry := retry, replays := p.replays ++ [p.txSlot], replayed := p.replayed + 1 }.transmit x.1

/-- Whether the retry limit is reached (R440). -/
def Port.atLimit (p : Port) : Bool :=
  p.retry.any (fun x => decide (8 ≤ x.2))
    || decide (64 ≤ (p.replays.filter fun n => decide (p.txSlot - n < 65536)).length)

/-- The transmitter replays from a sequence (R440). -/
def Port.nacked (p : Port) (seq : Nat) : Port :=
  match p.retry.findIdx? fun x => x.1.seq == seq with
  | none => p
  | some n =>
    let q := (p.retry.drop n).foldl Port.replay p
    let q := { q with replays := q.replays.filter fun n => decide (q.txSlot - n < 65536) }
    if q.atLimit then { q with limit := true } else q

/-- A flit without data that answers one received. -/
def Port.answers (p : Port) (kind : FlitKind) (seq : Nat) : Port :=
  p.transmit { kind := kind, seq := seq, payload := List.replicate 232 0 }

/-- The flit of a received slot, decrypted (R380, R381): none where it is corrupt, or its tag is not the one that the key
and the counter of the slot give. -/
def Port.opens (p : Port) (f : Flit) (intact : Bool) : Option Flit :=
  let nonce := linkNonce p.rxSalt p.rxSlot
  if intact && f.tag == linkTag p.rxKey nonce f then some { f with payload := linkCrypt p.rxKey nonce f.payload } else none

/-- A flit slot received (R381, R440): a corrupt flit, and data out of turn, are negatively acknowledged; data in turn is
delivered, with what it carries. Answers take a slot of the transmitter. -/
def Port.receives (p : Port) (f : Flit) (intact : Bool) : Port × Option Transfer :=
  let opened := p.opens f intact
  let p := { p with rxSlot := p.rxSlot + 1 }
  match opened with
  | none => (p.answers .nak p.rxSeq, none)
  | some f =>
    let p := { p with credits := f.credits }
    match f.kind with
    | .idle | .mgmt => (p, none)
    | .ack => (p.acked f.seq, none)
    | .nak => (p.nacked f.seq, none)
    | .data =>
      if f.seq = p.rxSeq then
        ({ p with rxSeq := (p.rxSeq + 1) % 4096, delivered := p.delivered ++ [f.payload] }.answers .ack f.seq, f.carries)
      else (p.answers .nak p.rxSeq, none)

/-- A management flit that acknowledges the group-table entry in progress: the switches behind its port hold it (R435;
log 119). -/
def State.groupAcked (s : State) (port : Nat) (f : Flit) : State :=
  match f.group with
  | some (n, bs) =>
    if tget? s.board.groups n = some bs then
      { s with board := { s.board with acksFrom := s.board.acksFrom.filter (· != port) } }
    else s
  | none => s

/-- FLIT_RECEIVE (R440). -/
def execFlitReceive (port : Nat) (flit : Flit) (intact : Bool) (s : State) : Host.Outcome State Fault Refusal :=
  .next (if port < 16 ∧ (s.port port).works then
      let (p, x) := (s.port port).receives flit intact
      let t := s.setPort port p
      let t := match flit.kind with
        | .mgmt => if ((s.port port).opens flit intact).isSome then t.groupAcked port flit else t
        | _ => t
      match x with
      | some x => t.takeTransfer port x
      | none => t
    else s)

/-- NEGATIVE_ACKNOWLEDGEMENT (R440). -/
def execNegativeAcknowledgement (port seq : Nat) (s : State) : Host.Outcome State Fault Refusal :=
  .next (if port < 16 ∧ (s.port port).works then
      s.setPort port ({ s.port port with rxSlot := (s.port port).rxSlot + 1 }.nacked seq)
    else s)

/-! ## Retraining (R441) -/

/-- Whether traffic to a package of a class crosses a port: class O takes one port, the others any of the mask. -/
def State.crosses (s : State) (port pkg : Nat) (cls : Cls) : Bool :=
  if cls = .o then s.portO? pkg == some port else (s.portsTo pkg).contains port

/-- The package of a destination beyond this one. -/
def pkgOf? (dst : Nat) : Option Nat := if dst < 2 ^ 24 then none else some (dst / 2 ^ 24 - 1)

/-- Whether a channel end of core i reaches its peer over a port. -/
def State.epCrosses (s : State) (port : Nat) (e : Endpoint) : Bool :=
  e.binding == .user && e.peerPkg != s.board.peer && s.crosses port e.peerPkg .o

/-- Whether an item of a command of core i goes over a port and was not performed. -/
def State.itemOver (s : State) (port i : Nat) (k : Cmd) (j : Nat) (p : ItemPhase) : Bool :=
  let goes (a : Word) : Bool := (pkgOf? (s.nodeFor (s.pnum i) a)).any fun q => s.crosses port q k.cls
  match s.moveOf k.op j, p with
  | some m, .pending | some m, .behind _ | some m, .waits none | some m, .away none =>
    (!m.srcLocal && goes m.src) || (!m.dstLocal && goes m.dst)
  | some m, .half _ | some m, .waits (some _) | some m, .away (some _) => !m.dstLocal && goes m.dst
  | _, _ => false

/-- Whether a partition has traffic on a port (R441): channels, messages, accesses or items over it. -/
def State.trafficOn (s : State) (port pnum : Nat) : Bool :=
  (s.cores.any fun c => s.pnum c.1 == pnum
      && (c.2.eps.toList.any (s.epCrosses port)
        || c.2.cmds.any fun k => !k.matrix && (k.items.zipIdx.any fun x => s.itemOver port c.1 k x.2 x.1)))
    || (s.flight.any fun a =>
      s.partOfSource a.core == pnum && (pkgOf? a.node).any fun q => s.crosses port q a.cls)
    || s.inbound.any fun x => x.port == port && x.part == pnum

/-- LINK-RETRAINED to every partition with traffic on a port (R346, R441). -/
def State.retrainedNotices (s : State) (port replayed : Nat) : State :=
  s.parts.foldl (fun (t : State) x =>
    if s.trafficOn port x.1 then t.notice x.1 2 (word port) (word replayed) 0 else t) s

/-- A port trained (R380, R381): new keys and salts, and counters that begin anew (log 14). -/
def Port.trained (p : Port) (port : Nat) : Port :=
  let n := p.keys + 1
  { p with
    keys := n
    txKey := Config.linkKey port n 0, rxKey := Config.linkKey port n 1
    txSalt := Config.linkSalt port n 0, rxSalt := Config.linkSalt port n 1
    txSlot := 0, rxSlot := 0, limit := false, failures := 0, replays := [], replayed := 0 }

/-- A port that has trained again (R381, R441): what was not acknowledged is replayed once more, and what waited follows. -/
def Port.retrained (p : Port) (port : Nat) : Port :=
  let again : List (Flit × Nat) := p.retry.map fun x => (x.1, 0)
  let q : Port := { p.trained port with retry := again }
  (again.foldl (fun (q : Port) x => q.transmit x.1) q).refill p.queued.length

/-- A channel end whose route has gone closes with CAUSE RESET (R441): what has arrived is delivered first. -/
def State.linkLost (s : State) (i e : Nat) : State :=
  let ep := (s.core i).ep e
  let w := closeWord (s.slot i ep.slot) ep stReset false
  (s.onEp i e fun ep =>
    { ep with mode := .closedAt, closeNote := some ((ep.rseq + ep.arrived.length) % 2 ^ 16, w) }).closedNotice i e ep.peer w

/-- An item of a command that goes over a port and was not performed fails with NO-PEER (R441). -/
def State.itemLost (s : State) (port i : Nat) (k : Cmd) : Cmd :=
  if k.matrix then k
  else { k with items := k.items.mapIdx fun j p => if s.itemOver port i k j p then .failed stNoPeer else p }

/-- A connection that waits for an answer over a port is told NO-PEER (R129, R441). -/
def State.connectLost (s : State) (i e : Nat) : State :=
  let x := (s.core i).ep e
  s.send i e x.chan (s.route i x) .o (.answer stNoPeer x.peer 0)

/-- A port goes down (R437, R441). -/
def State.portDown (s : State) (port : Nat) : State :=
  let ends := (s.cores.map fun c => ((List.range 20).filter fun e => s.epCrosses port (c.2.ep e)).map fun e => (c.1, e)).flatten
  let goes (dst : Nat) (cls : Cls) : Bool := (pkgOf? dst).any fun q => s.crosses port q cls
  let t := { s with
    flight := s.flight.map fun a =>
      if !a.done ∧ goes a.node a.cls then { a with phase := .performed stNoPeer [] } else a
    net := s.net.filter fun p => !goes p.dst p.cls
    cores := tmap s.cores fun i c => { c with cmds := c.cmds.map (s.itemLost port i) }
    board := { s.board with acksFrom := s.board.acksFrom.filter (· != port) } }
  let t := ends.foldl (fun (t : State) x =>
    if ((t.core x.1).ep x.2).mode = .connecting then t.connectLost x.1 x.2 else t.linkLost x.1 x.2) t
  (t.setPort port { t.port port with up := false, limit := false, queued := [] }).post 3 0 [word port]

/-- RETRAIN (R381, R441): at the retry limit, or before a counter reaches 2^62. An attempt succeeds or fails; the third failure in a row takes the port down. -/
def execRetrain (port : Nat) (trained : Bool) (s : State) : Host.Outcome State Fault Refusal :=
  let p := s.port port
  .next (if 16 ≤ port ∨ !p.up ∨ !p.due then s
    else if trained then
      (s.setPort port (p.retrained port)).retrainedNotices port (p.replayed + p.retry.length)
    else if p.failures + 1 < 3 then s.setPort port { p with failures := p.failures + 1 }
    else s.portDown port)

end Sys2Proof.Machine
end

