-- ==== Sys2Proof/Machine/Hostside.lean ====
section
/-! DEFINITION. The host's side: the event ring (R437), register writes (R434, R438, R442, R448), host accesses to device
memory (R431, R432), snoops (R433), bring-up and resets of the part (R447), and the boundary-scan port (R449). -/
namespace Sys2Proof.Machine

/-- EVENT_POST (R437): the oldest held event goes to the ring when it has space. -/
def execEventPost (s : State) : Host.Outcome State Fault Refusal :=
  .next (match s.board.events with
    | [] => s
    | ev :: rest =>
      if s.board.ev.enabled ∧ !s.board.ev.full then
        let (m, r) := s.board.ev.push s.mem (padTo 32 (wordBytes (ev.map BitVec.toNat)))
        { s with mem := m, board := { s.board with ev := r, events := rest } }
      else s)

/-! ## Register writes -/

/-- The registers of a ring that software writes. -/
inductive RingReg where
  | base | log | prod | cons
  deriving DecidableEq, Repr

/-- A ring with a register written (R434): a base is 4 KiB aligned, and a LOG outside 4–12 reads back 0. -/
def Ring.write (r : Ring) (k : RingReg) (v : Word) : Ring :=
  match k with
  | .base => { r with base := v &&& ~~~maskOf 11 0 }
  | .log =>
    let n := bits v 0 4
    { r with log := if 4 ≤ n ∧ n ≤ 12 then n else 0 }
  | .prod => { r with prod := BitVec.ofNat 32 v.toNat }
  | .cons => { r with cons := BitVec.ofNat 32 v.toNat }

/-- A command ring's registers, which the host produces into: base, LOG and the producer count, from an offset. -/
def inRingReg (off : Nat) : Option RingReg :=
  match off with
  | 0x00 => some .base
  | 0x08 => some .log
  | 0x0C => some .prod
  | _ => none

/-- The registers of a ring that the device produces into: base, LOG and the consumer count. -/
def outRingReg (off : Nat) : Option RingReg :=
  match off with
  | 0x00 => some .base
  | 0x08 => some .log
  | 0x10 => some .cons
  | _ => none

/-- The completion ring's, at 0x018 (R434): CCONS stands where the device's CPROD does not. -/
def cqReg (off : Nat) : Option RingReg :=
  match off with
  | 0x18 => some .base
  | 0x20 => some .log
  | 0x28 => some .cons
  | _ => none

/-- A block of page-request registers (R438): the request ring's registers, then the reply ring's. -/
def blockReg (off : Nat) : Option (Bool × RingReg) :=
  match off with
  | 0x00 => some (false, .base)
  | 0x08 => some (false, .log)
  | 0x10 => some (false, .cons)
  | 0x18 => some (true, .base)
  | 0x20 => some (true, .log)
  | 0x24 => some (true, .prod)
  | _ => none

/-- A write to a block of page-request registers of a stage. -/
def Board.writeBlock (b : Board) (stage n off : Nat) (v : Word) : Board :=
  match blockReg off with
  | none => b
  | some (reply, k) =>
    let upd (l : List (Nat × Ring)) := tset l n ((tget {} l n).write k v)
    match stage, reply with
    | 1, false => { b with rq1 := upd b.rq1 }
    | 1, true => { b with rp1 := upd b.rp1 }
    | _, false => { b with rq2 := upd b.rq2 }
    | _, true => { b with rp2 := upd b.rp2 }

/-- A write to a PF register (R434, R437, R438, R442); read-only and unlisted offsets discard it. -/
def Board.writePf (b : Board) (off : Nat) (v : Word) : Board :=
  if off < 0x18 then
    match inRingReg off with
    | some k => { b with mq := b.mq.write k v }
    | none => b
  else if off < 0x40 then
    match cqReg off with
    | some k => { b with cq := b.cq.write k v }
    | none => b
  else if off < 0x6C then
    match outRingReg (off - 0x40) with
    | some k => { b with ev := b.ev.write k v }
    | none => b
  else if 0x1000 ≤ off ∧ off < 0x2000 then b.writeBlock 2 ((off - 0x1000) / 0x40) ((off - 0x1000) % 0x40) v
  else if 0x2000 ≤ off ∧ off < 0x2400 ∧ off % 2 = 0 then
    { b with routes := b.routes.set! ((off - 0x2000) / 2) (BitVec.ofNat 16 v.toNat) }
  else b

/-- A write to an I3C register (R448). -/
def Board.writeI3c (b : Board) (off : Nat) (v : Word) : Board :=
  match off with
  | 0x08 => if 4000 ≤ v.toNat ∧ v.toNat ≤ 12000 then { b with plimNext := v.toNat } else b
  | 0x28 => { b with dbgEn := BitVec.ofNat 64 (b.dbgEn.toNat / 2 ^ 32 * 2 ^ 32 + v.toNat % 2 ^ 32) }
  | 0x2C => { b with dbgEn := BitVec.ofNat 64 (v.toNat % 2 ^ 32 * 2 ^ 32 + b.dbgEn.toNat % 2 ^ 32) }
  | _ => b

/-- REGISTER_WRITE (R430, R434, R447): the functions take writes once the part is READY, a VF only while its partition
exists. -/
def execRegisterWrite (block : RegBlock) (offset : Nat) (value : Word) (s : State) :
    Host.Outcome State Fault Refusal :=
  let b := s.board
  .next { s with board := match block with
    | .pf => if b.state = .ready then b.writePf offset value else b
    | .vf n =>
      if b.state = .ready ∧ n < 64 ∧ (s.part? n).isSome ∧ 0x100 ≤ offset then b.writeBlock 1 n (offset - 0x100) value
      else b
    | .i3c => if b.pwrgd then b.writeI3c offset value else b }

/-! ## What a register read returns -/

/-- A ring's registers at offsets 0x00, 0x08, 0x0C and 0x10: base, LOG, producer and consumer counts. -/
def Ring.read (r : Ring) (off : Nat) : Word :=
  match off with
  | 0x00 => r.base
  | 0x08 => word r.log
  | 0x0C => r.prod.zeroExtend 64
  | 0x10 => r.cons.zeroExtend 64
  | _ => 0

/-- A block of page-request registers (R438). -/
def readBlock (request reply : Ring) (off : Nat) : Word :=
  match off with
  | 0x18 => reply.base
  | 0x20 => word reply.log
  | 0x24 => reply.prod.zeroExtend 64
  | 0x28 => reply.cons.zeroExtend 64
  | _ => request.read off

/-- The PF's registers (R434, R437, R438, R442). -/
def Board.readPf (b : Board) (off : Nat) : Word :=
  if off < 0x18 then b.mq.read off
  else if off < 0x40 then
    match off with
    | 0x18 => b.cq.base
    | 0x20 => word b.cq.log
    | 0x24 => b.cq.prod.zeroExtend 64
    | 0x28 => b.cq.cons.zeroExtend 64
    | _ => 0
  else if off < 0x6C then b.ev.read (off - 0x40)
  else if 0x1000 ≤ off ∧ off < 0x2000 then
    let n := (off - 0x1000) / 0x40
    readBlock (tget {} b.rq2 n) (tget {} b.rp2 n) ((off - 0x1000) % 0x40)
  else if 0x2000 ≤ off ∧ off < 0x2400 ∧ off % 2 = 0 then (b.routes[(off - 0x2000) / 2]!).zeroExtend 64
  else 0

/-- The I3C registers (R448), TRIP apart from its clearing. -/
def Board.readI3c (b : Board) (off : Nat) : Word :=
  match off with
  | 0x00 => match b.state with
    | .reset => 0 | .bringUp => 1 | .ready => 2 | .failed => 3
  | 0x04 => word b.pkgPwr
  | 0x08 => word b.plimNext
  | 0x10 => word b.temp[0] | 0x14 => word b.temp[1] | 0x18 => word b.temp[2] | 0x1C => word b.temp[3]
  | 0x20 => word b.thrCnt
  | 0x24 => b.trip.zeroExtend 64
  | 0x28 => word (b.dbgEn.toNat % 2 ^ 32)
  | 0x2C => word (b.dbgEn.toNat / 2 ^ 32)
  | _ => 0

/-- What a read of a register returns (R430, R434, R437, R438, R442, R448): no row of the table reads one but TRIP_READ.
The VF of a partition that does not exist reads zero. -/
def State.registerRead (s : State) (block : RegBlock) (off : Nat) : Word :=
  let b := s.board
  match block with
  | .pf => b.readPf off
  | .vf n => if n < 64 ∧ (s.part? n).isSome ∧ 0x100 ≤ off then readBlock (tget {} b.rq1 n) (tget {} b.rp1 n) (off - 0x100) else 0
  | .i3c => b.readI3c off

/-- TRIP_READ (R448): the bits are returned and cleared. -/
def execTripRead (s : State) : Host.Outcome State Fault Refusal :=
  .next { s with board := { s.board with
    hostRead := leBytes 4 s.board.trip.toNat, hostPoison := false, trip := 0 } }

/-! ## Host accesses to device memory -/

/-- The storage key of a byte at a device physical address (R431). -/
def dpaKey? (a : Nat) : Option Nat := (dpaOf? a).map fun x => physKey x.1 x.2

/-- Whether a host access waits: the link is not trained, or its die is down (R446, R447). -/
def State.hostWaits (s : State) (dpa : Nat) : Bool :=
  s.board.state != .ready || (dpaOf? dpa).any fun x => s.nodeDown x.1

/-- HOST_MEM_READ (R431, R432): a poisoned word, or a byte outside the ranges, is returned as poison. The host may keep
copies of the lines that it has read (R433; log 121). -/
def execHostMemRead (dpa len : Nat) (s : State) : Host.Outcome State Fault Refusal :=
  .next (if s.hostWaits dpa then s
    else
      let keys := (List.range len).map fun j => dpaKey? (dpa + j)
      let t := keys.foldl (fun (t : State) k => match k with
        | some k => t.correct k 1
        | none => t) s
      let bad := keys.any fun k => match k with
        | some k => poisoned s k 1
        | none => true
      let lines := (keys.filterMap fun k => k.map (· / 64)).eraseDups
      { t with
        hostCopies := t.hostCopies ++ lines.filter (!t.hostCopies.contains ·)
        board := { t.board with
        hostRead := if bad then [] else keys.map fun k => readByte t.mem (k.getD 0), hostPoison := bad } })

/-- HOST_MEM_WRITE (R431, R432, R400): bytes outside the ranges change nothing; a write that covers a whole poisoned part
clears it, one that cuts it leaves it. -/
def execHostMemWrite (dpa : Nat) (bytes : List Byte) (s : State) : Host.Outcome State Fault Refusal :=
  .next (if s.hostWaits dpa then s
    else
      let bs := (bytes.mapIdx fun j b => (dpaKey? (dpa + j), b)).filterMap fun x => x.1.map fun k => (k, x.2)
      let whole (p : Nat) : Bool := (List.range 8).all fun i => bs.any fun x => x.1 == p * 8 + i
      s.writeAt 0 (bs.filter fun x => !s.poison.contains (x.1 / 8) || whole (x.1 / 8)))

/-- HOST_SNOOP (R433): the host interface writes the line back and keeps it no longer. -/
def execHostSnoop (line : Nat) (s : State) : Host.Outcome State Fault Refusal :=
  .next { s with hostLines := s.hostLines.filter (· != line) }

/-! ## Bring-up (R447) -/

/-- The part without power or before its first step: nothing of it is left but host memory, which is not the part's, and
what the model keeps for itself. -/
def State.dark (s : State) : State :=
  { s.clearOwned fun kind _ => kind != 4 with
    cores := [], clusters := [], stairs := [], flight := [], net := [], mesh := [], nodes := [], finals := [], parts := []
    ifaces := [], peers := [], shoots := [], stalled := [], hostLines := [], ports := []
    hostCopies := [], inbound := [], unsettled := [], clock := 0
    board := { perst := s.board.perst } }

/-- PWRGD_RISE (R447): the loops lock, the boot ROM and the firmware are measured, the memories are cleared, and every
element checks itself; the monitor firmware sets the Kalfa ports' keys (R380). Firmware that is missing or refused leaves the part FAILED. -/
def execPwrgdRise (firmware : Option (List Byte)) (selfCheck : Bool) (s : State) : Host.Outcome State Fault Refusal :=
  .next (if s.board.pwrgd then s
    else
      let f := firmware.getD []
      let good := firmware.isSome && !imageRefused f true
      let t := s.dark
      { t with
        ports := (List.range 16).map fun n => (n, ({} : Port).trained n)
        board := { t.board with
        pwrgd := true
        meas1 := Config.sha512 Config.bootRom
        meas2 := Config.sha512 f
        checked := good && selfCheck
        state := if !good || !selfCheck then .failed else if t.board.perst then .bringUp else .ready } })

/-- PERST_ASSERT (R447): every partition ends as under R402, nothing in memory survives, and the part waits for the CXL link.
The I3C registers, the measurements and the Kalfa links are not the CXL reset's. -/
def execPerstAssert (s : State) : Host.Outcome State Fault Refusal :=
  .next (if s.board.perst then s
    else if !s.board.pwrgd ∨ !s.board.checked then { s with board := { s.board with perst := true } }
    else
      let t := s.resetCores (fun _ => true) stReset
      let far := t.net.filter fun x => decide (2 ^ 24 ≤ x.dst)
      let b := s.board
      { t.dark with
        net := far
        ports := t.ports
        board := { pwrgd := true, perst := true, state := .bringUp, checked := b.checked, pkgPwr := b.pkgPwr, plim := b.plim
                   plimNext := b.plimNext, temp := b.temp, thrCnt := b.thrCnt, trip := b.trip, dbgEn := b.dbgEn
                   throttled := b.throttled, hot := b.hot, dieDown := b.dieDown, peer := b.peer, meas1 := b.meas1
                   meas2 := b.meas2, created := b.created, jtag := b.jtag, jtagOut := b.jtagOut, cells := b.cells } })

/-- PERST_DEASSERT (R447, step 5): the CXL link trains and the part becomes READY. -/
def execPerstDeassert (s : State) : Host.Outcome State Fault Refusal :=
  .next { s with board := { s.board with
    perst := false
    state := if s.board.pwrgd ∧ s.board.checked then .ready else s.board.state } }

/-- PWRGD_DEASSERT (R447): the supply is lost. -/
def execPwrgdDeassert (s : State) : Host.Outcome State Fault Refusal := .next s.dark

/-! ## Boundary scan (R449) -/

/-- A bit as a word. -/
def bitWord (b : Bool) : Word := if b then 1 else 0

/-- The port with an instruction selected and what it shifts out. -/
def State.scan (s : State) (instr : Nat) (out : List Word) : State :=
  { s with board := { s.board with jtag := instr, jtagOut := out } }

/-- IDCODE (R449). -/
def execIdcode (s : State) : Host.Outcome State Fault Refusal := .next (s.scan 1 [0x14820153])

/-- BYPASS (R449): one bit of delay, which captures 0 (log 46). -/
def execBypass (bit : Bool) (s : State) : Host.Outcome State Fault Refusal := .next (s.scan 0 [0, bitWord bit])

/-- SAMPLE/PRELOAD (R449): the balls are sampled and the cells preloaded. -/
def execSamplePreload (pins preload : List Bool) (s : State) : Host.Outcome State Fault Refusal :=
  let t := s.scan 2 (pins.map bitWord)
  .next { t with board := { t.board with cells := preload } }

/-- EXTEST (R449): the cells drive the balls, whose values are captured. -/
def execExtest (pins : List Bool) (s : State) : Host.Outcome State Fault Refusal := .next (s.scan 3 (pins.map bitWord))

end Sys2Proof.Machine
end

