-- ==== Sys2Proof/Machine/Dispatch.lean ====
section
/-! DEFINITION. The meaning of every step of the part: one arm per constructor of `Instr`, each a call of its meaning. -/
namespace Sys2Proof.Machine

/-- The effect of one instruction or event on the package. -/
def exec (i : Instr) (s : State) : Host.Outcome State Fault Refusal :=
  match i with
  | .add o => Sys2Proof.Machine.execAdd o s
  | .sub o => Sys2Proof.Machine.execSub o s
  | .addi o => Sys2Proof.Machine.execAddi o s
  | .mul o => Sys2Proof.Machine.execMul o s
  | .mulh o => Sys2Proof.Machine.execMulh o s
  | .mulhn o => Sys2Proof.Machine.execMulhn o s
  | .div o => Sys2Proof.Machine.execDiv o s
  | .divn o => Sys2Proof.Machine.execDivn o s
  | .rem o => Sys2Proof.Machine.execRem o s
  | .remn o => Sys2Proof.Machine.execRemn o s
  | .and o => Sys2Proof.Machine.execAnd o s
  | .or o => Sys2Proof.Machine.execOr o s
  | .xor o => Sys2Proof.Machine.execXor o s
  | .andn o => Sys2Proof.Machine.execAndn o s
  | .orn o => Sys2Proof.Machine.execOrn o s
  | .shl o => Sys2Proof.Machine.execShl o s
  | .shr o => Sys2Proof.Machine.execShr o s
  | .shra o => Sys2Proof.Machine.execShra o s
  | .rotl o => Sys2Proof.Machine.execRotl o s
  | .rotr o => Sys2Proof.Machine.execRotr o s
  | .clz o => Sys2Proof.Machine.execClz o s
  | .ctz o => Sys2Proof.Machine.execCtz o s
  | .popc o => Sys2Proof.Machine.execPopc o s
  | .min o => Sys2Proof.Machine.execMin o s
  | .max o => Sys2Proof.Machine.execMax o s
  | .minn o => Sys2Proof.Machine.execMinn o s
  | .maxn o => Sys2Proof.Machine.execMaxn o s
  | .sel o => Sys2Proof.Machine.execSel o s
  | .mov o => Sys2Proof.Machine.execMov o s
  | .movi o => Sys2Proof.Machine.execMovi o s
  | .movhi o => Sys2Proof.Machine.execMovhi o s
  | .lea o => Sys2Proof.Machine.execLea o s
  | .cmp o => Sys2Proof.Machine.execCmp o s
  | .qand o => Sys2Proof.Machine.execQand o s
  | .qor o => Sys2Proof.Machine.execQor o s
  | .qxor o => Sys2Proof.Machine.execQxor o s
  | .qnot o => Sys2Proof.Machine.execQnot o s
  | .bfx o => Sys2Proof.Machine.execBfx o s
  | .bfi o => Sys2Proof.Machine.execBfi o s
  | .exts o => Sys2Proof.Machine.execExts o s
  | .extz o => Sys2Proof.Machine.execExtz o s
  | .crd o => Sys2Proof.Machine.execCrd o s
  | .cwr o => Sys2Proof.Machine.execCwr o s
  | .br o => Sys2Proof.Machine.execBr o s
  | .brc o => Sys2Proof.Machine.execBrc o s
  | .jmp o => Sys2Proof.Machine.execJmp o s
  | .callDirect o => Sys2Proof.Machine.execCallDirect o s
  | .callIndirect o => Sys2Proof.Machine.execCallIndirect o s
  | .ret o => Sys2Proof.Machine.execRet o s
  | .loop o => Sys2Proof.Machine.execLoop o s
  | .nop o => Sys2Proof.Machine.execNop o s
  | .exit o => Sys2Proof.Machine.execExit o s
  | .syscall o => Sys2Proof.Machine.execSyscall o s
  | .stair o => Sys2Proof.Machine.execStair o s
  | .follow o => Sys2Proof.Machine.execFollow o s
  | .leave o => Sys2Proof.Machine.execLeave o s
  | .land o => Sys2Proof.Machine.execLand o s
  | .ifence o => Sys2Proof.Machine.execIfence o s
  | .launch o => Sys2Proof.Machine.execLaunch o s
  | .spawn o => Sys2Proof.Machine.execSpawn o s
  | .take o => Sys2Proof.Machine.execTake o s
  | .join o => Sys2Proof.Machine.execJoin o s
  | .done o => Sys2Proof.Machine.execDone o s
  | .sstep o => Sys2Proof.Machine.execSstep o s
  | .yield o => Sys2Proof.Machine.execYield o s
  | .wdog o => Sys2Proof.Machine.execWdog o s
  | .ld o => Sys2Proof.Machine.execLd o s
  | .st o => Sys2Proof.Machine.execSt o s
  | .ldp o => Sys2Proof.Machine.execLdp o s
  | .stp o => Sys2Proof.Machine.execStp o s
  | .vld o => Sys2Proof.Machine.execVld o s
  | .vst o => Sys2Proof.Machine.execVst o s
  | .latom o => Sys2Proof.Machine.execLatom o s
  | .park o => Sys2Proof.Machine.execPark o s
  | .unpark o => Sys2Proof.Machine.execUnpark o s
  | .connect o => Sys2Proof.Machine.execConnect o s
  | .accept o => Sys2Proof.Machine.execAccept o s
  | .send o => Sys2Proof.Machine.execSend o s
  | .sendv o => Sys2Proof.Machine.execSendv o s
  | .sendt o => Sys2Proof.Machine.execSendt o s
  | .recv o => Sys2Proof.Machine.execRecv o s
  | .recvv o => Sys2Proof.Machine.execRecvv o s
  | .recvt o => Sys2Proof.Machine.execRecvt o s
  | .offer o => Sys2Proof.Machine.execOffer o s
  | .select o => Sys2Proof.Machine.execSelect o s
  | .probe o => Sys2Proof.Machine.execProbe o s
  | .deleg o => Sys2Proof.Machine.execDeleg o s
  | .adopt o => Sys2Proof.Machine.execAdopt o s
  | .close o => Sys2Proof.Machine.execClose o s
  | .abort o => Sys2Proof.Machine.execAbort o s
  | .epstat o => Sys2Proof.Machine.execEpstat o s
  | .pload o => Sys2Proof.Machine.execPload o s
  | .get o => Sys2Proof.Machine.execGet o s
  | .put o => Sys2Proof.Machine.execPut o s
  | .rst o => Sys2Proof.Machine.execRst o s
  | .rstv o => Sys2Proof.Machine.execRstv o s
  | .copy o => Sys2Proof.Machine.execCopy o s
  | .gather o => Sys2Proof.Machine.execGather o s
  | .scatter o => Sys2Proof.Machine.execScatter o s
  | .mcast o => Sys2Proof.Machine.execMcast o s
  | .rflush o => Sys2Proof.Machine.execRflush o s
  | .binit o => Sys2Proof.Machine.execBinit o s
  | .arrive o => Sys2Proof.Machine.execArrive o s
  | .bwait o => Sys2Proof.Machine.execBwait o s
  | .btest o => Sys2Proof.Machine.execBtest o s
  | .tlwait o => Sys2Proof.Machine.execTlwait o s
  | .tlread o => Sys2Proof.Machine.execTlread o s
  | .fence o => Sys2Proof.Machine.execFence o s
  | .fencex o => Sys2Proof.Machine.execFencex o s
  | .ratom o => Sys2Proof.Machine.execRatom o s
  | .ratomp o => Sys2Proof.Machine.execRatomp o s
  | .waita o => Sys2Proof.Machine.execWaita o s
  | .vadd o => Sys2Proof.Machine.execVadd o s
  | .vsub o => Sys2Proof.Machine.execVsub o s
  | .vmul o => Sys2Proof.Machine.execVmul o s
  | .vfma o => Sys2Proof.Machine.execVfma o s
  | .vfms o => Sys2Proof.Machine.execVfms o s
  | .vfnma o => Sys2Proof.Machine.execVfnma o s
  | .vmin o => Sys2Proof.Machine.execVmin o s
  | .vmax o => Sys2Proof.Machine.execVmax o s
  | .vabs o => Sys2Proof.Machine.execVabs o s
  | .vneg o => Sys2Proof.Machine.execVneg o s
  | .vdiv o => Sys2Proof.Machine.execVdiv o s
  | .vsqrt o => Sys2Proof.Machine.execVsqrt o s
  | .vrcp o => Sys2Proof.Machine.execVrcp o s
  | .vrsq o => Sys2Proof.Machine.execVrsq o s
  | .vexp2 o => Sys2Proof.Machine.execVexp2 o s
  | .vlog2 o => Sys2Proof.Machine.execVlog2 o s
  | .vand o => Sys2Proof.Machine.execVand o s
  | .vor o => Sys2Proof.Machine.execVor o s
  | .vxor o => Sys2Proof.Machine.execVxor o s
  | .vshl o => Sys2Proof.Machine.execVshl o s
  | .vshr o => Sys2Proof.Machine.execVshr o s
  | .vshra o => Sys2Proof.Machine.execVshra o s
  | .vcmp o => Sys2Proof.Machine.execVcmp o s
  | .vsel o => Sys2Proof.Machine.execVsel o s
  | .vperm o => Sys2Proof.Machine.execVperm o s
  | .vbcast o => Sys2Proof.Machine.execVbcast o s
  | .vext o => Sys2Proof.Machine.execVext o s
  | .vins o => Sys2Proof.Machine.execVins o s
  | .vred o => Sys2Proof.Machine.execVred o s
  | .vdot o => Sys2Proof.Machine.execVdot o s
  | .vcvt o => Sys2Proof.Machine.execVcvt o s
  | .vquant o => Sys2Proof.Machine.execVquant o s
  | .vdeq o => Sys2Proof.Machine.execVdeq o s
  | .vpack o => Sys2Proof.Machine.execVpack o s
  | .vunpk o => Sys2Proof.Machine.execVunpk o s
  | .vmov o => Sys2Proof.Machine.execVmov o s
  | .vmovi o => Sys2Proof.Machine.execVmovi o s
  | .cevrd o => Sys2Proof.Machine.execCevrd o s
  | .mloadw o => Sys2Proof.Machine.execMloadw o s
  | .mstream o => Sys2Proof.Machine.execMstream o s
  | .mfmt o => Sys2Proof.Machine.execMfmt o s
  | .mclr o => Sys2Proof.Machine.execMclr o s
  | .mdrain o => Sys2Proof.Machine.execMdrain o s
  | .amovRead o => Sys2Proof.Machine.execAmovRead o s
  | .amovWrite o => Sys2Proof.Machine.execAmovWrite o s
  | .mstat o => Sys2Proof.Machine.execMstat o s
  | .mcmd o => Sys2Proof.Machine.execMcmd o s
  | .mcap o => Sys2Proof.Machine.execMcap o s
  | .red o => Sys2Proof.Machine.execRed o s
  | .redw o => Sys2Proof.Machine.execRedw o s
  | .csum o => Sys2Proof.Machine.execCsum o s
  | .vote o => Sys2Proof.Machine.execVote o s
  | .guard o => Sys2Proof.Machine.execGuard o s
  | .budget o => Sys2Proof.Machine.execBudget o s
  | .tret o => Sys2Proof.Machine.execTret o s
  | .brk o => Sys2Proof.Machine.execBrk o s
  | .csave o => Sys2Proof.Machine.execCsave o s
  | .csaveRect o => Sys2Proof.Machine.execCsaveRect o s
  | .crest o => Sys2Proof.Machine.execCrest o s
  | .crestRect o => Sys2Proof.Machine.execCrestRect o s
  | .shoot o => Sys2Proof.Machine.execShoot o s
  | .stairFormation head => Sys2Proof.Machine.execStairFormation head s
  | .landing head => Sys2Proof.Machine.execLanding head s
  | .lineFill core line => Sys2Proof.Machine.execLineFill core line s
  | .entryDrain cluster entry => Sys2Proof.Machine.execEntryDrain cluster entry s
  | .remoteAccessArrival access => Sys2Proof.Machine.execRemoteAccessArrival access s
  | .pageRequestPost iface => Sys2Proof.Machine.execPageRequestPost iface s
  | .pageReply pnum stage => Sys2Proof.Machine.execPageReply pnum stage s
  | .acknowledgement access outside => Sys2Proof.Machine.execAcknowledgement access outside s
  | .engineItemEnd item outside => Sys2Proof.Machine.execEngineItemEnd item outside s
  | .combinedAcknowledgement item outside => Sys2Proof.Machine.execCombinedAcknowledgement item outside s
  | .messageArrival packet => Sys2Proof.Machine.execMessageArrival packet s
  | .creditReturn packet => Sys2Proof.Machine.execCreditReturn packet s
  | .closeNotice packet => Sys2Proof.Machine.execCloseNotice packet s
  | .holdNotice packet => Sys2Proof.Machine.execHoldNotice packet s
  | .releaseNotice packet => Sys2Proof.Machine.execReleaseNotice packet s
  | .connectionRequest packet => Sys2Proof.Machine.execConnectionRequest packet s
  | .acceptorAnswer packet => Sys2Proof.Machine.execAcceptorAnswer packet s
  | .confirmation packet => Sys2Proof.Machine.execConfirmation packet s
  | .withdrawal packet => Sys2Proof.Machine.execWithdrawal packet s
  | .memoryPeerRequest chan => Sys2Proof.Machine.execMemoryPeerRequest chan s
  | .adoptedNotice packet => Sys2Proof.Machine.execAdoptedNotice packet s
  | .redirect packet => Sys2Proof.Machine.execRedirect packet s
  | .redirectAnswer packet => Sys2Proof.Machine.execRedirectAnswer packet s
  | .remoteArrival packet => Sys2Proof.Machine.execRemoteArrival packet s
  | .contribution packet => Sys2Proof.Machine.execContribution packet s
  | .nodeTimerExpiry node => Sys2Proof.Machine.execNodeTimerExpiry node s
  | .resultArrival packet => Sys2Proof.Machine.execResultArrival packet s
  | .superstepComplete tree => Sys2Proof.Machine.execSuperstepComplete tree s
  | .voteComplete tree => Sys2Proof.Machine.execVoteComplete tree s
  | .waitaWake core => Sys2Proof.Machine.execWaitaWake core s
  | .capWord chan => Sys2Proof.Machine.execCapWord chan s
  | .commandVector chan => Sys2Proof.Machine.execCommandVector chan s
  | .matrixQueueRun core => Sys2Proof.Machine.execMatrixQueueRun core s
  | .schedulerTurn pnum => Sys2Proof.Machine.execSchedulerTurn pnum s
  | .kernelEntry core => Sys2Proof.Machine.execKernelEntry core s
  | .groupFreed pnum group => Sys2Proof.Machine.execGroupFreed pnum group s
  | .quiescenceSweep pnum launch => Sys2Proof.Machine.execQuiescenceSweep pnum launch s
  | .waitExpiry core => Sys2Proof.Machine.execWaitExpiry core s
  | .watchdogExpiry core => Sys2Proof.Machine.execWatchdogExpiry core s
  | .meshInterrupt core => Sys2Proof.Machine.execMeshInterrupt core s
  | .preEmption core => Sys2Proof.Machine.execPreEmption core s
  | .budgetPeriod => Sys2Proof.Machine.execBudgetPeriod s
  | .shootDown shoot cache => Sys2Proof.Machine.execShootDown shoot cache s
  | .shootDownComplete shoot => Sys2Proof.Machine.execShootDownComplete shoot s
  | .scrub part => Sys2Proof.Machine.execScrub part s
  | .refresh controller => Sys2Proof.Machine.execRefresh controller s
  | .create entry => Sys2Proof.Machine.execCreate entry s
  | .destroy entry => Sys2Proof.Machine.execDestroy entry s
  | .setroot entry => Sys2Proof.Machine.execSetroot entry s
  | .shoot2 entry => Sys2Proof.Machine.execShoot2 entry s
  | .setlimit entry => Sys2Proof.Machine.execSetlimit entry s
  | .peermap entry => Sys2Proof.Machine.execPeermap entry s
  | .grouptab entry => Sys2Proof.Machine.execGrouptab entry s
  | .loadimg entry => Sys2Proof.Machine.execLoadimg entry s
  | .start entry => Sys2Proof.Machine.execStart entry s
  | .halt entry => Sys2Proof.Machine.execHalt entry s
  | .save entry => Sys2Proof.Machine.execSave entry s
  | .restore entry => Sys2Proof.Machine.execRestore entry s
  | .resume entry => Sys2Proof.Machine.execResume entry s
  | .rdcount entry => Sys2Proof.Machine.execRdcount entry s
  | .setpeer entry => Sys2Proof.Machine.execSetpeer entry s
  | .eventPost => Sys2Proof.Machine.execEventPost s
  | .registerWrite block offset value => Sys2Proof.Machine.execRegisterWrite block offset value s
  | .tripRead => Sys2Proof.Machine.execTripRead s
  | .hostMemRead dpa len => Sys2Proof.Machine.execHostMemRead dpa len s
  | .hostMemWrite dpa bytes => Sys2Proof.Machine.execHostMemWrite dpa bytes s
  | .hostSnoop line => Sys2Proof.Machine.execHostSnoop line s
  | .getVersion fn => Sys2Proof.Machine.execGetVersion fn s
  | .getCapabilities fn => Sys2Proof.Machine.execGetCapabilities fn s
  | .negotiateAlgorithms fn asym hash => Sys2Proof.Machine.execNegotiateAlgorithms fn asym hash s
  | .getDigests fn => Sys2Proof.Machine.execGetDigests fn s
  | .getCertificate fn offset len => Sys2Proof.Machine.execGetCertificate fn offset len s
  | .challenge fn nonce => Sys2Proof.Machine.execChallenge fn nonce s
  | .getMeasurements fn index nonce => Sys2Proof.Machine.execGetMeasurements fn index nonce s
  | .flitReceive port flit intact => Sys2Proof.Machine.execFlitReceive port flit intact s
  | .negativeAcknowledgement port seq => Sys2Proof.Machine.execNegativeAcknowledgement port seq s
  | .retrain port trained => Sys2Proof.Machine.execRetrain port trained s
  | .pwrgdRise firmware selfCheck => Sys2Proof.Machine.execPwrgdRise firmware selfCheck s
  | .perstAssert => Sys2Proof.Machine.execPerstAssert s
  | .perstDeassert => Sys2Proof.Machine.execPerstDeassert s
  | .powerWindowEnd watts => Sys2Proof.Machine.execPowerWindowEnd watts s
  | .thermalThrottle die eighths => Sys2Proof.Machine.execThermalThrottle die eighths s
  | .dieReset die => Sys2Proof.Machine.execDieReset die s
  | .dieRecover die eighths selfCheck => Sys2Proof.Machine.execDieRecover die eighths selfCheck s
  | .interfaceLockLoss loop => Sys2Proof.Machine.execInterfaceLockLoss loop s
  | .idcode => Sys2Proof.Machine.execIdcode s
  | .bypass bit => Sys2Proof.Machine.execBypass bit s
  | .samplePreload pins preload => Sys2Proof.Machine.execSamplePreload pins preload s
  | .extest pins => Sys2Proof.Machine.execExtest pins s
  | .debugHalt core => Sys2Proof.Machine.execDebugHalt core s
  | .debugStep core => Sys2Proof.Machine.execDebugStep core s
  | .haltOnBreak core => Sys2Proof.Machine.execHaltOnBreak core s
  | .debugRead core what => Sys2Proof.Machine.execDebugRead core what s
  | .softError place => Sys2Proof.Machine.execSoftError place s
  | .haltEnd core => Sys2Proof.Machine.execHaltEnd core s
  | .supervisorEndsGroup pnum group => Sys2Proof.Machine.execSupervisorEndsGroup pnum group s
  | .hallReset hall => Sys2Proof.Machine.execHallReset hall s
  | .interfacePowerDown node => Sys2Proof.Machine.execInterfacePowerDown node s
  | .interfaceWake node => Sys2Proof.Machine.execInterfaceWake node s
  | .pwrgdDeassert => Sys2Proof.Machine.execPwrgdDeassert s

end Sys2Proof.Machine
end

