-- ==== Sys2Proof/Machine/Step.lean ====
section
/-! DEFINITION. One step of the package: the head of the agenda, or the issue of the current core (log 1). -/
namespace Sys2Proof.Machine

/-- An instruction of the issuing core, and what follows it. -/
def runOne (s : State) (i : Instr) (f : Finish) : Host.Outcome State Fault Refusal :=
  match exec i s with
  | .next t => .next (finishIssue s t (s.self.forwards s.free i s.self.pc) f)
  | .fault r => .fault r
  | .refused r => .refused r

/-- A pair (R43): the second slot executes when the first has completed. -/
def runPair (s : State) (i : Instr) (f : Finish) (j : Except Illegal Instr) (g : Finish) :
    Host.Outcome State Fault Refusal :=
  match exec i s with
  | .next t =>
    let u := finishIssue s t (s.self.forwards s.free i s.self.pc) f
    if completed s t then
      match j with
      | .ok j => runOne u j g
      | .error d => .next (illegalAt u d)
    else .next u
  | .fault r => .fault r
  | .refused r => .refused r

/-- What the plan of the current core does. -/
def runPlan (s : State) : Plan → Host.Outcome State Fault Refusal
  | .rest => .next s
  | .done t => .next t
  | .one t i f => runOne t i f
  | .pair t i f j g => runPair t i f j g
  | .fill line => exec (.lineFill s.cur line) s
  | .watchdog none => .next (s.takeWatchdog s.cur)
  | .watchdog (some (t, i, f)) =>
    match exec i t with
    | .next u =>
      if hasTrapped t u then .next (finishIssue t u (t.self.forwards t.free i t.self.pc) f)
      else .next (s.takeWatchdog s.cur)
    | .fault r => .fault r
    | .refused r => .refused r

/-- One step: an event or a turn at the head of the agenda, and otherwise the current core issues, unless it accepts a
pre-emption request at this boundary (R403). -/
def step (s : State) : Host.Outcome State Fault Refusal :=
  if Config.coreCount ≤ s.cur then .fault .noSuchCore
  else
    match s.agenda with
    | .event i :: rest => if isEvent i then exec i { s with agenda := rest } else .next { s with agenda := rest }
    | .run n :: rest => .next { s with cur := if n < Config.coreCount then n else s.cur, agenda := rest }
    | .elapse n :: rest => .next (pass s n rest)
    | .evict n e :: rest => .next (evict { s with agenda := rest } n e)
    | [] => if s.accepts s.cur then .next (s.accept s.cur) else runPlan s (plan s)

/-- The state with an instruction word of at most `nbits` bits where the next step fetches: no turn stands on the
agenda, the current core has a thread in a partition that is not held, waits for nothing and fetches for itself, and its
instruction cache holds a legal line with the word in the slot at pc (log 7). -/
def State.withFetchWord (s : State) (nbits w : Nat) : State :=
  readyToFetch s (BitVec.ofNat 96 (w % 2 ^ nbits))

end Sys2Proof.Machine
end

