-- ==== Sys2Proof/Safety.lean ====
section
/-! DEFINITION. What a safe run is, and the terms in which the statements speak of one instruction: when it issues, and
what a state is in which a register instruction has completed. -/
namespace Sys2Proof.Machine

/-- The step from s gives a next state. -/
def Safe (s : State) : Prop := ∃ t, step s = .next t

/-- n steps from s all give next states. -/
def SafeFor : Nat → State → Prop
  | 0, _ => True
  | n + 1, s => ∃ t, step s = .next t ∧ SafeFor n t

/-- The values of the source fields, the ports among them popped in the order S1, S2, S3, and the state after the pops
(R76, R78); nothing where a pop is refused or waits. -/
def sourcesOf (f : Fields) (s : State) : Option (Srcs × State) :=
  match s.popRefused? s.cur [f.s1, f.s2, f.s3], s.popSrc f.s1 with
  | none, .word a t =>
    match t.popSrc f.s2 with
    | .word b u =>
      match u.popSrc f.s3 with
      | .word d v =>
        some ({ s1 := s.self.srcWord s.free 1 f.s1 a, s2 := s.self.srcWord s.free 2 f.s2 b,
                s3 := s.self.srcWord s.free 3 f.s3 d }, v)
      | _ => none
    | _ => none
  | _, _ => none

/-- An instruction with these fields meets nothing on s before its own effect: the level permits it, neither its predicate
register nor a source is used after its last use (R30, R61), and its sources have the values x, which leaves the state u. -/
structure Reads (f : Fields) (priv : Core → Option Trap) (also : List Opnd) (s : State) (x : Srcs) (u : State) :
    Prop where
  pred : s.self.predTrap? f.pg = none
  allowed : priv s.self = none
  live : s.self.usedFreed? ([f.s1, f.s2, f.s3] ++ also) = none
  sources : sourcesOf f s = some (x, u)

/-- The same of an instruction that bit 0 of its predicate governs, and that executes (R28). -/
structure Issues (f : Fields) (priv : Core → Option Trap) (also : List Opnd) (s : State) (x : Srcs) (u : State) :
    Prop extends Reads f priv also s x u where
  executes : s.self.executes s.free f.pg f.pn = true

/-- The state after an instruction that popped as u says, writes x to D and goes on at a code address: last uses freed,
D written (R30, R76). -/
def wroteTo (u : State) (f : Fields) (d : Opnd) (x : Word) (pc : Word) : State :=
  ((u.begin f).setSelf ((u.begin f).self.setDst d x)).goOn pc

/-- The same of an instruction that goes on at its FallThrough (R45). -/
def wrote (u : State) (f : Fields) (d : Opnd) (x : Word) : State := wroteTo u f d x (nextAddr u.self.pc)

/-- Nothing of the package differs in s and t but core i and the count of free values drawn. -/
def SameBeside (i : Nat) (s t : State) : Prop :=
  (∀ j, j ≠ i → t.core j = s.core j) ∧ { t with cores := s.cores, free := s.free } = s

end Sys2Proof.Machine
end

