-- ==== Sys2Proof/Certificates/Slice0/Obligations.lean ====
section
/-! DEFINITION. The statements for the provers, each from rules of the spec, and the values that the rules give, written
apart from the meanings. -/

namespace Sys2Proof.Claims
end Sys2Proof.Claims
open Sys2Proof Sys2Proof.Machine Sys2Proof.Claims

/-! ## Family 0 -/

namespace Sys2Proof.Claims

/-- Beside the listed operands every register keeps its value, and g0 and q0 keep theirs whatever is listed (R26). -/
def RegsKept (u t : State) (ds : List Opnd) : Prop :=
  (∀ r : Fin 64, .g r ∉ ds ∨ r = 0 → t.self.g[r] = u.self.g[r]) ∧ (∀ r : Fin 32, .v r ∉ ds → t.self.v[r] = u.self.v[r]) ∧
    ∀ r : Fin 8, .q r ∉ ds ∨ r = 0 → t.self.q[r] = u.self.q[r]

/-- So do the control registers beside the listed ones, the accumulator columns, and every byte of memory. -/
def RestKept (u t : State) (ds : List Opnd) (crs : List Nat) : Prop :=
  RegsKept u t ds ∧ (∀ k, k ∈ crNumbers → k ∉ crs → t.self.cr k = u.self.cr k) ∧ t.self.acc = u.self.acc ∧
    ∀ k, readByte t.mem k = readByte u.mem k

/-- Bits w−1:0 of operand B: S2 where it is present, and otherwise IMM32 extended as the type is signed (R77). -/
def lowB (w : Nat) (o : OpA) (x : Srcs) : BitVec w :=
  if o.s2 = .none then (if tySigned o.ty then o.imm.signExtend w else o.imm.setWidth w) else x.s2.setWidth w

/-- A w-bit pattern extended to 64 bits as the type is signed (R76). -/
def extended (ty : Ty) {w : Nat} (y : BitVec w) : Word := if tySigned ty then y.signExtend 64 else y.setWidth 64

/-- The integer of a w-bit pattern. -/
def valueOf (ty : Ty) {w : Nat} (y : BitVec w) : Int := if tySigned ty then y.toInt else y.toNat

/-- An integer limited to the range of w bits, signed or not, narrowed and extended (R76). -/
def limited (ty : Ty) (w : Nat) (n : Int) : Word :=
  if tySigned ty then (BitVec.ofInt w (max (-(2 ^ (w - 1))) (min (2 ^ (w - 1) - 1) n))).signExtend 64
  else (BitVec.ofInt w (max 0 (min (2 ^ w - 1) n))).setWidth 64

/-- The result of an integer operation: the wrapped pattern, or the exact integer limited under SAT (R76). -/
def saturating (o : OpA) (w : Nat) (wrapped : BitVec w) (exact : Int) : Word :=
  if o.sat then limited o.ty w exact else extended o.ty wrapped

/-- The results of ADD to REMN, of MIN to MAXN and of SEL (R80, R81, R83): operation fields and value. -/
def arithmetic (i : Instr) (x : Srcs) : Option (OpA × Word) :=
  let low (o : OpA) : BitVec (tyBits o.ty) := x.s1.setWidth _
  let b (o : OpA) : BitVec (tyBits o.ty) := lowB _ o x
  let va (o : OpA) : Int := valueOf o.ty (low o)
  let vb (o : OpA) : Int := valueOf o.ty (b o)
  match i with
  | .add o => some (o, saturating o _ (low o + b o) (va o + vb o))
  | .sub o => some (o, saturating o _ (low o - b o) (va o - vb o))
  | .addi o =>
    some (o, saturating o _ (low o + x.s2.setWidth _ + o.imm.signExtend _)
      (va o + valueOf o.ty (x.s2.setWidth (tyBits o.ty)) + o.imm.toInt))
  | .mul o => some (o, saturating o _ (low o * b o) (va o * vb o))
  | .mulh o =>
    let w := tyBits o.ty
    some (o, extended o.ty ((((low o).signExtend (2 * w) * (b o).signExtend (2 * w)) >>> w).setWidth w))
  | .mulhn o =>
    let w := tyBits o.ty
    some (o, extended o.ty ((((low o).setWidth (2 * w) * (b o).setWidth (2 * w)) >>> w).setWidth w))
  | .div o =>
    some (o, if b o = 0 then extended o.ty (BitVec.allOnes (tyBits o.ty))
      else saturating o _ ((low o).sdiv (b o)) ((va o).tdiv (vb o)))
  | .divn o => some (o, extended o.ty (if b o = 0 then BitVec.allOnes (tyBits o.ty) else low o / b o))
  | .rem o => some (o, extended o.ty (if b o = 0 then low o else (low o).srem (b o)))
  | .remn o => some (o, extended o.ty (if b o = 0 then low o else low o % b o))
  | .min o => some (o, extended o.ty (if (low o).slt (b o) then low o else b o))
  | .max o => some (o, extended o.ty (if (low o).slt (b o) then b o else low o))
  | .minn o => some (o, extended o.ty (if (low o).ult (b o) then low o else b o))
  | .maxn o => some (o, extended o.ty (if (low o).ult (b o) then b o else low o))
  | .sel o => some (o, extended o.ty (if x.s3.getLsbD 0 then low o else b o))
  | _ => none

/-- The amount of a shift: all 64 bits of S2, or IMM32 (R82). -/
def shiftBy (o : OpA) (x : Srcs) : Nat := if o.s2 = .none then o.imm.toNat else x.s2.toNat

/-- The results of AND to POPC (R82). -/
def bitwise (i : Instr) (x : Srcs) : Option (OpA × Word) :=
  let low (o : OpA) : BitVec (tyBits o.ty) := x.s1.setWidth _
  let b (o : OpA) : BitVec (tyBits o.ty) := lowB _ o x
  match i with
  | .and o => some (o, extended o.ty (low o &&& b o))
  | .or o => some (o, extended o.ty (low o ||| b o))
  | .xor o => some (o, extended o.ty (low o ^^^ b o))
  | .andn o => some (o, extended o.ty (low o &&& ~~~(b o)))
  | .orn o => some (o, extended o.ty (low o ||| ~~~(b o)))
  | .shl o =>
    some (o, saturating o _ (low o <<< min (shiftBy o x) (tyBits o.ty))
      (valueOf o.ty (low o) * 2 ^ min (shiftBy o x) (tyBits o.ty)))
  | .shr o => some (o, extended o.ty (low o >>> min (shiftBy o x) (tyBits o.ty)))
  | .shra o => some (o, extended o.ty ((low o).sshiftRight (min (shiftBy o x) (tyBits o.ty))))
  | .rotl o => some (o, extended o.ty ((low o).rotateLeft (shiftBy o x)))
  | .rotr o => some (o, extended o.ty ((low o).rotateRight (shiftBy o x)))
  | .clz o => some (o, word (((List.range (tyBits o.ty)).takeWhile fun k => !(low o).getMsbD k).length))
  | .ctz o => some (o, word (((List.range (tyBits o.ty)).takeWhile fun k => !(low o).getLsbD k).length))
  | .popc o => some (o, word ((List.range (tyBits o.ty)).countP fun k => (low o).getLsbD k))
  | _ => none

/-- The results of MOV to LEA, BFX to EXTZ and QAND to QNOT (R80, R84 to R87, R89). -/
def moved (i : Instr) (x : Srcs) : Option (OpA × Word) :=
  match i with
  | .mov o => some (o, x.s1)
  | .movi o =>
    some (o, extended o.ty
      (if tySigned o.ty then o.imm.signExtend (tyBits o.ty) else o.imm.setWidth (tyBits o.ty)))
  | .movhi o => some (o, o.imm ++ x.s1.setWidth 32)
  | .lea o => some (o, x.s1 + x.s2 * BitVec.ofNat 64 (tyBits o.ty / 8) + o.imm.signExtend 64)
  | .bfx o =>
    let pos := (o.imm.extractLsb' 0 6).toNat
    let f := x.s1.extractLsb' pos (o.imm.extractLsb' 8 7).toNat
    some (o, if tySigned o.ty then f.signExtend 64 else f.setWidth 64)
  | .bfi o =>
    let pos := (o.imm.extractLsb' 0 6).toNat
    let mask : Word := (BitVec.allOnes (o.imm.extractLsb' 8 7).toNat).setWidth 64
    some (o, (x.s2 &&& ~~~(mask <<< pos)) ||| ((x.s1 &&& mask) <<< pos))
  | .exts o => some (o, (x.s1.setWidth (tyBits o.ty)).signExtend 64)
  | .extz o => some (o, (x.s1.setWidth (tyBits o.ty)).setWidth 64)
  | .qand o => some (o, x.s1 &&& x.s2)
  | .qor o => some (o, x.s1 ||| x.s2)
  | .qxor o => some (o, x.s1 ^^^ x.s2)
  | .qnot o => some (o, ~~~x.s1)
  | _ => none

end Sys2Proof.Claims

/-- R80, R81, R83: ADD to REMN, MIN to MAXN and SEL complete on every operand value with the result of their rule, which
goes to D. -/
def Sys2Proof.Claims.ArithmeticResults : Prop :=
  ∀ (i : Instr) (o : OpA) (s u : State) (x : Srcs) (r : Word),
    WellFormed i → arithmetic i x = some (o, r) → Issues (fieldsA o) anyLevel [] s x u →
      exec i s = .next (wrote u (fieldsA o) o.d r)

/-- R82: the bitwise, shift, rotate and count instructions. -/
def Sys2Proof.Claims.BitwiseResults : Prop :=
  ∀ (i : Instr) (o : OpA) (s u : State) (x : Srcs) (r : Word),
    WellFormed i → bitwise i x = some (o, r) → Issues (fieldsA o) anyLevel [] s x u →
      exec i s = .next (wrote u (fieldsA o) o.d r)

/-- R80, R84 to R87, R89: moves, the address instruction, bit fields, extensions and predicate logic. -/
def Sys2Proof.Claims.MoveResults : Prop :=
  ∀ (i : Instr) (o : OpA) (s u : State) (x : Srcs) (r : Word),
    WellFormed i → moved i x = some (o, r) → Issues (fieldsA o) anyLevel [] s x u →
      exec i s = .next (wrote u (fieldsA o) o.d r)

/-- R80 to R89: the register instructions of family 0 complete with the result of their rule. -/
def Obligations.ScalarResults : Prop := Claims.ArithmeticResults ∧ Claims.BitwiseResults ∧ Claims.MoveResults

namespace Sys2Proof.Claims

/-- Whether CMP's condition holds of two integer patterns (R59, R88): 0 EQ, 1 NE, 2 LT, 3 LE, 4 GT, 5 GE. -/
def holdsInt (ty : Ty) (sub : Nat) {w : Nat} (a b : BitVec w) : Bool :=
  let lt (x y : BitVec w) : Bool := if tySigned ty then x.slt y else x.ult y
  match sub with
  | 0 => a == b
  | 1 => a != b
  | 2 => lt a b
  | 3 => !lt b a
  | 4 => lt b a
  | _ => !lt a b

/-- Whether CMP's condition holds of two floating patterns (R88): with a NaN only NE and UNO hold, and −0 equals +0. -/
def holdsFloat (ty : Ty) (sub : Nat) (a b : Nat) : Bool :=
  let u := unpack ty a
  let v := unpack ty b
  if u.isNan || v.isNan then sub == 1 || sub == 6
  else
    match sub with
    | 0 => cmpVals u v == 0
    | 1 => cmpVals u v != 0
    | 2 => decide (cmpVals u v < 0)
    | 3 => decide (cmpVals u v ≤ 0)
    | 4 => decide (0 < cmpVals u v)
    | 5 => decide (0 ≤ cmpVals u v)
    | 6 => false
    | _ => true

/-- Whether CMP counts an invalid-operation event (R88): a signalling NaN, or a NaN under LT, LE, GT or GE. -/
def cmpInvalid (ty : Ty) (sub : Nat) (a b : Nat) : Bool :=
  let u := unpack ty a
  let v := unpack ty b
  u == .snan || v == .snan || ((u.isNan || v.isNan) && decide (2 ≤ sub) && decide (sub ≤ 5))

/-- A word with bits 2:0 of an immediate as its slot, in a line DISP lines from the line of pc (R50). -/
def labelOf (pc : Word) (imm : BitVec 32) : Word :=
  ((pc &&& ~~~0x3F#64) + ((imm.extractLsb' 3 29).signExtend 64 <<< 6)) ||| (imm.extractLsb' 0 3).setWidth 64

/-- A code address that R47 accepts as a branch target: a slot of a cached line with its TGT bit set that is no second of
a pair; or any slot of a line whose fill has failed, which traps only when execution reaches it. -/
def LegalTarget (c : Core) (a : Word) : Prop :=
  bits a 0 3 ≤ 4 ∧ bits a 3 3 = 0 ∧
    ∃ l, c.cached? a = some l ∧ (l.failed = none → tgtBit (lineWord l.bytes) (slotNo a) = true ∧
      pairSecond (lineWord l.bytes) (slotNo a) = false)

/-- What a branch does (R104): its fields, the registers it reads beside its sources, the code address it goes to where it
is taken, the word it writes to D, and the entries of the return stack after it, 4 at most (R105). -/
structure Branching where
  o : OpA
  also : List Opnd := []
  target : Option Word
  d : Opnd := .none
  value : Word := 0
  calls : Nat

/-- R104. -/
def branching (i : Instr) (s : State) (x : Srcs) : Option Branching :=
  let link := nextAddr s.self.pc
  let n := s.self.calls
  match i with
  | .br o => some { o := o, target := some (labelOf s.self.pc o.imm), calls := n }
  | .brc o =>
    let b : BitVec (tyBits o.ty) := if o.s2 = .none then 0 else x.s2.setWidth _
    some { o := o,
           target := if holdsInt o.ty o.sub.toNat (x.s1.setWidth (tyBits o.ty)) b then some (labelOf s.self.pc o.imm)
             else none, calls := n }
  | .jmp o => some { o := o, target := some x.s1, calls := n }
  | .callDirect o =>
    some { o := o, target := some (labelOf s.self.pc o.imm), d := o.d, value := link, calls := min 4 (n + 1) }
  | .callIndirect o => some { o := o, target := some x.s1, d := o.d, value := link, calls := min 4 (n + 1) }
  | .ret o => some { o := o, target := some x.s1, calls := n - 1 }
  | .loop o =>
    match o.d with
    | .g r =>
      let v := s.self.gVal s.free 4 r - 1
      some { o := o, also := [o.d], target := if v = 0 then none else some (labelOf s.self.pc o.imm), d := o.d,
             value := v, calls := n }
    | _ => none
  | _ => none

/-- The state after a branch: its link or counter written, the return stack as it leaves it, and the core at its target or
its FallThrough. -/
def branched (u : State) (b : Branching) : State :=
  let t := wroteTo u (fieldsA b.o) b.d b.value (b.target.getD (nextAddr u.self.pc))
  t.setSelf { t.self with calls := b.calls }

end Sys2Proof.Claims

/-- R88: CMP writes all ones or all zeros to q[D] and counts one event in kev0 where the comparison is invalid; with a
floating TY, S2 names a register. -/
def Obligations.CompareResults : Prop :=
  (∀ o : OpA, WellFormed (.cmp o) → (∃ q, o.d = .q q) ∧ (isFloat o.ty = true → ∃ r, o.s2 = .g r ∨ ∃ p f, o.s2 = .port p f)) ∧
  ∀ (o : OpA) (s u : State) (x : Srcs), WellFormed (.cmp o) → Issues (fieldsA o) anyLevel [] s x u →
    let b : BitVec (tyBits o.ty) := if isFloat o.ty then x.s2.setWidth _ else lowB _ o x
    let a : BitVec (tyBits o.ty) := x.s1.setWidth _
    let fl := isFloat o.ty
    let r := if fl then holdsFloat o.ty o.sub.toNat a.toNat b.toNat else holdsInt o.ty o.sub.toNat a b
    ∃ t, exec (.cmp o) s = .next t ∧ t.self.pc = nextAddr u.self.pc ∧
      (∀ q : Fin 8, o.d = .q q → q ≠ 0 →
        t.self.q[q] = (if r then BitVec.allOnes 32 else 0) ∧ t.self.qFreed.getLsbD q.val = false) ∧
      (bits t.self.kev[0] 0 32 =
        min (bits u.self.kev[0] 0 32 + if fl && cmpInvalid o.ty o.sub.toNat a.toNat b.toNat then 1 else 0)
          0xFFFFFFFF) ∧
      (∀ k : Fin 16, k ≠ 0 → bits u.self.kev[k] 32 32 = 0 → t.self.kev[k] = u.self.kev[k]) ∧
      RestKept u t [o.d] ((List.range 16).map (0x020 + ·)) ∧ t.self.eps = u.self.eps ∧ SameBeside s.cur u t

/-- R90, R91: CRD reads a control register; CWR writes the fields that its level may write, where R35 does not call the
value illegal, and no other control register. -/
def Sys2Proof.Claims.ControlRegisterResults : Prop :=
  ∀ (o : OpA) (s u : State) (x : Srcs),
    (WellFormed (.crd o) → Issues (fieldsA o) (crdPriv (irOf (.crd o)) o.imm.toNat) [] s x u →
      exec (.crd o) s = .next (wrote u (fieldsA o) o.d (s.self.cr o.imm.toNat))) ∧
    (WellFormed (.cwr o) → Issues (fieldsA o) (cwrPriv (irOf (.cwr o)) o.imm.toNat) [] s x u →
      let n := o.imm.toNat
      let m := crWriteMask n s.self.level
      let v := (s.self.cr n &&& ~~~m) ||| (x.s1 &&& m)
      s.self.crIllegal n v = false →
      ∃ t, exec (.cwr o) s = .next t ∧ t.self.pc = nextAddr u.self.pc ∧ t.self.cr n = v ∧
        RestKept u t [] [n] ∧ t.self.eps = u.self.eps ∧ SameBeside s.cur u t)

/-- R34, R35, R91: CRD below the read level and CWR of a register with no writable field take the privilege trap; CWR of a
value that R35 calls illegal takes the illegal-encoding trap. -/
def Sys2Proof.Claims.ControlRegisterTraps : Prop :=
  ∀ (o : OpA) (s : State), s.self.predTrap? o.pg = none → s.self.executes s.free o.pg o.pn = true →
    let n := o.imm.toNat
    (s.self.level < crReadLevel n →
      exec (.crd o) s = .next (s.takeTrap s.cur
        { cls := 0x04, detail := 0x03, tval := irOf (.crd o) })) ∧
    (crWriteMask n s.self.level = 0 →
      exec (.cwr o) s = .next (s.takeTrap s.cur
        { cls := 0x04, detail := 0x03, tval := irOf (.cwr o) })) ∧
    (∀ (x : Srcs) (u : State), Issues (fieldsA o) (cwrPriv (irOf (.cwr o)) n) [] s x u →
      s.self.crIllegal n (s.self.crNew n x.s1) = true →
        exec (.cwr o) s = .next (s.takeTrap s.cur { cls := 0x01, detail := 0x0B, tval := irOf (.cwr o) }))

/-- R34, R35, R90, R91: what CRD and CWR read and write, and where they trap. -/
def Obligations.ControlRegisters : Prop := Claims.ControlRegisterResults ∧ Claims.ControlRegisterTraps

/-- R47, R104, R105: the branches complete: they go to their target where they are taken, it being legal, otherwise to their
FallThrough, and write their link or counter. -/
def Obligations.Branches : Prop :=
  ∀ (i : Instr) (b : Branching) (s u : State) (x : Srcs), WellFormed i → branching i s x = some b →
    Issues (fieldsA b.o) anyLevel b.also s x u → (∀ a, b.target = some a → LegalTarget s.self a) →
      exec i s = .next (branched u b)

/-- R47: a taken branch to a slot above 4 or with bits 5:3 set, to a slot whose TGT bit is clear, or to the second of a
pair, takes the illegal-branch-target trap with no effect, the lowest DETAIL that applies. One whose line is not cached
waits for the fill at the branch. -/
def Sys2Proof.Claims.IllegalTargetTraps : Prop :=
  ∀ (i : Instr) (b : Branching) (s u : State) (x : Srcs) (a : Word), WellFormed i → branching i s x = some b →
    Issues (fieldsA b.o) anyLevel b.also s x u → s.self.follower = false → b.target = some a →
      ((4 < bits a 0 3 ∨ bits a 3 3 ≠ 0) →
        exec i s = .next (s.takeTrap s.cur { cls := 0x03, detail := 0x02, tval := a })) ∧
      (∀ l, bits a 0 3 ≤ 4 → bits a 3 3 = 0 → s.self.cached? a = some l → l.failed = none →
        (tgtBit (lineWord l.bytes) (slotNo a) = false →
          exec i s = .next (s.takeTrap s.cur { cls := 0x03, detail := 0x01, tval := a })) ∧
        (tgtBit (lineWord l.bytes) (slotNo a) = true → pairSecond (lineWord l.bytes) (slotNo a) = true →
          exec i s = .next (s.takeTrap s.cur { cls := 0x03, detail := 0x03, tval := a }))) ∧
      (bits a 0 3 ≤ 4 → bits a 3 3 = 0 → s.self.cached? a = none → s.fetchHeld s.cur (lineAddr a) = true →
        ∃ t, exec i s = .next t ∧ t.self = { s.self with wait := t.self.wait } ∧
          t.self.wait.map (·.left) = some none ∧ SameBeside s.cur s t)

/-- R106, R107, R109, R396: NOP only advances; IFENCE empties the instruction cache; SYSCALL and BRK take their traps with
kepc at their FallThrough, SYSCALL at P2 only advances, and BRK with halt on break armed halts the core there. -/
def Obligations.SystemCallResults : Prop :=
  ∀ (o : OpA) (s u : State) (x : Srcs), Issues (fieldsA o) anyLevel [] s x u →
    let next := nextAddr s.self.pc
    let v := u.begin (fieldsA o)
    exec (.nop o) s = .next (wrote u (fieldsA o) .none 0) ∧
    exec (.ifence o) s = .next ((v.setSelf { v.self with icache := [] }).goOn (nextAddr u.self.pc)) ∧
    (s.self.level ≠ 2 → exec (.syscall o) s = .next (v.takeTrap s.cur
      { cls := 0x0D, detail := 0, tval := o.imm.setWidth 64, epc := some next })) ∧
    (s.self.level = 2 → exec (.syscall o) s = .next (wrote u (fieldsA o) .none 0)) ∧
    (s.self.haltOnBreak = false ∨ s.self.level = 2 → exec (.brk o) s = .next (v.takeTrap s.cur
      { cls := 0x0C, detail := 0x01, tval := o.imm.setWidth 64, epc := some next })) ∧
    (s.self.haltOnBreak = true → s.self.level ≠ 2 → ∃ t, exec (.brk o) s = .next t ∧
      t.self.halted = true ∧ t.self.pc = next ∧ t.self.kepc = next ∧ RestKept u t [] [0x005])

/-- R393, R392: taking a trap at P0 or P1 that is no double trap, with a handler: kepc, kcause, ktval, kstatus, kcore.MIE,
kpriv.LEVEL, the code address, the trap record in the TCM, and nothing else of the machine but the trap count, the wait and
the dirty bits (and, for a follower, its place in the stair, R116). -/
def Sys2Proof.Claims.TrapEntry : Prop :=
  ∀ (s : State) (i : Nat) (tr : Trap), Memory.wf s.mem = true → (s.core i).level < 2 → (s.core i).intrap = false →
    bits (s.core i).kvec 6 58 ≠ 0 →
    let c := s.core i
    let t := s.takeTrap i tr
    let d := t.core i
    d.pc = c.kvec &&& ~~~0x3F#64 ∧ d.kepc = tr.epc.getD c.pc ∧
    d.kcause = word (tr.detail * 256 + tr.cls) ∧ d.ktval = tr.tval ∧
    bits d.kstatus 0 2 = c.level ∧ bits d.kstatus 2 1 = c.mie ∧ bits d.kstatus 3 1 = 1 ∧
    d.mie = 0 ∧ d.level = 1 ∧ d.wait = none ∧ d.trapSeq = c.trapSeq + 1 ∧ d.calls = 0 ∧
    readBytes t.mem (tcmKey i c.recordAt) 64 = trapRecord tr (c.trapSeq + 1) ∧
    (∀ k, k < tcmKey i c.recordAt ∨ tcmKey i c.recordAt + 64 ≤ k → readByte t.mem k = readByte s.mem k) ∧
    d.g = c.g ∧ d.v = c.v ∧ d.q = c.q ∧ d.gFreed = c.gFreed ∧ d.vFreed = c.vFreed ∧ d.qFreed = c.qFreed ∧
    (∀ k, k ∈ crNumbers → k ∉ [0x000, 0x001, 0x002, 0x003, 0x005, 0x006, 0x00A] → d.cr k = c.cr k) ∧
    d.eps = c.eps ∧ d.acc = c.acc ∧ d.cmds = c.cmds ∧
    (∀ j, j ≠ i → t.core j = s.core j) ∧ t.flight = s.flight ∧ t.net = s.net

/-- R394: a trap at P2, a double trap and a trap without a handler halt the core at P2 by a monitor event with their kcause,
which is posted to the host, and issue nothing at kvec. -/
def Sys2Proof.Claims.MonitorEvents : Prop :=
  ∀ (s : State) (i : Nat) (tr : Trap),
    (s.core i).level = 2 ∨ (s.core i).intrap = true ∨ bits (s.core i).kvec 6 58 = 0 →
    let c := s.core i
    let t := s.takeTrap i tr
    (t.core i).halted = true ∧ (t.core i).monitored = true ∧ (t.core i).pc = c.pc ∧ (t.core i).level = 2 ∧
    (t.core i).enteredFrom = c.level ∧ (t.core i).mie = c.mie ∧
    ∃ ws, t.board.events = s.board.events ++ [word (2 + s.pnum i * 256) :: ws] ∧
      ws[1]? = some (if c.level ≠ 2 ∧ c.intrap = true then c.kcause else word (tr.detail * 256 + tr.cls))

/-- R392 to R394: what taking a trap saves, changes and leaves, and the traps that halt their core instead.
Choices of the model: log 17, 24. -/
def Obligations.TrapsTaken : Prop := Claims.TrapEntry ∧ Claims.MonitorEvents

/-- R396: TRET above P0 continues at kepc at the saved level, with the saved MIE and INTRAP cleared; a return from P1 to P2 and
a TRET at P0 take the privilege trap. -/
def Obligations.TrapReturn : Prop :=
  ∀ (o : OpA) (s : State), s.self.predTrap? o.pg = none → s.self.executes s.free o.pg o.pn = true →
    WellFormed (.tret o) →
    (s.self.level = 0 ∨ (s.self.level = 1 ∧ bits s.self.kstatus 0 2 = 2) →
      exec (.tret o) s = .next (s.takeTrap s.cur { cls := 0x04, detail := 0x01, tval := irOf (.tret o) })) ∧
    (s.self.level = 2 ∨ (s.self.level = 1 ∧ bits s.self.kstatus 0 2 ≠ 2) →
      ∃ t, exec (.tret o) s = .next t ∧ t.self.pc = s.self.kepc ∧ t.self.level = bits s.self.kstatus 0 2 ∧
        t.self.mie = bits s.self.kstatus 2 1 ∧ t.self.intrap = false ∧ t.self.calls = 0 ∧
        bits t.self.kstatus 0 3 = bits s.self.kstatus 0 3 ∧
        t.self.g = s.self.g ∧ t.self.v = s.self.v ∧ t.self.q = s.self.q ∧
        (∀ k, k ∈ crNumbers → k ∉ [0x000, 0x001, 0x006] → t.self.cr k = s.self.cr k) ∧
        t.self.acc = s.self.acc ∧ t.self.eps = s.self.eps ∧ SameBeside s.cur s t)

/-- R384: GUARD replaces a guard region and returns the old one; at P0 only by one that narrows it, and otherwise it takes
the local-guard trap with DETAIL 0x0E. -/
def Obligations.GuardResults : Prop :=
  ∀ (o : OpA) (s u : State) (x : Srcs), WellFormed (.guard o) → Issues (fieldsA o) anyLevel [] s x u →
    let n := 0x038 + o.imm.toNat
    (s.self.level ≠ 0 ∨ narrows x.s1 (s.self.cr n) = true →
      ∃ t, exec (.guard o) s = .next t ∧ t.self.pc = nextAddr u.self.pc ∧
        t.self.cr n = x.s1 &&& 0xF0000000FFFFFFFF#64 ∧
        (∀ r : Fin 64, o.d = .g r → r ≠ 0 → t.self.g[r] = s.self.cr n) ∧
        RestKept u t [o.d] [n] ∧ t.self.eps = u.self.eps ∧ SameBeside s.cur u t) ∧
    (s.self.level = 0 → narrows x.s1 (s.self.cr n) = false →
      exec (.guard o) s = .next (s.takeTrap s.cur { cls := 0x05, detail := 0x0E, tval := x.s1 }))

/-- R28: a scalar instruction whose predicate bit does not permit it has no effect, and the core goes on; its predicate is no
use after a last use that traps (R30). -/
def Sys2Proof.Claims.PredicatedOff : Prop :=
  ∀ (i : Instr) (o : OpA) (s : State) (x : Srcs) (r : Word),
    (arithmetic i x = some (o, r) ∨ bitwise i x = some (o, r) ∨ moved i x = some (o, r) ∨
      (∃ b, branching i s x = some b ∧ b.o = o) ∨
      i ∈ [.cmp o, .crd o, .cwr o, .nop o, .ifence o, .syscall o, .brk o, .tret o, .guard o, .ld o, .st o, .ldp o,
        .stp o, .latom o, .park o, .unpark o]) →
    s.self.predTrap? o.pg = none → s.self.executes s.free o.pg o.pn = false → exec i s = .next (s.goOn (nextAddr s.self.pc))

/-- R30, R61: with LUTRAP set, an instruction whose predicate register is freed, and an executing one that reads a freed
register, take the use-after-last-use trap, ktval the specifier of the predicate or of the first such source, and have no
effect. The place of the predicate among the reads is the model's (log 99). -/
def Sys2Proof.Claims.UseAfterLastUse : Prop :=
  ∀ (i : Instr) (o : OpA) (s : State) (x : Srcs) (r : Word),
    (arithmetic i x = some (o, r) ∨ bitwise i x = some (o, r) ∨ moved i x = some (o, r) ∨
      i ∈ [.cmp o, .nop o, .ld o, .st o, .ldp o, .stp o, .latom o, .guard o]) →
    s.self.lutrap = true →
    (o.pg ≠ 0 → s.self.qFreed.getLsbD o.pg.val = true →
      exec i s = .next (s.takeTrap s.cur { cls := 0x06, detail := 0, tval := word (opndCode (.q o.pg)) })) ∧
    (∀ d : Opnd, o.pg = 0 ∨ s.self.qFreed.getLsbD o.pg.val = false → s.self.executes s.free o.pg o.pn = true →
      [o.s1, o.s2, o.s3].find? s.self.isFreed = some d →
        exec i s = .next (s.takeTrap s.cur { cls := 0x06, detail := 0, tval := word (opndCode d) }))

/-- R28, R30, R61: an instruction that its predicate does not permit has no effect, and one that reads a freed register under LUTRAP traps.
Choices of the model: log 99. -/
def Obligations.PredicationAndLastUse : Prop := Claims.PredicatedOff ∧ Claims.UseAfterLastUse

/-- The frame of a register instruction: beside its own core nothing differs, and in it only the code address, the wait, D
and the marks of D and of last uses. -/
def Sys2Proof.Claims.RegisterFrame : Prop :=
  ∀ (u : State) (o : OpA) (d : Opnd) (x pc : Word),
    let c := u.self
    let t := wroteTo u (fieldsA o) d x pc
    let e := t.self
    SameBeside u.cur u t ∧ (∀ k, readByte t.mem k = readByte u.mem k) ∧
    e = { c with pc := e.pc, wait := e.wait, g := e.g, q := e.q, gFreed := e.gFreed, vFreed := e.vFreed,
                 qFreed := e.qFreed } ∧
    e.pc = pc ∧
    (∀ r : Fin 64, d ≠ .g r → e.g[r] = c.g[r]) ∧ (∀ r : Fin 8, d ≠ .q r → e.q[r] = c.q[r]) ∧
    (∀ r : Fin 64, d = .g r → r ≠ 0 → e.g[r] = x ∧ e.gFreed.getLsbD r.val = false) ∧
    (∀ r : Fin 8, d = .q r → r ≠ 0 → e.q[r] = x.setWidth 32 ∧ e.qFreed.getLsbD r.val = false) ∧
    (∀ n k, e.gVal n k 0 = 0 ∧ e.qVal n k 0 = BitVec.allOnes 32) ∧
    (∀ r : Fin 64, d ≠ .g r → (o.l1 = true → o.s1 ≠ .g r) → (o.l2 = true → o.s2 ≠ .g r) →
      (o.l3 = true → o.s3 ≠ .g r) → e.gFreed.getLsbD r.val = c.gFreed.getLsbD r.val) ∧
    (∀ r : Fin 32, (o.l1 = true → o.s1 ≠ .v r) → (o.l2 = true → o.s2 ≠ .v r) → (o.l3 = true → o.s3 ≠ .v r) →
      e.vFreed.getLsbD r.val = c.vFreed.getLsbD r.val)

/-- R78, R173, R398: popping ports changes only the popping core's ports and message counts, the network, and the single-bit
errors that the reads correct, with their counts. -/
def Sys2Proof.Claims.PopFrame : Prop :=
  ∀ (f : Fields) (s u : State) (x : Srcs), sourcesOf f s = some (x, u) →
    u.cur = s.cur ∧ u.mem = s.mem ∧ (∀ j, j ≠ s.cur → u.core j = s.core j) ∧
    u.self = { s.self with eps := u.self.eps, rcvd := u.self.rcvd, sent := u.self.sent } ∧
    (∀ e, e < 16 → u.self.ep e = s.self.ep e) ∧
    { u with cores := s.cores, net := s.net, fresh := s.fresh, soft := s.soft,
             board := { u.board with errors := s.board.errors } } = s

/-- The frame of a register instruction, and of the pops of its sources (R78, R173). -/
def Obligations.RegisterFrames : Prop := Claims.RegisterFrame ∧ Claims.PopFrame

/-! ## Family 2 -/

namespace Sys2Proof.Claims

/-- The words of a load: nothing of the machine differs but the code address, the wait, the listed registers, the marks of
last uses, and the count of corrected errors. -/
def LoadFrame (u t : State) (regs : List Opnd) : Prop :=
  t.self = { u.self with pc := nextAddr u.self.pc, wait := none, g := t.self.g, v := t.self.v, gFreed := t.self.gFreed,
                         vFreed := t.self.vFreed, qFreed := t.self.qFreed } ∧
    (∀ r : Fin 64, .g r ∉ regs → t.self.g[r] = u.self.g[r]) ∧ (∀ r : Fin 32, .v r ∉ regs → t.self.v[r] = u.self.v[r]) ∧
    (∀ j, j ≠ u.cur → t.core j = u.core j) ∧ (∀ k, readByte t.mem k = readByte u.mem k) ∧
    { t with cores := u.cores, free := u.free, soft := u.soft,
             board := { t.board with errors := u.board.errors } } = u

/-- Every write of a command into n bytes at a key has been observed by the core (R216, R219). -/
def Seen (s : State) (key n : Nat) : Prop :=
  ∀ x ∈ s.unsettled, x.cmd.isSome = true → s.cur ∈ x.readers → meets x.key 8 key n = false

/-- The w-bit pattern that the core's program loads from a local address. -/
def loaded (s : State) (a : Word) (w : Nat) : BitVec w := BitVec.ofNat w (leNat (s.loadSeen s.cur a (w / 8)))

/-- What a store of n bytes at a key leaves: every byte outside, every register but D, and of every core all but the dirty
bits and (of its own) the undefined parks. -/
def StoreFrame (u t : State) (key n : Nat) (d : Opnd) : Prop :=
  (∀ k, k < key ∨ key + n ≤ k → readByte t.mem k = readByte u.mem k) ∧
    t.self = { u.self with pc := nextAddr u.self.pc, wait := none, g := t.self.g, gFreed := t.self.gFreed,
                           vFreed := t.self.vFreed, qFreed := t.self.qFreed, dirty := t.self.dirty,
                           parkUndef := t.self.parkUndef } ∧
    (∀ r : Fin 64, d ≠ .g r → t.self.g[r] = u.self.g[r]) ∧
    (∀ j, j ≠ u.cur → t.core j = { u.core j with dirty := (t.core j).dirty }) ∧
    t.flight = u.flight ∧ t.net = u.net ∧ t.parts = u.parts ∧ t.agenda = u.agenda

/-- A park that was defined stays so unless its spill-map entry has changed (R33). -/
def ParksDefined (u t : State) : Prop :=
  ∀ e, e ∈ t.self.parkUndef → e ∉ u.self.parkUndef →
    readBytes t.mem (tcmKey u.cur (u.self.entryAt e).1) (u.self.entryAt e).2 ≠
      readBytes u.mem (tcmKey u.cur (u.self.entryAt e).1) (u.self.entryAt e).2

/-- What PARK and UNPARK leave: every other register, the control registers, other cores, and memory outside the save area. -/
def ParkFrame (s t : State) (ds : List Opnd) : Prop :=
  let lo := tcmKey s.cur (bits s.self.kspill 0 17)
  RegsKept s t ds ∧ (∀ k, k ∈ crNumbers → t.self.cr k = s.self.cr k) ∧ t.self.eps = s.self.eps ∧
    (∀ j, j ≠ s.cur → t.core j = s.core j) ∧
    ∀ k, k < lo ∨ lo + 256 + 32 * bits s.self.kspill 32 10 ≤ k → readByte t.mem k = readByte s.mem k

/-- Byte k of a word. -/
def byteOf (x : Word) (k : Nat) : Byte := x.extractLsb' (8 * k) 8

/-- The new pattern of an atomic operation (R99): 0 add, 1 and, 2 or, 3 xor, 4 min, 5 max, 6 minn, 7 maxn, 8 swap, 9
compare and swap. -/
def atomic (sub : Nat) {w : Nat} (old b c : BitVec w) : BitVec w :=
  match sub with
  | 0 => old + b
  | 1 => old &&& b
  | 2 => old ||| b
  | 3 => old ^^^ b
  | 4 => if b.slt old then b else old
  | 5 => if old.slt b then b else old
  | 6 => if b.ult old then b else old
  | 7 => if old.ult b then b else old
  | 8 => b
  | _ => if old = c then b else old

/-- The w-bit pattern at a key, least significant byte first (R6). -/
def patternAt (m : List Host.Cell) (key w : Nat) : BitVec w := BitVec.ofNat w (leNat (readBytes m key (w / 8)))

end Sys2Proof.Claims

/-- R94, R95: LD and LDP read elements of TY, least significant byte first, extended as TY is signed. -/
def Sys2Proof.Claims.RegisterLoads : Prop :=
  ∀ (o : OpA) (s u : State) (x : Srcs), Issues (fieldsA o) anyLevel [] s x u →
    let a := x.s1 + o.imm.signExtend 64
    let n := tyBits o.ty / 8
    (WellFormed (.ld o) → s.localTrap .load a n n = none →
      ∃ t, exec (.ld o) s = .next t ∧ LoadFrame u t [o.d] ∧
        ∀ r : Fin 64, o.d = .g r → r ≠ 0 →
          t.self.g[r] = extended o.ty (loaded s a (tyBits o.ty)) ∧ t.self.gFreed.getLsbD r.val = false) ∧
    (WellFormed (.ldp o) → s.localTrap .load a (2 * n) (2 * n) = none →
      ∃ t, exec (.ldp o) s = .next t ∧ LoadFrame u t [o.d, nextReg o.d] ∧
        ∀ r : Fin 64, o.d = .g r →
          (r ≠ 0 → t.self.g[r] = extended o.ty (loaded s a (tyBits o.ty))) ∧
          t.self.g[r + 1] = extended o.ty (loaded s (a + BitVec.ofNat 64 n) (tyBits o.ty)))

/-- R97, R216, R219: the bytes that a program loads are those of memory, where it has observed every command that wrote there;
elsewhere each is the byte in memory or the one before such a write. -/
def Sys2Proof.Claims.LoadedBytes : Prop :=
  ∀ (s : State) (a : Word) (n : Nat),
    let key := localKey s.cur a
    (s.loadSeen s.cur a n).length = n ∧
    (Seen s key n → s.loadSeen s.cur a n = readBytes s.mem key n) ∧
    (∀ k b, (s.loadSeen s.cur a n)[k]? = some b →
      b = readByte s.mem (key + k) ∨
      ∃ x ∈ s.unsettled, x.cmd.isSome = true ∧ s.cur ∈ x.readers ∧ x.key = (key + k) / 8 * 8 ∧
        (leBytes 8 x.old)[(key + k) % 8]? = some b)

/-- R94, R95, R97, R219: what LD and LDP read, and what a load may miss. Choices of the model: log 120. -/
def Obligations.LoadResults : Prop := Claims.RegisterLoads ∧ Claims.LoadedBytes

/-- R33, R94, R95: ST and STP write the low bytes of their sources, least significant byte first, and no other byte; the parks
of registers whose entries they do not change stay defined. -/
def Obligations.StoreResults : Prop :=
  ∀ (o : OpA) (s u : State) (x : Srcs), Memory.wf s.mem = true → Issues (fieldsA o) anyLevel [] s x u →
    let a := x.s1 + o.imm.signExtend 64
    let n := tyBits o.ty / 8
    let key := localKey s.cur a
    (WellFormed (.st o) → s.localTrap .store a n n = none →
      ∃ t, exec (.st o) s = .next t ∧ StoreFrame u t key n .none ∧ ParksDefined u t ∧
        ∀ k, k < n → readByte t.mem (key + k) = byteOf x.s2 k) ∧
    (WellFormed (.stp o) → s.localTrap .store a (2 * n) (2 * n) = none →
      ∃ t, exec (.stp o) s = .next t ∧ StoreFrame u t key (2 * n) .none ∧ ParksDefined u t ∧
        ∀ k, k < n → readByte t.mem (key + k) = byteOf x.s2 k ∧ readByte t.mem (key + n + k) = byteOf x.s3 k)

/-- R99: LATOM returns the old element and stores the operation's result. -/
def Obligations.LocalAtomicResults : Prop :=
  ∀ (o : OpA) (s u : State) (x : Srcs), Memory.wf s.mem = true → WellFormed (.latom o) →
    Issues (fieldsA o) anyLevel [] s x u →
    let a := x.s1 + o.imm.signExtend 64
    let w := tyBits o.ty
    let key := localKey s.cur a
    let old := patternAt s.mem key w
    s.localTrap .atomic a (w / 8) (w / 8) = none →
      ∃ t, exec (.latom o) s = .next t ∧ StoreFrame u t key (w / 8) o.d ∧
        patternAt t.mem key w = atomic o.sub.toNat old (x.s2.setWidth w) (x.s3.setWidth w) ∧
        ∀ r : Fin 64, o.d = .g r → r ≠ 0 → t.self.g[r] = extended o.ty old

/-- R96: VLD replaces the active elements of D, VST writes the bytes of the active elements and no others. -/
def Obligations.VectorMemoryResults : Prop :=
  ∀ (o : OpA) (s u : State) (x : Srcs), Memory.wf s.mem = true → Reads (fieldsA o) anyLevel [] s x u →
    let w := tyBits o.ty
    let act := s.self.active s.free o.pg o.pn (256 / w)
    let a := x.s1 + o.imm.signExtend 64
    let key := localKey s.cur a
    act ≠ [] →
    (WellFormed (.vld o) → s.localTrap .load a 32 32 = none →
      ∃ t, exec (.vld o) s = .next t ∧ LoadFrame u t [o.d] ∧
        ∀ (r : Fin 32) (i : Nat), o.d = .v r → i < 256 / w →
          (i ∈ act → t.self.v[r].extractLsb' (w * i) w = (loaded s a 256).extractLsb' (w * i) w) ∧
          (i ∉ act → u.self.vFreed.getLsbD r.val = false →
            t.self.v[r].extractLsb' (w * i) w = u.self.v[r].extractLsb' (w * i) w)) ∧
    (WellFormed (.vst o) → s.localTrap .store a 32 32 = none → poisoned s key 32 = false →
      ∃ t, exec (.vst o) s = .next t ∧ StoreFrame u t key 32 .none ∧
        ∀ (r : Fin 32) (i k : Nat), o.s2 = .v r → s.self.vFreed.getLsbD r.val = false → i < 256 / w → k < w / 8 →
          readByte t.mem (key + i * (w / 8) + k) =
            if i ∈ act then s.self.v[r].extractLsb' (8 * (i * (w / 8) + k)) 8
            else readByte s.mem (key + i * (w / 8) + k))

/-- R93, R98, R124, R399: the checks of a local access, in their order, and the local-guard trap of each. -/
def Sys2Proof.Claims.LocalChecks : Prop :=
  ∀ (s : State) (use : Use) (a : Word) (n align : Nat),
    let c := s.self
    let x := a.toNat
    let inTcm := 0x8000000000000000 ≤ x ∧ x + n ≤ 0x8000000000020000
    let inScratch := 0x8000000100000000 ≤ x ∧ x + n ≤ 0x8000000100400000
    let off := x - 0x8000000000000000
    let system := off < 0x20000 ∧ 0x1F000 - c.chb < off + n
    (¬inTcm → ¬inScratch → s.localTrap use a n align = some { cls := 0x05, detail := 0x01, tval := a }) ∧
    (inTcm ∨ inScratch → x % align ≠ 0 → s.localTrap use a n align = some { cls := 0x05, detail := 0x02, tval := a }) ∧
    (inTcm → x % align = 0 → 0 < n → system → c.chb ≤ 0x1F000 → c.level = 0 ∨ use ≠ .load →
      s.localTrap use a n align = some { cls := 0x05, detail := 0x03, tval := a }) ∧
    (inTcm → x % align = 0 → 0 < n → c.level = 0 → c.kspill ≠ 0 → bits c.kspill 0 17 < off + n →
      off < bits c.kspill 0 17 + 256 + 32 * bits c.kspill 32 10 →
      s.localTrap use a n align = some { cls := 0x05, detail := 0x03, tval := a }) ∧
    (inScratch → x % align = 0 → c.level = 0 → (∀ r : Fin 8, bits c.kguard[r] 63 1 = 0) → 0 < n →
      s.localTrap use a n align = some { cls := 0x05, detail := 0x04, tval := a }) ∧
    (inTcm → x % align = 0 → c.level ≠ 0 → ¬system → poisoned s (localKey s.cur a) n = false →
      s.localTrap use a n align = none) ∧
    (inScratch → x % align = 0 → c.level ≠ 0 → (c.ep 1).binding = .scratch →
      poisoned s (localKey s.cur a) n = false → s.localTrap use a n align = none) ∧
    (inTcm → x % align = 0 → c.level ≠ 0 → ¬system → use ≠ .store → poisoned s (localKey s.cur a) n = true →
      s.localTrap use a n align = some { cls := 0x05, detail := 0x10, tval := a })

/-- R93, R95, R99: a family-2 access that fails a check takes its trap and has no effect. -/
def Sys2Proof.Claims.LocalTraps : Prop :=
  ∀ (o : OpA) (s u : State) (x : Srcs) (tr : Trap), Issues (fieldsA o) anyLevel [] s x u →
    let a := x.s1 + o.imm.signExtend 64
    let n := tyBits o.ty / 8
    (s.localTrap .load a n n = some tr → exec (.ld o) s = .next (s.takeTrap s.cur tr)) ∧
    (s.localTrap .load a (2 * n) (2 * n) = some tr → exec (.ldp o) s = .next (s.takeTrap s.cur tr)) ∧
    (s.localTrap .store a n n = some tr → exec (.st o) s = .next (s.takeTrap s.cur tr)) ∧
    (s.localTrap .store a (2 * n) (2 * n) = some tr → exec (.stp o) s = .next (s.takeTrap s.cur tr)) ∧
    (s.localTrap .atomic a n n = some tr → exec (.latom o) s = .next (s.takeTrap s.cur tr))

/-- R93, R95, R98, R99, R124, R399: the checks of a local access in their order, and the trap of one that fails.
Choices of the model: log 22. -/
def Obligations.LocalAccessChecks : Prop := Claims.LocalChecks ∧ Claims.LocalTraps

/-- R31, R32, R100, R101: PARK puts a register's bits at the first free place, records the place in the spill map and frees
the register; UNPARK restores the register from its place, which is free again; where R32 or R33 leaves neither undefined,
and nothing that they read is poisoned (R399). -/
def Sys2Proof.Claims.Parks : Prop :=
  ∀ (o : OpA) (s u : State) (x : Srcs), Memory.wf s.mem = true → s.self.kspill ≠ 0 →
    bits s.self.kspill 0 17 + 256 + 32 * bits s.self.kspill 32 10 ≤ 0x20000 → bits s.self.kspill 32 10 ≤ 512 →
    (∀ p, WellFormed (.park o) → Issues { fieldsA o with l1 := false } anyLevel [] s x u →
      let e := entryNo o.s1
      s.entryTrap s.cur e = none → s.parkedAt s.cur e = none → e ∉ s.self.parkUndef →
      s.self.freePlace (match o.s1 with
        | .q _ => true
        | _ => false) = some p →
      ∃ t, exec (.park o) s = .next t ∧ t.self.pc = nextAddr u.self.pc ∧ t.parkedAt s.cur e = some p ∧
        t.placeBits s.cur p = s.self.parkBits s.free o.s1 ∧ t.self.isFreed o.s1 = true ∧
        (∀ n : Fin 256, p = .column n.val → t.self.acc[n].state = .park ∧ t.self.acc[n].fmt = parkFmt o.s1) ∧
        t.self.freePlace false ≠ some p ∧ ParkFrame s t []) ∧
    (∀ p, WellFormed (.unpark o) → Issues (fieldsA o) anyLevel [] s x u →
      let e := entryNo o.d
      s.entryTrap s.cur e = none → s.parkedAt s.cur e = some p → s.placeTrap s.cur p = none → e ∉ s.self.parkUndef →
      ∃ t, exec (.unpark o) s = .next t ∧ t.self.pc = nextAddr u.self.pc ∧ t.parkedAt s.cur e = none ∧
        t.self.isFreed o.d = false ∧ ParkFrame s t [o.d] ∧
        (∀ n : Fin 256, p = .column n.val → t.self.acc[n] = {}) ∧
        (∀ n : Fin 32, p = .bank n.val → t.self.bankOcc.getLsbD n.val = false) ∧
        (∀ n : Fin 512, p = .stack n.val → t.self.stackOcc.getLsbD n.val = false) ∧
        (∀ r : Fin 64, o.d = .g r → t.self.g[r] = (s.placeBits s.cur p).setWidth 64) ∧
        (∀ r : Fin 32, o.d = .v r → t.self.v[r] = s.placeBits s.cur p) ∧
        (∀ r : Fin 8, o.d = .q r → t.self.q[r] = (s.placeBits s.cur p).setWidth 32))

/-- R31, R32, R100, R101: PARK without a park area or without a free place, PARK of a parked register and UNPARK of one that
is not parked take the local-guard trap, with no effect. -/
def Sys2Proof.Claims.ParkTraps : Prop :=
  ∀ (o : OpA) (s u : State) (x : Srcs),
    (Issues { fieldsA o with l1 := false } anyLevel [] s x u →
      (s.self.kspill = 0 → exec (.park o) s = .next (s.takeTrap s.cur { cls := 0x05, detail := 0x05, tval := 0 })) ∧
      (s.self.kspill ≠ 0 → s.entryTrap s.cur (entryNo o.s1) = none →
        ((s.parkedAt s.cur (entryNo o.s1)).isSome = true → exec (.park o) s =
          .next (s.takeTrap s.cur { cls := 0x05, detail := 0x06, tval := word (opndCode o.s1) })) ∧
        (s.parkedAt s.cur (entryNo o.s1) = none → s.self.freePlace (match o.s1 with
            | .q _ => true
            | _ => false) = none →
          exec (.park o) s = .next (s.takeTrap s.cur { cls := 0x05, detail := 0x05, tval := s.self.kspill })))) ∧
    (Issues (fieldsA o) anyLevel [] s x u → s.entryTrap s.cur (entryNo o.d) = none →
      s.parkedAt s.cur (entryNo o.d) = none → exec (.unpark o) s =
        .next (s.takeTrap s.cur { cls := 0x05, detail := 0x07, tval := word (opndCode o.d) }))

/-- R31, R32, R100, R101: what PARK and UNPARK do, and their traps. -/
def Obligations.ParkResults : Prop := Claims.Parks ∧ Claims.ParkTraps

/-! ## Family 5 -/

namespace Sys2Proof.Claims

/-- What a lane instruction does: the elements that its predicate governs, the width of the elements it writes, and per active
element the place, the pattern and the events. -/
structure Laned where
  o : OpA
  n : Nat
  w : Nat
  lane : Nat → Nat × BitVec w × Ev

/-- Element j of width w of a register. -/
def element (w : Nat) (v : VReg) (j : Nat) : BitVec w := v.extractLsb' (w * j) w

/-- The immediate of a lane (R252). -/
def immLane (o : OpA) : BitVec (tyBits o.ty) :=
  if o.ty = .fp64 then BitVec.ofNat _ (convert .fp32 .fp64 .rne false o.imm.toNat).bits
  else if tySigned o.ty then o.imm.signExtend _ else o.imm.setWidth _

/-- b[j] of R252: an element of a v register, the low bits of a word, or the immediate. -/
def laneB (o : OpA) (s : State) (x : Srcs) (j : Nat) : BitVec (tyBits o.ty) :=
  match o.s2 with
  | .v r => element _ (s.self.vVal s.free 2 r) j
  | .none => immLane o
  | _ => x.s2.setWidth _

/-- An integer lane result (R255): wrapped, or under SAT the exact integer limited, with kev5 where it was. -/
def integerLane (o : OpA) {w : Nat} (wrapped : BitVec w) (exact : Int) : BitVec w × Ev :=
  let lo : Int := if tySigned o.ty then -(2 ^ (w - 1)) else 0
  let hi : Int := if tySigned o.ty then 2 ^ (w - 1) - 1 else 2 ^ w - 1
  if o.sat then (BitVec.ofInt w (max lo (min hi exact)), if exact < lo ∨ hi < exact then 1#16 <<< 5 else 0)
  else (wrapped, 0)

/-- A lane of a floating result. -/
def floatLane (w : Nat) (r : FRes) : BitVec w × Ev := (BitVec.ofNat w r.bits, r.ev)

/-- The integer, bitwise and copying lane instructions (R255, R256, R257, R259, R261, R262). -/
def lanedBits (i : Instr) (s : State) (x : Srcs) : Option Laned :=
  let a (o : OpA) (j : Nat) : BitVec (tyBits o.ty) := element _ (s.self.srcV s.free 1 o.s1) j
  let b (o : OpA) (j : Nat) : BitVec (tyBits o.ty) := laneB o s x j
  let mk (o : OpA) (f : Nat → BitVec (tyBits o.ty) × Ev) : Option Laned :=
    some { o := o, n := 256 / tyBits o.ty, w := tyBits o.ty, lane := fun j => (j, f j) }
  let int (o : OpA) (f : Nat → BitVec (tyBits o.ty) × Ev) : Option Laned := if isFloat o.ty then none else mk o f
  let less (o : OpA) (j : Nat) : Bool := if tySigned o.ty then (a o j).slt (b o j) else (a o j).ult (b o j)
  match i with
  | .vadd o => int o fun j => integerLane o (a o j + b o j) (valueOf o.ty (a o j) + valueOf o.ty (b o j))
  | .vsub o => int o fun j => integerLane o (a o j - b o j) (valueOf o.ty (a o j) - valueOf o.ty (b o j))
  | .vmul o => int o fun j => integerLane o (a o j * b o j) (valueOf o.ty (a o j) * valueOf o.ty (b o j))
  | .vmin o => int o fun j => (if less o j then a o j else b o j, 0)
  | .vmax o => int o fun j => (if less o j then b o j else a o j, 0)
  | .vabs o => int o fun j =>
    let n := valueOf o.ty (a o j)
    integerLane o (if n < 0 then -(a o j) else a o j) (if n < 0 then -n else n)
  | .vneg o => int o fun j => integerLane o (-(a o j)) (-(valueOf o.ty (a o j)))
  | .vand o => mk o fun j => (a o j &&& b o j, 0)
  | .vor o => mk o fun j => (a o j ||| b o j, 0)
  | .vxor o => mk o fun j => (a o j ^^^ b o j, 0)
  | .vshl o => mk o fun j =>
    let n := min (b o j).toNat (tyBits o.ty)
    integerLane o (a o j <<< n) (valueOf o.ty (a o j) * 2 ^ n)
  | .vshr o => mk o fun j => (a o j >>> min (b o j).toNat (tyBits o.ty), 0)
  | .vshra o => mk o fun j => ((a o j).sshiftRight (min (b o j).toNat (tyBits o.ty)), 0)
  | .vmov o => mk o fun j => (a o j, 0)
  | .vmovi o => mk o fun _ => (immLane o, 0)
  | .vsel o => mk o fun j => (if x.s3.getLsbD j then a o j else b o j, 0)
  | .vbcast o => mk o fun _ =>
    (match o.s1 with
     | .v r => element _ (s.self.vVal s.free 1 r) o.imm.toNat
     | _ => x.s1.setWidth _, 0)
  | .vperm o =>
    let n := 256 / tyBits o.ty
    let c : VReg := s.self.srcV s.free 3 o.s3
    mk o fun j =>
      let t := (element 8 (s.self.srcV s.free 2 o.s2) j).toNat
      (if 128 ≤ t then 0
       else if o.s3 = .none then a o (t % n)
       else if t % (2 * n) < n then a o (t % (2 * n))
       else element _ c (t % (2 * n) - n), 0)
  | _ => none

/-- The floating lane instructions (R254, R256 to R258), under the mode of RM, which DYN takes from kfp (R56). -/
def lanedFloat (i : Instr) (s : State) (x : Srcs) : Option Laned :=
  let a (o : OpA) (j : Nat) : Nat := (element (tyBits o.ty) (s.self.srcV s.free 1 o.s1) j).toNat
  let b (o : OpA) (j : Nat) : Nat := (laneB o s x j).toNat
  let c (o : OpA) (j : Nat) : Nat := (element (tyBits o.ty) (s.self.srcV s.free 3 o.s3) j).toNat
  let mk (o : OpA) (f : Rm → Nat → FRes) : Option Laned :=
    let rm := if o.rm = .dyn then (rmOfCode (bits s.self.kfp 0 3)).getD .rne else o.rm
    if isFloat o.ty then
      some { o := o, n := 256 / tyBits o.ty, w := tyBits o.ty, lane := fun j => (j, floatLane _ (f rm j)) }
    else none
  let sign (o : OpA) (j : Nat) (flip : Bool) : FRes :=
    let h := (fmtOf o.ty).signBit
    { bits := if (unpack o.ty (a o j)).isNan then nanOf o.ty
        else if flip && decide (a o j < h) then a o j + h else a o j % h }
  match i with
  | .vadd o => mk o fun rm j => fAdd o.ty rm o.sat false (a o j) (b o j)
  | .vsub o => mk o fun rm j => fAdd o.ty rm o.sat true (a o j) (b o j)
  | .vmul o => mk o fun rm j => fMul o.ty rm o.sat (a o j) (b o j)
  | .vfma o => mk o fun rm j => fFma o.ty rm o.sat false false (a o j) (b o j) (c o j)
  | .vfms o => mk o fun rm j => fFma o.ty rm o.sat false true (a o j) (b o j) (c o j)
  | .vfnma o => mk o fun rm j => fFma o.ty rm o.sat true false (a o j) (b o j) (c o j)
  | .vmin o => mk o fun _ j => fMinMax o.ty false (a o j) (b o j)
  | .vmax o => mk o fun _ j => fMinMax o.ty true (a o j) (b o j)
  | .vabs o => mk o fun _ j => sign o j false
  | .vneg o => mk o fun _ j => sign o j true
  | .vdiv o => mk o fun rm j => fDiv o.ty rm o.sat (a o j) (b o j)
  | .vsqrt o => mk o fun rm j => fSqrt o.ty rm (a o j)
  | .vrcp o => mk o fun rm j => fRcp o.ty rm o.sat (a o j)
  | .vrsq o => mk o fun rm j => fRsq o.ty rm o.sat (a o j)
  | .vexp2 o => mk o fun rm j => fExp2 o.ty rm o.sat (a o j)
  | .vlog2 o => mk o fun rm j => fLog2 o.ty rm (a o j)
  | _ => none

/-- The converting lane instructions (R264 to R266) and CEVRD without CLR (R269). -/
def lanedConvert (i : Instr) (s : State) (_x : Srcs) : Option Laned :=
  let v1 (o : OpA) : VReg := s.self.srcV s.free 1 o.s1
  let v2 (o : OpA) : VReg := s.self.srcV s.free 2 o.s2
  let v3 (o : OpA) : VReg := s.self.srcV s.free 3 o.s3
  let rm (o : OpA) : Rm := if o.rm = .dyn then (rmOfCode (bits s.self.kfp 0 3)).getD .rne else o.rm
  let src (o : OpA) : Ty := (tyOfCode o.sub.toNat).getD .i8
  match i with
  | .vdot o =>
    let w := tyBits (src o)
    let g := tyBits o.ty / w
    some { o := o, n := 8, w := 32, lane := fun j =>
      let c := (element 32 (v3 o) j).toNat
      let ps := (List.range g).map fun k => ((element w (v1 o) (g * j + k)).toNat, (element w (v2 o) (g * j + k)).toNat)
      (j, if isFloat o.ty then floatLane 32 (dotElem o (src o) (rm o) ps c)
          else
            let exact := intOf o.ty c + (ps.map fun p => intOf (src o) p.1 * intOf (src o) p.2).sum
            integerLane o (BitVec.ofInt 32 exact) exact) }
  | .vcvt o =>
    let ws := tyBits (src o)
    let wd := tyBits o.ty
    let n := 256 / max ws wd
    let part := (o.imm.extractLsb' 0 4).toNat
    some { o := o, n := n, w := wd, lane := fun j =>
      if wd < ws then (part * n + j, floatLane wd (convert (src o) o.ty (rm o) o.sat (element ws (v1 o) j).toNat))
      else (j, floatLane wd (convert (src o) o.ty (rm o) o.sat (element ws (v1 o) (part * n + j)).toNat)) }
  | .vpack o =>
    let ws := tyBits (src o)
    let wd := tyBits o.ty
    let n := 256 / wd
    some { o := o, n := n, w := wd, lane := fun j =>
      (j, floatLane wd (placeInt o.ty o.sat (intOf (src o)
        (if j < n / 2 then element ws (v1 o) j else element ws (v2 o) (j - n / 2)).toNat))) }
  | .vunpk o =>
    let ws := tyBits (src o)
    let n := 256 / tyBits o.ty
    some { o := o, n := n, w := tyBits o.ty, lane := fun j =>
      (j, floatLane _ (placeInt o.ty o.sat (intOf (src o)
        (element ws (v1 o) ((if o.imm.getLsbD 0 then n else 0) + j)).toNat))) }
  | .cevrd o =>
    if o.imm.getLsbD 8 then none
    else
      some { o := o, n := 8, w := 32, lane := fun j =>
        (j, (s.self.kev[(if o.imm.getLsbD 0 then 8 else 0) + j]!).setWidth 32, 0) }
  | _ => none

/-- The counters after the events of a list of elements (R249). -/
def Counted (u t : State) (es : List Ev) : Prop :=
  ∀ k : Fin 16, bits u.self.kev[k] 32 32 = 0 →
    t.self.kev[k] = BitVec.ofNat 64 (min (u.self.kev[k].toNat + es.countP fun e => e.getLsbD k.val) 0xFFFFFFFF)

/-- Nothing differs but the issuing core's code address, wait, v register D, counters and marks. -/
def LaneFrame (u t : State) (d : Opnd) : Prop :=
  t.self = { u.self with pc := nextAddr u.self.pc, wait := none, v := t.self.v, kev := t.self.kev,
                         gFreed := t.self.gFreed, vFreed := t.self.vFreed, qFreed := t.self.qFreed } ∧
    (∀ r : Fin 32, d ≠ .v r → t.self.v[r] = u.self.v[r]) ∧ SameBeside u.cur u t

/-- Beside listed registers and the counters nothing of the core differs but code address, wait and marks. -/
def VectorFrame (u t : State) (ds : List Opnd) : Prop :=
  t.self = { u.self with pc := t.self.pc, wait := none, g := t.self.g, v := t.self.v, q := t.self.q, kev := t.self.kev,
                         gFreed := t.self.gFreed, vFreed := t.self.vFreed, qFreed := t.self.qFreed } ∧ RegsKept u t ds

/-- The state after a lane instruction: the elements of D that it writes, the others kept, and the events counted. -/
def LanesWritten (s u t : State) (l : Laned) : Prop :=
  let act := s.self.active s.free l.o.pg l.o.pn l.n
  LaneFrame u t l.o.d ∧ Counted u t (act.map fun j => (l.lane j).2.2) ∧
    ∀ r : Fin 32, l.o.d = .v r →
      t.self.vFreed.getLsbD r.val = false ∧
      (∀ j, j ∈ act → element l.w t.self.v[r] (l.lane j).1 = (l.lane j).2.1) ∧
      (∀ k, k < 256 / l.w → (∀ j, j ∈ act → (l.lane j).1 ≠ k) → (u.begin (fieldsA l.o)).self.vFreed.getLsbD r.val = false →
        element l.w t.self.v[r] k = element l.w u.self.v[r] k)

end Sys2Proof.Claims

/-- R253, R255 to R257, R259, R261, R262: the integer, bitwise and copying lane instructions. -/
def Obligations.IntegerLaneResults : Prop :=
  ∀ (i : Instr) (l : Laned) (s u : State) (x : Srcs), WellFormed i → lanedBits i s x = some l →
    Reads (fieldsA l.o) anyLevel [] s x u → s.self.active s.free l.o.pg l.o.pn l.n ≠ [] →
      ∃ t, exec i s = .next t ∧ LanesWritten s u t l

/-- R253, R254, R256 to R258: the floating lane instructions, each rounding its exact result once.
Choices of the model: log 16. -/
def Obligations.FloatingLaneResults : Prop :=
  ∀ (i : Instr) (l : Laned) (s u : State) (x : Srcs), WellFormed i → lanedFloat i s x = some l →
    Reads (fieldsA l.o) anyLevel [] s x u → s.self.active s.free l.o.pg l.o.pn l.n ≠ [] →
      ∃ t, exec i s = .next t ∧ LanesWritten s u t l

/-- R264 to R266, R269: dot products, conversions, packing and the reading of counters. Choices of the model: log 30. -/
def Obligations.ConvertingLaneResults : Prop :=
  ∀ (i : Instr) (l : Laned) (s u : State) (x : Srcs), WellFormed i → lanedConvert i s x = some l →
    Reads (fieldsA l.o) anyLevel [] s x u → s.self.active s.free l.o.pg l.o.pn l.n ≠ [] →
      ∃ t, exec i s = .next t ∧ LanesWritten s u t l

/-- R260, R262, R263: VCMP writes the bits of the active elements; VEXT and VINS move one element; VRED writes the sum or the
combination of the active elements, an integer one exact and narrowed once, to element 0 of a register of zeros; a floating NaN is the canonical one, also where it
is alone (R238).
Choices of the model: log 29, 31. -/
def Obligations.ElementResults : Prop :=
  ∀ (o : OpA) (s u : State) (x : Srcs) ,
    let w := tyBits o.ty
    let n := 256 / w
    let act := s.self.active s.free o.pg o.pn n
    let a (j : Nat) : BitVec w := element w (s.self.srcV s.free 1 o.s1) j
    let index := if o.s2 = .none then o.imm.toNat else x.s2.toNat % n
    let values := act.map fun j => valueOf o.ty (a j)
    (WellFormed (.vcmp o) → Reads (fieldsA o) anyLevel [] s x u → act ≠ [] →
      let holds (j : Nat) : Bool := if isFloat o.ty then holdsFloat o.ty o.sub.toNat (a j).toNat (laneB o s x j).toNat
        else holdsInt o.ty o.sub.toNat (a j) (laneB o s x j)
      ∃ t, exec (.vcmp o) s = .next t ∧ SameBeside s.cur u t ∧ t.self.pc = nextAddr u.self.pc ∧ VectorFrame u t [o.d] ∧
        Counted u t (act.map fun j =>
          (if isFloat o.ty && cmpInvalid o.ty o.sub.toNat (a j).toNat (laneB o s x j).toNat then 1 else 0) |||
            if isFloat o.ty && (isSubnormal o.ty (a j).toNat || isSubnormal o.ty (laneB o s x j).toNat) then 1#16 <<< 14
            else 0) ∧
        ∀ (q : Fin 8) (j : Nat), o.d = .q q → q ≠ 0 → j < 32 → u.self.qFreed.getLsbD q.val = false →
          t.self.q[q].getLsbD j = if j ∈ act then holds j else u.self.q[q].getLsbD j) ∧
    (WellFormed (.vext o) → Issues (fieldsA o) anyLevel [] s x u →
      exec (.vext o) s = .next (wrote u (fieldsA o) o.d
        (if tySigned o.ty then (a index).signExtend 64 else (a index).setWidth 64))) ∧
    (WellFormed (.vins o) → Issues (fieldsA o) anyLevel [o.d] s x u →
      ∃ t, exec (.vins o) s = .next t ∧ LaneFrame u t o.d ∧
        ∀ (r : Fin 32) (k : Nat), o.d = .v r → k < n → s.self.vFreed.getLsbD r.val = false →
          element w t.self.v[r] k = if k = index then x.s1.setWidth w else element w s.self.v[r] k) ∧
    (WellFormed (.vred o) → Reads (fieldsA o) anyLevel [] s x u → act ≠ [] → isFloat o.ty = false →
      ∃ t, exec (.vred o) s = .next t ∧ LaneFrame u t o.d ∧
        ∀ r : Fin 32, o.d = .v r →
          t.self.v[r] = ((match o.sub.toNat with
            | 0 => (integerLane o (BitVec.ofInt w values.sum) values.sum).1
            | 1 | 3 => BitVec.ofInt w (values.foldl min (values.headD 0))
            | 2 | 4 => BitVec.ofInt w (values.foldl max (values.headD 0))
            | 5 => (act.map a).foldl (fun p q => p &&& q) (BitVec.allOnes w)
            | 6 => (act.map a).foldl (fun p q => p ||| q) 0
            | _ => (act.map a).foldl (fun p q => p ^^^ q) 0).setWidth 256)) ∧
    (WellFormed (.vred o) → Reads (fieldsA o) anyLevel [] s x u → act ≠ [] → isFloat o.ty = true → o.sub = 0 →
      ∃ t, exec (.vred o) s = .next t ∧ LaneFrame u t o.d ∧
        (∀ (r : Fin 32) (j k : Nat), o.d = .v r → act = [j, k] → j + 1 = k → j % 2 = 0 →
          t.self.v[r] = BitVec.ofNat 256 (canonical o.ty
            (fAdd o.ty (if o.rm = .dyn then (rmOfCode (bits s.self.kfp 0 3)).getD .rne else o.rm) o.sat false
              (a j).toNat (a k).toNat).bits)) ∧
        ∀ (r : Fin 32) (j : Nat), o.d = .v r → act = [j] →
          t.self.v[r] = if (unpack o.ty (a j).toNat).isNan then BitVec.ofNat 256 (nanOf o.ty) else (a j).setWidth 256)

/-- R245, R247, R267, R268: VQUANT writes the elements and the scale of the block that its 32 inputs give, inactive ones
taken as +0; VDEQ writes the values of a block's elements, rounded under the mode to fp16 and bf16, and to fp32 exact but for
an overflow to infinity (R244); CEVRD with CLR zeroes the counters that it reads (R269).
Choices of the model: log 30. -/
def Obligations.BlockResults : Prop :=
  ∀ (o : OpA) (s u : State) (x : Srcs),
    let src := (tyOfCode o.sub.toNat).getD .i8
    let act := s.self.active s.free o.pg o.pn 32
    let reg (d : Opnd) (k : Nat) : Fin 32 := match d with
      | .v r => r + Fin.ofNat 32 k
      | _ => 0
    (WellFormed (.vquant o) →
      Reads { fieldsA o with s3 := .none, l1 := false, l3 := false } anyLevel
        ((List.range (tyBits src / 8)).map fun k => .v (reg o.s1 k)) s x u → act ≠ [] → s.self.vFreed = 0 →
      let per := 256 / tyBits src
      let input (j : Nat) : Nat :=
        if j ∈ act then (element (tyBits src) s.self.v[reg o.s1 (j / per)] (j % per)).toNat else 0
      let q := quantise o.ty o.sat ((List.range 32).map fun j => unpack src (input j))
      ∃ t, exec (.vquant o) s = .next t ∧ t.self.pc = nextAddr u.self.pc ∧ SameBeside s.cur u t ∧ VectorFrame u t [o.d, o.s3] ∧
        (∀ r : Fin 64, o.s3 = .g r → r ≠ 0 → t.self.g[r] = BitVec.ofNat 64 q.scale) ∧
        ∀ (r : Fin 32) (j : Nat) (e : FRes), o.d = .v r → q.elems[j]? = some e → j < 32 →
          element (tyBits o.ty) t.self.v[r] j = BitVec.ofNat (tyBits o.ty) e.bits) ∧
    (WellFormed (.vdeq o) → Reads (fieldsA o) anyLevel [] s x u → act ≠ [] →
      let per := 256 / tyBits o.ty
      let rm := if o.ty = .fp32 then .rne
        else if o.rm = .dyn then (rmOfCode (bits s.self.kfp 0 3)).getD .rne else o.rm
      ∃ t, exec (.vdeq o) s = .next t ∧ t.self.pc = nextAddr u.self.pc ∧ SameBeside s.cur u t ∧
        VectorFrame u t ((List.range (tyBits o.ty / 8)).map fun k => .v (reg o.d k)) ∧
        ∀ j, j < 32 → j ∈ act →
          element (tyBits o.ty) t.self.v[reg o.d (j / per)] (j % per) =
            BitVec.ofNat (tyBits o.ty) (roundVal o.ty rm false (blockDecode src x.s2.toNat
              (element (tyBits src) (s.self.srcV s.free 1 o.s1) j).toNat)).bits) ∧
    (WellFormed (.cevrd o) → Reads (fieldsA o) anyLevel [] s x u → o.imm.getLsbD 8 = true →
      let bank := if o.imm.getLsbD 0 then 8 else 0
      s.self.active s.free o.pg o.pn 8 ≠ [] →
      ∃ t, exec (.cevrd o) s = .next t ∧ t.self.pc = nextAddr u.self.pc ∧ SameBeside s.cur u t ∧ VectorFrame u t [o.d] ∧
        (∀ (r : Fin 32) (j : Nat), o.d = .v r → j ∈ s.self.active s.free o.pg o.pn 8 →
          element 32 t.self.v[r] j = (s.self.kev[bank + j]!).setWidth 32) ∧
        (∀ j, j ∈ s.self.active s.free o.pg o.pn 8 → t.self.kev[bank + j]! = 0) ∧
        (∀ k : Fin 16, (∀ j, j ∈ s.self.active s.free o.pg o.pn 8 → bank + j ≠ k.val) → bits u.self.kev[k] 32 32 = 0 →
          t.self.kev[k] = u.self.kev[k]))

/-! ## Family 3 -/

namespace Sys2Proof.Claims

/-- A channel instruction passes its privilege check and the refusals of R156, and its sources are read. -/
def ChanIssues (o : OpC) (f : Fields) (priv : Core → Option Trap) (refused : List Nat) (s : State) (x : Srcs)
    (u : State) : Prop :=
  Issues f priv [] s x u ∧ refused = [] ∧ 2 ≤ epNo o.ep

/-- Outside its own core and the network nothing differs, and within the core only the listed endpoints and registers, the
counts of messages, and what is kept of closed channels. -/
def ChanFrame (u t : State) (e : Nat) (eps : List Nat) (ds : List Opnd) : Prop :=
  t.self.pc = nextAddr u.self.pc ∧ t.self.wait = none ∧
    (∀ j, j ≠ u.cur → t.core j = u.core j) ∧
    (∀ k, k < 20 → k ≠ e → k ∉ eps → t.self.ep k = u.self.ep k) ∧
    RestKept u t ds [] ∧ t.self.cmds = u.self.cmds ∧
    t.flight = u.flight ∧ t.parts = u.parts ∧ t.agenda = u.agenda

/-- A message has left endpoint e of the issuing core (R162): its packet, and the endpoint's counts and state. -/
def Transmitted (u t : State) (e act mt : Nat) (cls : Cls) (data : List Byte) : Prop :=
  let ep := u.self.ep e
  let slot := u.slot u.cur ep.slot
  let d := t.self.ep e
  (∃ p, t.net = u.net ++ [p] ∧ p.cls = cls ∧ p.chan = ep.chan ∧ p.ep = ep.peerEp ∧ p.dst = u.route u.cur ep ∧
    ∃ g, p.body = .msg ep.sseq mt data false g) ∧
  d.sseq = (ep.sseq + 1) % 2 ^ 16 ∧ d.credit = ep.credit + 1 ∧ d.outstd = ep.outstd + 1 ∧
  (∀ tr, theTransition? slot ep.state act mt = some tr →
    d.state = tr.dst ∧ (isLoopHead slot tr.dst = true → d.loopHd = tr.dst ∧ d.loopCnt = 0) ∧
    (isLoopHead slot tr.dst = false → d.loopHd = ep.loopHd ∧ d.loopCnt = ep.loopCnt)) ∧
  d.rseq = ep.rseq ∧ d.mode = ep.mode ∧ t.self.sent = (u.self.sent + 1) % 2 ^ 64

/-- A message has been delivered from endpoint e of the issuing core (R164): its credit returns to the peer, and the endpoint's
counts and state. -/
def Delivered (u t : State) (e act mt : Nat) : Prop :=
  let ep := u.self.ep e
  let slot := u.slot u.cur ep.slot
  let d := t.self.ep e
  (∃ p, t.net = u.net ++ [p] ∧ p.chan = ep.chan ∧ p.ep = ep.peerEp ∧ p.dst = u.route u.cur ep ∧ p.body = .credit) ∧
  d.rseq = (ep.rseq + 1) % 2 ^ 16 ∧ d.outstd = 0 ∧ d.sseq = ep.sseq ∧ d.credit = ep.credit ∧
  (ep.rslots ≠ 0 → d.rhead = (ep.rhead + 1) % ep.rslots) ∧
  (∀ tr, theTransition? slot ep.state act mt = some tr →
    d.state = tr.dst ∧ (isLoopHead slot tr.dst = true → d.loopHd = tr.dst ∧ d.loopCnt = 0) ∧
    (isLoopHead slot tr.dst = false → d.loopHd = ep.loopHd ∧ d.loopCnt = min (ep.loopCnt + 1) 0xFFFF)) ∧
  t.self.rcvd = (u.self.rcvd + 1) % 2 ^ 64

/-- The next message of an endpoint with a user protocol can be delivered: it has arrived whole, no close word stands before
it, and its slot is not poisoned. -/
def Deliverable (s : State) (e : Nat) (m : Arrived) (bs : List Byte) : Prop :=
  let ep := s.self.ep e
  let slot := s.slot s.cur ep.slot
  let n := msgSize (typeEnt slot m.mt)
  let k := tcmKey s.cur (ep.slotAt (storedSlotSize slot) m.seq)
  ep.binding = .user ∧ ep.nextMsg? = some m ∧ ep.nextClose? = none ∧ poisoned s k n = false ∧
    bs = readBytes s.mem k n

end Sys2Proof.Claims

/-- R162, R163, R166: SEND, SENDV, SENDT and SELECT on a bound endpoint with a credit free send one message and take their
transition; SEND on a LINK port sends its word to the neighbour (R147). -/
def Obligations.SendResults : Prop :=
  ∀ (o : OpC) (s u : State) (x : Srcs),
    let e := epNo o.ep
    let mt := o.mt.val
    let ty := s.typeAt s.cur e mt
    let user := (s.self.ep e).binding = .user ∧ (u.self.ep e).binding = .user ∧
      (u.self.ep e).credit + 1 ≤ storedOutMsg (u.slot u.cur (u.self.ep e).slot)
    (WellFormed (.send o) → ChanIssues o (fieldsC o) (limitPriv (irOf (.send o)) o.imm) (s.refusals s.cur e .send mt) s x u →
      user → mt ≠ 0 ∨ s.ownEntries s.cur = [] →
      ∃ t, exec (.send o) s = .next t ∧ ChanFrame u t e [] [o.d, o.s3] ∧ Transmitted u t e 0 mt o.cls (leBytes 8 x.s1.toNat)) ∧
    (WellFormed (.send o) → ChanIssues o (fieldsC o) (limitPriv (irOf (.send o)) o.imm) (s.refusals s.cur e .send mt) s x u →
      (s.self.ep e).binding = .link → (u.self.ep e).binding = .link →
      ∀ j, s.neighbour? s.cur (e - 16) = some j → u.linkLoad j (16 + opposite (e - 16)) < 16 →
      ∃ t p, exec (.send o) s = .next t ∧ ChanFrame u t e [e] [] ∧ t.net = u.net ++ [p] ∧ p.dst = j ∧
        p.ep = 16 + opposite (e - 16) ∧ p.body = .word x.s1) ∧
    (WellFormed (.sendv o) → ChanIssues o (fieldsC o) (limitPriv (irOf (.sendv o)) o.imm) (s.refusals s.cur e .sendv mt) s x u →
      user → mt ≠ 0 ∨ s.ownEntries s.cur = [] →
      ∃ t, exec (.sendv o) s = .next t ∧ ChanFrame u t e [] [o.d, o.s3] ∧
        Transmitted u t e 0 mt o.cls (leBytes 32 (s.self.srcV s.free 1 o.s1).toNat)) ∧
    (WellFormed (.sendt o) → ChanIssues o (fieldsC o) (limitPriv (irOf (.sendt o)) o.imm) (s.refusals s.cur e .sendt mt) s x u →
      user → mt ≠ 0 ∨ s.ownEntries s.cur = [] → s.self.wait = none →
      o.s2 = .none → s.tileTrap .load ty x.s1 none = none →
      ∃ t, exec (.sendt o) s = .next t ∧ ChanFrame u t e [] [o.d, o.s3] ∧
        Transmitted u t e 0 mt o.cls (readBytes s.mem (localKey s.cur x.s1) (msgSize ty))) ∧
    (WellFormed (.select o) → ChanIssues o (fieldsC o) (limitPriv (irOf (.select o)) o.imm) (s.refusals s.cur e .select mt) s x u →
      user → ∃ t, exec (.select o) s = .next t ∧ ChanFrame u t e [] [o.d, o.s3] ∧ Transmitted u t e 2 mt o.cls (leBytes 8 mt))

/-- R149, R166, R167: DELEG sends the four words of the named endpoint, which becomes UNBOUND with its buffer kept; ADOPT
binds the named endpoint in HANDOVER to the slot that holds the carried encoding, and tells the old holder. -/
def Obligations.DelegationResults : Prop :=
  ∀ (o : OpC) (s u : State) (x : Srcs),
    let e := epNo o.ep
    let mt := o.mt.val
    (∀ n : Fin 16, WellFormed (.deleg o) → o.s1 = .e n →
      ChanIssues o { fieldsC o with s1 := .none, l1 := false } (limitPriv (irOf (.deleg o)) o.imm)
        (s.refusals s.cur e .deleg mt ++ s.delegRefusals s.cur e mt o.s1) s x u →
      (s.self.ep e).binding = .user → (s.self.ep e).credit + 1 ≤ storedOutMsg (s.slot s.cur (s.self.ep e).slot) →
      let d := s.self.ep n.val
      ∃ t, exec (.deleg o) s = .next t ∧ ChanFrame u t e [n.val] [] ∧
        Transmitted u t e 4 mt o.cls ((d.words.map fun w => leBytes 8 w.toNat).flatten) ∧
        (t.self.ep n.val).mode = .unbound ∧
        ∃ k, t.self.kept = s.self.kept ++ [k] ∧ k.desc = some d ∧ k.chan = d.chan ∧ k.ep = n.val ∧
          k.base = d.rbase * 32) ∧
    (∀ (n : Fin 16) (m : Arrived) (bs : List Byte) (g : Delegation) (z b c : Nat), WellFormed (.adopt o) → o.s1 = .e n →
      ChanIssues o (fieldsC o) (bothPriv (limitPriv (irOf (.adopt o)) o.imm)
          (bothPriv (epPriv (irOf (.adopt o)) e) (epPriv (irOf (.adopt o)) n.val)))
        (s.refusals s.cur e .adopt mt) s x u → (s.self.ep n.val).mode = .unbound → n.val ≠ e →
      Deliverable s e m bs → m.deleg = some g →
      s.slotFor? s.cur g.enc = some z → s.reserve s.cur (s.slot s.cur z) = some (b, c) →
      ∃ t, exec (.adopt o) s = .next t ∧ t.self.pc = nextAddr u.self.pc ∧ RestKept u t [o.d] [] ∧
        (t.self.ep n.val).mode = .handover ∧ (t.self.ep n.val).slot = z ∧ (t.self.ep n.val).chan = g.chan ∧
        (t.self.ep n.val).rbase = b ∧ (t.self.ep n.val).rslots = c ∧
        (t.self.ep n.val).state = (endpointOf g.desc).state ∧
        (∀ r : Fin 64, o.d = .g r → t.self.g[r] = if r = 0 then s.self.g[r] else 0) ∧
        ∃ p, p ∈ t.net ∧ p.dst = g.holder ∧ p.chan = g.chan ∧ p.body = .adopted s.cur n.val)

/-- R164: RECV, RECVV, RECVT and OFFER deliver the message numbered RSEQ to D or to local memory, S3 all ones; or the close
word with S3 zero; RECV on a LINK port takes the oldest word of its queue (R147). -/
def Obligations.ReceiveResults : Prop :=
  ∀ (o : OpC) (s u : State) (x : Srcs),
    let e := epNo o.ep
    let mt := o.mt.val
    let outcome (t : State) (v : QReg) : Prop := ∀ q : Fin 8, o.s3 = .q q → q ≠ 0 → t.self.q[q] = v
    let issues (i : Instr) (a : ChanAct) (n : Nat) : Prop := WellFormed i ∧
      ChanIssues o (fieldsC o).noS3 (limitPriv (irOf i) o.imm) (s.refusals s.cur e a n) s x u
    (∀ m bs, issues (.recv o) .recv mt → Deliverable s e m bs →
      ∃ t, exec (.recv o) s = .next t ∧ ChanFrame u t e [] [o.d, o.s3] ∧ Delivered u t e 1 m.mt ∧
        outcome t (BitVec.allOnes 32) ∧
        ∀ r : Fin 64, o.d = .g r → r ≠ 0 → t.self.g[r] = BitVec.ofNat 64 (leNat bs)) ∧
    (∀ w rest, issues (.recv o) .recv mt → (s.self.ep e).binding = .link → (s.self.ep e).linkIn = w :: rest →
      ∃ t, exec (.recv o) s = .next t ∧ ChanFrame u t e [] [o.d, o.s3] ∧ (t.self.ep e).linkIn = rest ∧
        t.self.rcvd = (s.self.rcvd + 1) % 2 ^ 64 ∧ outcome t (BitVec.allOnes 32) ∧ t.net = s.net ∧
        ∀ r : Fin 64, o.d = .g r → r ≠ 0 → t.self.g[r] = w) ∧
    (∀ m bs, issues (.recvv o) .recvv mt → Deliverable s e m bs →
      ∃ t, exec (.recvv o) s = .next t ∧ ChanFrame u t e [] [o.d, o.s3] ∧ Delivered u t e 1 m.mt ∧
        outcome t (BitVec.allOnes 32) ∧
        ∀ r : Fin 32, o.d = .v r → t.self.v[r] = BitVec.ofNat 256 (leNat bs)) ∧
    (∀ m bs, issues (.recvt o) .recvt mt → Deliverable s e m bs → Memory.wf s.mem = true → o.s2 = .none →
      s.tileTrap .store (s.typeAt s.cur e mt) x.s1 none = none → m.mt = mt →
      ∃ t, exec (.recvt o) s = .next t ∧ (t.self.ep e).rseq = ((s.self.ep e).rseq + 1) % 2 ^ 16 ∧
        outcome t (BitVec.allOnes 32) ∧ RegsKept s t [o.d, o.s3] ∧
        (∀ k, k ∈ crNumbers → t.self.cr k = s.self.cr k) ∧ t.self.acc = s.self.acc ∧
        readBytes t.mem (localKey s.cur x.s1) (msgSize (s.typeAt s.cur e mt)) = bs ∧
        (∀ k, k < localKey s.cur x.s1 ∨ localKey s.cur x.s1 + msgSize (s.typeAt s.cur e mt) ≤ k →
          readByte t.mem k = readByte s.mem k) ∧
        ∀ r : Fin 64, o.d = .g r → t.self.g[r] = if r = 0 then s.self.g[r] else 0) ∧
    (∀ m bs, issues (.offer o) .offer 0 → Deliverable s e m bs →
      ∃ t, exec (.offer o) s = .next t ∧ ChanFrame u t e [] [o.d, o.s3] ∧ Delivered u t e 3 m.mt ∧
        outcome t (BitVec.allOnes 32) ∧
        ∀ r : Fin 64, o.d = .g r → r ≠ 0 → t.self.g[r] = BitVec.ofNat 64 m.mt) ∧
    (∀ w, issues (.recv o) .recv mt → (s.self.ep e).binding = .user → (s.self.ep e).nextClose? = some w →
      ∃ t, exec (.recv o) s = .next t ∧ ChanFrame u t e [] [o.d, o.s3] ∧ t.self.ep e = s.self.ep e ∧ outcome t 0 ∧ t.net = s.net ∧
        ∀ r : Fin 64, o.d = .g r → r ≠ 0 → t.self.g[r] = w)

/-- R158 to R160: CONNECT to another core makes its endpoint CONNECTING, sends the request and waits for the answer; ACCEPT of
a dual request reserves a buffer, answers and waits for the confirmation, and completes at once where the connector has
confirmed before. -/
def Obligations.ConnectResults : Prop :=
  ∀ (o : OpC) (s u : State) (x : Srcs),
    let e := epNo o.ep
    (∀ node ep pkg, WellFormed (.connect o) →
      ChanIssues o (fieldsC o) (bothPriv (limitPriv (irOf (.connect o)) o.imm) (epPriv (irOf (.connect o)) e))
        (s.refusals s.cur e .connect 0) s x u →
      s.self.wait = none → o.s2 = .none → s.findPeer s.cur e x.s1 none = .found node ep pkg →
      isValid (s.slot s.cur (connSlot x.s1)) = true →
      ∃ t p q w, exec (.connect o) s = .next t ∧ (t.self.ep e).mode = .connecting ∧ t.net = s.net ++ [p] ∧
        p.body = .request q ∧ q.enc = (s.slot s.cur (connSlot x.s1)).take encBytes ∧ q.core = s.cur ∧ q.ep = e ∧
        q.chan = s.fresh ∧ t.self.wait = some w ∧ w.detail = 0x22 ∧ w.stage = .connecting s.fresh none ∧
        t.self.pc = s.self.pc ∧ RestKept s t [] []) ∧
    (∀ r rest b n, WellFormed (.accept o) →
      ChanIssues o (fieldsC o) (bothPriv (limitPriv (irOf (.accept o)) o.imm) (epPriv (irOf (.accept o)) e))
        (s.refusals s.cur e .accept 0) s x u →
      s.self.wait = none → x.s1 &&& ~~~0x700000000#64 = 0 → isValid (s.slot s.cur (connSlot x.s1)) = true →
      (s.self.ep e).requests = r :: rest → duals (s.slot s.cur (connSlot x.s1)) r.enc = true →
      s.reserve s.cur (s.slot s.cur (connSlot x.s1)) = some (b, n) →
      (r.confirmed = false → ∃ t p w k, exec (.accept o) s = .next t ∧ t.net = s.net ++ [p] ∧ p.dst = r.core ∧
        p.ep = r.ep ∧ p.chan = r.chan ∧ p.body = .answer 0 (s.nodeOf s.cur) e ∧ t.self.wait = some w ∧ w.detail = 0x23 ∧
        w.stage = .accepting r.chan none ∧ t.self.kept = s.self.kept ++ [k] ∧ k.chan = r.chan ∧ k.base = b * 32 ∧
        t.self.pc = s.self.pc ∧ RestKept s t [] []) ∧
      (r.confirmed = true → ∃ t, exec (.accept o) s = .next t ∧ (t.self.ep e).mode = .openM ∧
        (t.self.ep e).state = 0 ∧ (t.self.ep e).chan = r.chan ∧ (t.self.ep e).peer = r.node ∧
        (t.self.ep e).peerEp = r.ep ∧ (t.self.ep e).sseq = 0 ∧ (t.self.ep e).rseq = 0 ∧ t.self.wait = none ∧
        (t.self.ep e).rbase = b ∧ (t.self.ep e).rslots = n ∧ t.self.pc = nextAddr s.self.pc ∧
        RestKept s t [o.d] []))

/-- R165, R169 to R172: PROBE and EPSTAT read an endpoint; CLOSE and ABORT end its channel by a close notice and unbind it;
PLOAD checks an encoding, loads it and stores what it computes of it, or reports why not. -/
def Sys2Proof.Claims.EndpointResults : Prop :=
  ∀ (o : OpC) (s u : State) (x : Srcs),
    let e := epNo o.ep
    let ep := s.self.ep e
    (WellFormed (.probe o) → Issues (fieldsC o) anyLevel [] s x u →
      exec (.probe o) s = .next (wrote u (fieldsC o) o.d (s.probeWord s.cur e))) ∧
    (WellFormed (.epstat o) → Issues (fieldsC o) anyLevel [] s x u →
      exec (.epstat o) s = .next (wrote u (fieldsC o) o.d
        ((ep.words[if o.s1 = .none then 0 else (x.s1.extractLsb' 0 2).toNat]?).getD 0))) ∧
    (∀ tr, WellFormed (.close o) →
      ChanIssues o (fieldsC o) anyLevel (s.refusals s.cur e .close 0 ++ s.closeRefusals s.cur e) s x u →
      ep.mode = .openM → ep.binding = .user → ep.arrived = [] →
      anyTransition? (s.slot s.cur ep.slot) ep.state 6 = some tr →
      ∃ t p, exec (.close o) s = .next t ∧ ChanFrame u t e [] [o.d, o.s3] ∧ t.net = s.net ++ [p] ∧ p.dst = s.route s.cur ep ∧
        p.chan = ep.chan ∧ p.body = .close ep.sseq (closeWord (s.slot s.cur ep.slot) ep 0 true) ∧
        t.self.ep e = ep.unboundAt e) ∧
    (WellFormed (.abort o) → ChanIssues o (fieldsC o) anyLevel (s.refusals s.cur e .abort 0) s x u →
      ep.mode = .openM → ep.binding = .user → ep.arrived = [] →
      ∃ t p, exec (.abort o) s = .next t ∧ ChanFrame u t e [] [o.d, o.s3] ∧ t.net = s.net ++ [p] ∧ p.dst = s.route s.cur ep ∧
        p.chan = ep.chan ∧ p.body = .close ep.sseq (closeWord (s.slot s.cur ep.slot) ep 0 false) ∧
        t.self.ep e = ep.unboundAt e ∧ t.self.kept = s.self.kept) ∧
    (WellFormed (.pload o) → Issues (fieldsC o) (needsP1 (irOf (.pload o))) [] s x u → o.s1 ≠ .none →
      s.localTrap .load x.s1 464 64 = none →
      let enc := readBytes s.mem (localKey s.cur x.s1) 464
      let n := (x.s2.extractLsb' 0 3).toNat
      let bound := isValid (s.slot s.cur n) && s.self.slotBound n
      (∀ r, refusal enc s.self.chb bound = some r →
        exec (.pload o) s = .next (wrote u (fieldsC o) o.d (BitVec.ofNat 64 r))) ∧
      (refusal enc s.self.chb bound = none → Memory.wf s.mem = true →
        ∃ t, exec (.pload o) s = .next t ∧ t.self.pc = nextAddr u.self.pc ∧ t.slot s.cur n = loadedSlot enc ∧
          RegsKept s t [o.d] ∧ (∀ k, k ∈ crNumbers → t.self.cr k = s.self.cr k) ∧ t.self.eps = u.self.eps ∧
          (∀ r : Fin 64, o.d = .g r → t.self.g[r] = if r = 0 then s.self.g[r] else 0) ∧
          ∀ k, k < tcmKey s.cur (0x1F000 + 512 * n) ∨ tcmKey s.cur (0x1F000 + 512 * n) + 512 ≤ k →
            readByte t.mem k = readByte s.mem k))

/-- R156, R157, R161: the refusals of an endpoint that is built in, unbound or has no protocol transition; a refused
instruction traps with the lowest DETAIL and no effect, SEND without a credit and RECV without a message wait, and a CONNECT
to a slot without a protocol takes the connection fault. -/
def Sys2Proof.Claims.ChannelRefusals : Prop :=
  ∀ (o : OpC) (s u : State) (x : Srcs),
    let e := epNo o.ep
    let mt := o.mt.val
    let ep := s.self.ep e
    let trap (d : Nat) : Trap := { cls := 0x07, detail := d, tval := (ep.words[0]?).getD 0 }
    (Issues (fieldsC o) (limitPriv (irOf (.send o)) o.imm) [] s x u →
      (∀ d, leastDetail (s.refusals s.cur e .send mt) = some d →
        exec (.send o) s = .next (s.takeTrap s.cur (trap d))) ∧
      (s.refusals s.cur e .send mt = [] → (u.begin (fieldsC o)).sendOk s.cur e = false →
        ∃ t w, exec (.send o) s = .next t ∧ t.self.wait = some w ∧ w.detail = 0x21 ∧ t.self.pc = s.self.pc ∧
          t.net = s.net ∧ t.self.eps = s.self.eps ∧ RestKept s t [] [])) ∧
    (Issues (fieldsC o).noS3 (limitPriv (irOf (.recv o)) o.imm) [] s x u →
      (∀ d, leastDetail (s.refusals s.cur e .recv mt) = some d →
        exec (.recv o) s = .next (s.takeTrap s.cur (trap d))) ∧
      (s.refusals s.cur e .recv mt = [] → ep.binding = .user → ep.nextMsg? = none → ep.nextClose? = none →
        ∃ t w, exec (.recv o) s = .next t ∧ t.self.wait = some w ∧ w.detail = 0x20 ∧ t.self.pc = s.self.pc ∧
          t.net = s.net ∧ t.self.eps = s.self.eps ∧ RestKept s t [] [])) ∧
    (∀ a, (e < 2 → leastDetail (s.refusals s.cur e a mt) = some 0x06) ∧
      (2 ≤ e → s.hasPeer s.cur e = true → ep.mode = .unbound → a ≠ .connect → a ≠ .accept →
        leastDetail (s.refusals s.cur e a mt) = some 0x01) ∧
      (2 ≤ e → s.hasPeer s.cur e = true → ep.mode = .openM → ep.binding = .user → a = .send ∨ a = .recv →
        theTransition? (s.slot s.cur ep.slot) ep.state (if a = .send then 0 else 1) mt = none →
        leastDetail (s.refusals s.cur e a mt) = some 0x03)) ∧
    (∀ node pe pkg, Issues (fieldsC o) (bothPriv (limitPriv (irOf (.connect o)) o.imm) (epPriv (irOf (.connect o)) e)) [] s x u →
      s.refusals s.cur e .connect 0 = [] → s.self.wait = none → o.s2 = .none →
      s.findPeer s.cur e x.s1 none = .found node pe pkg → isValid (s.slot s.cur (connSlot x.s1)) = false →
      exec (.connect o) s = .next (s.takeTrap s.cur { cls := 0x08, detail := 0x0D, tval := x.s1 }))

/-- R157 to R166: endpoint instructions, and the refusals of channel instructions. Choices of the model: log 52, 53. -/
def Obligations.EndpointAndRefusalResults : Prop := Claims.EndpointResults ∧ Claims.ChannelRefusals

/-! ## Family 4 -/

namespace Sys2Proof.Claims

/-- The state of an instruction that waits: nothing differs but the wait of its core. -/
def waiting (s : State) (w : Wait) : State := s.onCore s.cur fun c => { c with wait := some { w with pc := c.pc } }

/-- The state in which an instruction that pops as u says has gone on, its last uses freed, with no other effect. -/
def goneOn (u : State) (f : Fields) : State := (u.begin f).goOn (nextAddr u.self.pc)

/-- An instruction of the ordinary stream changes the combining buffers, what is in flight, and nothing else. -/
def StreamFrame (u t : State) (f : Fields) : Prop :=
  t = { goneOn u f with clusters := t.clusters, flight := t.flight, fresh := t.fresh }

/-- A remote access of n bytes passes the checks of issue (R131, R147, R184), before its pops and after them. -/
def Reachable (s u : State) (a : Word) (n : Nat) : Prop :=
  (s.self.ep 0).binding = .memline ∧ s.slotsFull s.cur = false ∧ bits a 57 7 = 0 ∧ winOf a ≤ 2 ∧ a.toNat % n = 0 ∧
    u.dest (u.pnum u.cur) a ≠ .noPeer

/-- A store of listed bytes at offsets from an address: in flight to the host interface; held behind the accesses of a list
where it releases and some stand unacknowledged (R184); or in an entry of its core, class and line (R132). -/
def StoredAway (u t : State) (o : OpM) (a : Word) (bytes : List (Nat × Byte)) : Prop :=
  let ids := u.pendIds u.cur (fun _ => true)
  if winOf a = 2 then
    ∃ p ∈ t.flight, p.core = u.cur ∧ p.cls = o.cls ∧ p.addr = a ∧ p.kind = .store bytes ∧
      (o.ord = .rel → ∀ n ∈ ids, n ∈ p.after)
  else if o.ord = .rel ∧ ids ≠ [] then
    ∃ p ∈ t.flight, p.core = u.cur ∧ p.cls = o.cls ∧ p.addr = a ∧ p.kind = .release bytes ∧ ∀ n ∈ ids, n ∈ p.after
  else
    ∃ e ∈ t.ownEntries u.cur, e.cls = o.cls ∧ e.line = a.toNat / 64 ∧
      ∀ b ∈ bytes, tget? e.bytes (a.toNat % 64 + b.1) = some b.2

/-- The barrier object at a local address has defined fields (R192). -/
def ObjAt (s : State) (a : Word) (b : Obj) : Prop :=
  s.objUndef (localKey s.cur a) = false ∧ s.obj (localKey s.cur a) = b ∧ s.self.objDetail a = none

/-- Update of R193, said of the four words. -/
def updated (b : Obj) (arrivals n : Nat) : Obj :=
  if b.arrv ≤ arrivals ∧ b.bytes ≤ n then
    { b with w0 := BitVec.ofNat 64 (b.arrinit * 2 ^ 32 + b.arrinit),
             w1 := BitVec.ofNat 64 ((1 - b.phase) * 2 ^ 63 + bits b.w1 48 15 * 2 ^ 48) }
  else
    { b with w0 := BitVec.ofNat 64 ((b.arrv - arrivals) * 2 ^ 32 + b.arrinit),
             w1 := BitVec.ofNat 64 (b.phase * 2 ^ 63 + bits b.w1 48 15 * 2 ^ 48 + (b.bytes - n)) }

/-- A command has been accepted on its context (R187): the next number of the timeline, and the command kept with its items. -/
def Accepted (s t : State) (o : OpM) (x : Srcs) (op : EngineOp) (items : Nat) : Prop :=
  let n := s.self.issued[o.ctx] + 1
  t.self.issued[o.ctx] = n ∧ (∀ c : Fin 4, c ≠ o.ctx → t.self.issued[c] = s.self.issued[c]) ∧
    (0 < items → ∃ k ∈ t.self.cmds, k.ctx = o.ctx.val ∧ k.tl = n ∧ k.cls = o.cls ∧ k.ord = o.ord ∧
      k.drain = (o.ord == .drain) ∧ k.obj = (if o.s3 = .none then none else some x.s3) ∧ k.op = op ∧
      k.items.length = items)

/-- What the acceptance of a command leaves: the core's registers, other cores, the parts, the agenda, and memory outside its
barrier object. -/
def CommandFrame (s t : State) (o : OpM) (x : Srcs) : Prop :=
  t.self.pc = nextAddr s.self.pc ∧ t.self.wait = none ∧ t.self.g = s.self.g ∧ t.self.v = s.self.v ∧
    t.self.q = s.self.q ∧ t.self.acc = s.self.acc ∧ t.self.faultQ = s.self.faultQ ∧
    (∀ k, k ∈ crNumbers → t.self.cr k = s.self.cr k) ∧ t.parts = s.parts ∧ t.agenda = s.agenda ∧ t.net = s.net ∧
    (∀ k, o.s3 = .none ∨ k < localKey s.cur x.s3 ∨ localKey s.cur x.s3 + 32 ≤ k → readByte t.mem k = readByte s.mem k)

/-- A command instruction passes the checks before its own operands: its sources, a place in its context (R187), and its
barrier object (R194). -/
def CommandIssues (o : OpM) (s : State) (x : Srcs) : Prop :=
  Issues (fieldsM o) anyLevel [o.d] s x s ∧ s.self.contextFull o.ctx = false ∧ s.self.objTrap o.s3 x.s3 = none ∧
    (o.s3 ≠ .none → s.objUndef (localKey s.cur x.s3) = false) ∧ Memory.wf s.mem = true

/-- Lines that a range of n bytes touches (R197). -/
def lines (a : Word) (n : Nat) : Nat := if n = 0 then 0 else (a.toNat + n - 1) / 64 - a.toNat / 64 + 1

end Sys2Proof.Claims

/-- R132, R184, R186, R230: RST, RSTV and RATOMP post an access at S1 plus the offset, in the combining buffer or in flight,
behind every earlier access of the core where they release, with nothing of the core left in the buffer; a malformed or misaligned address is a posted fault.
Choices of the model: log 32, 34. -/
def Obligations.RemoteStoreResults : Prop :=
  ∀ (o : OpM) (s u : State) (x : Srcs),
    let f := fieldsM o
    let a := x.s1 + o.imm.signExtend 64
    let n := tySize o.ty
    let act := s.self.active s.free o.pg o.pn (256 / tyBits o.ty)
    (WellFormed (.rst o) → Issues f anyLevel [] s x u → Reachable s u a n →
      ∃ t, exec (.rst o) s = .next t ∧ StreamFrame u t f ∧
        StoredAway u t o a ((List.range n).map fun k => (k, x.s2.extractLsb' (8 * k) 8))) ∧
    (WellFormed (.rstv o) → Reads f anyLevel [] s x u → act ≠ [] → Reachable s u a 32 →
      ∃ t, exec (.rstv o) s = .next t ∧ StreamFrame u t f ∧
        StoredAway u t o a (((List.range 32).filter fun k => (k / n) ∈ act).map fun k =>
          (k, (s.self.srcV s.free 2 o.s2).extractLsb' (8 * k) 8))) ∧
    (WellFormed (.ratomp o) → Issues f anyLevel [] s x u → Reachable s u a n →
      ∃ t, exec (.ratomp o) s = .next t ∧ StreamFrame u t f ∧
        ∃ p ∈ t.flight, p.core = s.cur ∧ p.cls = o.cls ∧ p.addr = a ∧ p.kind = .ratomp o.sub.toNat o.ty x.s2 ∧
          (o.ord = .rel → t.ownEntries s.cur = [] ∧ ∀ k, k ∈ u.pendIds s.cur (fun _ => true) → k ∈ p.after)) ∧
    (WellFormed (.rst o) → Issues f anyLevel [] s x u → o.ord = .rlx → (s.self.ep 0).binding = .memline →
      s.slotsFull s.cur = false → a.toNat % n ≠ 0 → s.self.postedQ.length < 16 → u.self.postedQ = s.self.postedQ →
      exec (.rst o) s = .next ((goneOn u f).onCore s.cur fun c =>
        { c with postedQ := s.self.postedQ ++ [{ addr := a, status := 0x0A, posted := true }] })) ∧
    (WellFormed (.rst o) → Issues f anyLevel [] s x u → (s.self.ep 0).binding = .memline → s.slotsFull s.cur = true →
      exec (.rst o) s = .next (waiting s { detail := 0, left := none, counting := false })) ∧
    (WellFormed (.rst o) → Issues f anyLevel [] s x u → (s.self.ep 0).binding ≠ .memline →
      exec (.rst o) s = .next (s.takeTrap s.cur (refusalTrap (s.self.ep 0) 0x01)))

/-- R133, R185: RFLUSH sends the entries of a line, or all, and with an entry those that its core allocated before it, in
their order; the entries after them stay. -/
def Sys2Proof.Claims.FlushResults : Prop :=
  ∀ (o : OpM) (s : State) (x : Srcs), WellFormed (.rflush o) → Issues (fieldsM o) anyLevel [] s x s →
    let meant (e : CombEntry) : Prop := o.s1 = .none ∨ (bits x.s1 63 1 = 0 ∧ e.line = x.s1.toNat / 64)
    ∃ t sent kept, exec (.rflush o) s = .next t ∧ StreamFrame s t (fieldsM o) ∧ s.ownEntries s.cur = sent ++ kept ∧
      t.ownEntries s.cur = kept ∧ t.flight = s.flight ++ sent.map s.drainedAs ∧ (∀ e ∈ kept, ¬meant e) ∧
      (∀ e, sent.getLast? = some e → meant e) ∧ ∀ j, j ≠ s.cur → t.ownEntries j = s.ownEntries j

/-- R133, R212, R213: FENCE and FENCEX send the entries in the classes of their mask. They complete when nothing of the classes
is outstanding, FENCEX when its commands have finished too and with what the two ordering domains wrote settled (R219);
otherwise they wait. A scope that does not hold the core traps. -/
def Sys2Proof.Claims.Fences : Prop :=
  ∀ (o : OpM) (s : State) (x : Srcs) (i : Instr), i = .fence o ∨ i = .fencex o → WellFormed i →
    Issues (fieldsM o) (limitPriv (irOf i) o.imm) [] s x s →
    let f := fieldsM o
    let mask := o.sub.toNat
    let done (u : State) : State := if i = .fencex o then (goneOn u f).settled s.cur else goneOn u f
    ((o.s3 = .none ∨ s.scopeBad s.cur x.s3 = false) →
      (s.self.fenceStage = none → (∀ a ∈ s.pending s.cur, inMask mask a.cls = false) →
        (∀ k ∈ s.self.cmds, inMask mask k.cls = true → s.allAcked s.cur k.after = true) →
        (i = .fencex o → s.self.tl = s.self.issued) → exec i s = .next (done s)) ∧
      (∀ ids tls, s.self.fenceStage = some (ids, tls) → (∀ e ∈ s.ownEntries s.cur, inMask mask e.cls = false) →
        s.allAcked s.cur ids = true → (∀ k : Fin 4, ∀ n, tls[k.val]? = some n → n ≤ s.self.tl[k]) → tls.length ≤ 4 →
        exec i s = .next (done s)) ∧
      (s.self.fenceStage = none → (∃ e ∈ s.ownEntries s.cur, inMask mask e.cls = true ∧ s.access? e.id = none) →
        ∃ t w, exec i s = .next t ∧ t.self.wait = some w ∧ w.detail = (if i = .fence o then 0x26 else 0x27) ∧
          w.left = s.self.waitLeft o.imm ∧ t.self.pc = s.self.pc ∧ RestKept s t [] [] ∧
          (∀ e ∈ t.ownEntries s.cur, inMask mask e.cls = false) ∧
          ∀ e ∈ s.ownEntries s.cur, inMask mask e.cls = true → s.drainedAs e ∈ t.flight)) ∧
    (o.s3 ≠ .none → s.scopeBad s.cur x.s3 = true →
      exec i s = .next (s.takeTrap s.cur { cls := 0x05, detail := 0x09, tval := x.s3 }))

/-- R133, R185, R212, R213: what RFLUSH, FENCE and FENCEX send, and when a fence completes. -/
def Obligations.FenceResults : Prop := Claims.FlushResults ∧ Claims.Fences

/-- R193, R194, R202: BINIT writes an object whole; ARRIVE on an own object counts its arrivals there at once where nothing
holds it, and on another core's object is sent to that core, or to its package. -/
def Obligations.ArrivalResults : Prop :=
  ∀ (o : OpM) (s : State) (x : Srcs), Memory.wf s.mem = true →
    let f := fieldsM o
    let key := localKey s.cur x.s3
    let count := max (o.imm.toNat % 2 ^ 16) 1
    let away (t : State) : Prop := ∀ k, k < key ∨ key + 32 ≤ k → readByte t.mem k = readByte s.mem k
    let kept (t : State) : Prop := RegsKept s t [] ∧ (∀ k, k ∈ crNumbers → t.self.cr k = s.self.cr k) ∧
      t.self.acc = s.self.acc ∧ t.self.eps = s.self.eps ∧ t.self.cmds = s.self.cmds
    (WellFormed (.binit o) → Issues f anyLevel [] s x s → bits x.s2 48 16 = 0 → bits x.s2 32 16 ≤ 4096 →
      s.self.objDetail x.s3 = none → x.s1.toNat % 16 = 0 →
      (x.s1 = 0 ∨ bits x.s2 32 16 = 0 ∨ s.self.localDetail .store x.s1 (16 * bits x.s2 32 16) 16 = none) →
      ∃ t, exec (.binit o) s = .next t ∧ t.self.pc = nextAddr s.self.pc ∧ t.objUndef key = false ∧ away t ∧ kept t ∧
        t.obj key = { w0 := BitVec.ofNat 64 (bits x.s2 0 32 * 2 ^ 32 + bits x.s2 0 32), w1 := 0,
                      w2 := BitVec.ofNat 64 (bits x.s2 32 16 * 2 ^ 32), w3 := x.s1 }) ∧
    (∀ b, WellFormed (.arrive o) → Issues f anyLevel [] s x s → o.s2 = .none → ObjAt s x.s3 b →
      (∀ a ∈ s.pending s.cur, o.sub = 0 → inMask (o.imm.toNat / 2 ^ 16 % 8) a.cls = false) →
      ∃ t, exec (.arrive o) s = .next t ∧ t.self.pc = nextAddr s.self.pc ∧ t.objUndef key = false ∧ away t ∧ kept t ∧
        t.obj key = updated b count 0 ∧ t.flight = s.flight) ∧
    (∀ j pkg, WellFormed (.arrive o) → Issues f anyLevel [] s x s → o.s2 ≠ .none →
      (s.target s.cur x.s2 = .core j ∧ pkg = s.board.peer) ∨
        (s.target s.cur x.s2 = .away pkg ∧ j = beyond pkg (bits x.s2 0 24)) →
      ∃ t p, exec (.arrive o) s = .next t ∧ t.self.pc = nextAddr s.self.pc ∧ t.mem = s.mem ∧ kept t ∧ p ∈ t.flight ∧
        p.core = s.cur ∧ p.cls = o.cls ∧ p.node = j ∧ p.addr = x.s2 ∧
        p.kind = .arrival pkg (bits x.s2 0 24) x.s3 count ∧
        ∀ n, n ∈ s.pendIds s.cur (fun c => o.sub == 0 && inMask (o.imm.toNat / 2 ^ 16 % 8) c) → n ∈ p.after)

/-- R203 to R205, R216, R233: BTEST, BWAIT, TLWAIT, TLREAD and WAITA observe a phase, a timeline, a fault queue or a word, and an
acquiring one settles what the commands observed wrote; a wait whose condition does not hold waits with its own DETAIL.
Choices of the model: log 120. -/
def Obligations.ObservationResults : Prop :=
  ∀ (o : OpM) (s : State) (x : Srcs),
    let f := fieldsM o
    let key := localKey s.cur x.s3
    let queue := if o.imm.getLsbD 8 then s.self.postedQ else s.self.faultQ[o.ctx]
    let posted := o.imm.getLsbD 8
    let done := (s.obj key).phase ≠ bits x.s2 0 1
    let acquired (c : Prop) [Decidable c] (t : State) : State := if o.ord = .acq ∧ c then t else s
    (WellFormed (.btest o) → Issues f anyLevel [] s x s → s.self.observeDetail x.s3 = none →
      exec (.btest o) s = .next (wrote (acquired done (s.sawObject s.cur key)) f o.d
        (BitVec.ofNat 64 ((s.obj key).fcnt * 2 ^ 48 + if done then 1 else 0)))) ∧
    (WellFormed (.bwait o) → Issues f (limitPriv (irOf (.bwait o)) o.imm) [] s x s → s.self.observeDetail x.s3 = none →
      (s.self.phaseSeen = true ∨ done →
        exec (.bwait o) s = .next (wrote (acquired True (s.sawObject s.cur key)) f o.d
          (BitVec.ofNat 64 (s.obj key).fcnt))) ∧
      (s.self.phaseSeen = false → ¬done →
        exec (.bwait o) s =
          .next (waiting s { detail := 0x24, left := s.self.waitLeft o.imm, args := [x.s3.toNat, key, 0] }))) ∧
    (WellFormed (.tlwait o) → Issues f (limitPriv (irOf (.tlwait o)) o.imm) [] s x s →
      (x.s2.toNat ≤ s.self.tl[o.ctx] → exec (.tlwait o) s = .next (goneOn (acquired True
        (s.observed s.cur fun k => k.1 == o.ctx.val && decide (k.2 ≤ x.s2.toNat))) f)) ∧
      (s.self.tl[o.ctx] < x.s2.toNat →
        exec (.tlwait o) s =
          .next (waiting s { detail := 0x25, left := s.self.waitLeft o.imm, args := [o.ctx.val, x.s2.toNat] }))) ∧
    (WellFormed (.tlread o) → Issues f anyLevel [] s x s →
      let sel := o.imm.toNat % 256
      (sel = 0 → exec (.tlread o) s = .next (wrote s f o.d (BitVec.ofNat 64 s.self.tl[o.ctx]))) ∧
      (sel = 1 → exec (.tlread o) s = .next (wrote s f o.d (BitVec.ofNat 64 s.self.issued[o.ctx]))) ∧
      (sel = 3 → ∀ r rest, queue = r :: rest → exec (.tlread o) s = .next (wrote s f o.d r.addr)) ∧
      (sel = 3 ∨ sel = 4 → queue = [] → ∃ t, exec (.tlread o) s = .next t ∧ t.self.pc = nextAddr s.self.pc ∧
        t.self.postedQ = s.self.postedQ ∧ t.self.faultQ = s.self.faultQ ∧ RestKept s t [o.d] [] ∧
        ∀ r : Fin 64, o.d = .g r → r ≠ 0 → t.self.g[r] = 0) ∧
      (sel = 4 → ∀ r rest, queue = r :: rest → ∃ t, exec (.tlread o) s = .next t ∧ t.self.pc = nextAddr s.self.pc ∧
        RestKept s t [o.d] [] ∧
        (if posted then t.self.postedQ = rest ∧ t.self.faultQ = s.self.faultQ
         else t.self.faultQ = s.self.faultQ.set o.ctx rest ∧ t.self.postedQ = s.self.postedQ) ∧
        ∀ d : Fin 64, o.d = .g d → d ≠ 0 →
          t.self.g[d] = BitVec.ofNat 64 (r.status * 2 ^ 56 + r.ctx * 2 ^ 54 + (if r.posted then 2 ^ 53 else 0) +
            r.item % 2 ^ 16 * 2 ^ 32 + r.tlnum % 2 ^ 32)) ∧
      (sel = 2 → ∃ t, exec (.tlread o) s = .next t ∧ t.self.pc = nextAddr s.self.pc ∧ RestKept s t [o.d] [] ∧
        (posted = false → t.self.bstall[o.ctx] = false) ∧ (posted = true → t.self.bstall = s.self.bstall) ∧
        ∀ d : Fin 64, o.d = .g d → d ≠ 0 →
          t.self.g[d] = BitVec.ofNat 64 (queue.length + if posted then 0 else
            (if s.self.bstall[o.ctx] then 256 else 0) + s.self.unfinished o.ctx.val * 2 ^ 16))) ∧
    (WellFormed (.waita o) → Issues f (limitPriv (irOf (.waita o)) o.imm) [] s x s →
      let n := tySize o.ty
      let k := localKey s.cur x.s1
      (s.self.waitaStage = some true → exec (.waita o) s = .next (wrote (s.correct k n) f o.d 0)) ∧
      (s.self.waitaStage = none → s.self.addressTrap .load x.s1 n n = none → x.s1.toNat < 0x8000000100000000 →
        exec (.waita o) s = .next (s.takeTrap s.cur { cls := 0x05, detail := 0x0A, tval := x.s1 })) ∧
      (s.self.waitaStage = none → s.localTrap .load x.s1 n n = none → 0x8000000100000000 ≤ x.s1.toNat →
      (patternAt s.mem k (8 * n) ≠ x.s2.setWidth (8 * n) →
        exec (.waita o) s = .next (wrote (s.correct k n) f o.d 0)) ∧
      (patternAt s.mem k (8 * n) = x.s2.setWidth (8 * n) →
        ((s.cluster (clusterOf s.cur)).monitorRoom k = false →
          exec (.waita o) s = .next (wrote (s.correct k n) f o.d 6)) ∧
        ((s.cluster (clusterOf s.cur)).monitorRoom k = true →
          ∃ t w m, exec (.waita o) s = .next t ∧ t.self.wait = some w ∧ w.detail = 0x28 ∧
            w.left = s.self.waitLeft o.imm ∧ t.self.pc = s.self.pc ∧ RestKept s t [] [] ∧
            (t.cluster (clusterOf s.cur)).monitors = (s.cluster (clusterOf s.cur)).monitors ++ [m] ∧
            m.loc = k ∧ m.core = s.cur ∧ m.width = 8 * n ∧ m.value = x.s2 ∧ m.fired = false))))

/-- R187, R193, R197, R199 to R201, R228: the seven commands of the copy engine: each takes the next number of its timeline
with one item a line, an element or a member set, and adds its bytes to its object; a full context makes it wait. -/
def Sys2Proof.Claims.EngineResults : Prop :=
  ∀ (o : OpM) (s : State) (x : Srcs), CommandIssues o s x →
    let d := s.self.srcWord s.free 4 o.d 0
    let a := x.s1 + o.imm.signExtend 64
    let n := x.s2.toNat
    let size := tySize o.ty
    let k := o.imm.toNat % 128
    let begins (i : Instr) (op : EngineOp) (items bytes : Nat) : Prop :=
      ∃ t, exec i s = .next t ∧ CommandFrame s t o x ∧ Accepted s t o x op items ∧
        (o.s3 ≠ .none → t.obj (localKey s.cur x.s3) =
          { s.obj (localKey s.cur x.s3) with
            w1 := BitVec.ofNat 64 (bits (s.obj (localKey s.cur x.s3)).w1 48 16 * 2 ^ 48 +
              min ((s.obj (localKey s.cur x.s3)).bytes + bytes) (2 ^ 48 - 1)) })
    (WellFormed (.get o) → s.self.rangeTrap .store d n 1 = none → begins (.get o) (.get d a n) (lines a n) n) ∧
    (WellFormed (.put o) → s.self.rangeTrap .load d n 1 = none → begins (.put o) (.put d a n) (lines a n) n) ∧
    (∀ w v, WellFormed (.copy o) → s.self.rangeTrap .load x.s1 64 64 = none → s.self.rangeTrap .load d 64 64 = none →
      walkOf? (readBytes s.mem (localKey s.cur x.s1) 64) = some w →
      walkOf? (readBytes s.mem (localKey s.cur d) 64) = some v →
      s.self.walkTrap .load w = none → s.self.walkTrap .store v = none →
      w.elem = v.elem → w.total = v.total → ¬(w.isLocal = true ∧ v.isLocal = true) →
      begins (.copy o) (.copy w v) w.total (w.total * w.elem)) ∧
    (WellFormed (.gather o) → s.self.rangeTrap .load x.s2 (4 * k) 4 = none → s.self.rangeTrap .store d (k * size) size = none →
      begins (.gather o) (.gather d x.s1 size ((List.range k).map fun j =>
        (patternAt s.mem (localKey s.cur (x.s2 + BitVec.ofNat 64 (4 * j))) 32).toInt)) k (k * size)) ∧
    (WellFormed (.scatter o) → s.self.rangeTrap .load x.s2 (4 * k) 4 = none → s.self.rangeTrap .load d (k * size) size = none →
      begins (.scatter o) (.scatter d x.s1 size ((List.range k).map fun j =>
        (patternAt s.mem (localKey s.cur (x.s2 + BitVec.ofNat 64 (4 * j))) 32).toInt)) k (k * size)) ∧
    (WellFormed (.mcast o) → 1 ≤ n → n ≤ 256 → s.self.rangeTrap .load d n 1 = none →
      begins (.mcast o) (.mcast d x.s1 n (o.imm.toNat % 1024)) 1 n) ∧
    (WellFormed (.ratom o) → s.self.rangeTrap .store d size size = none →
      (o.sub.toNat = 9 → s.self.rangeTrap .load d size size = none) →
      begins (.ratom o) (.ratom o.sub.toNat o.ty a x.s2
        (if o.sub.toNat = 9 then BitVec.ofNat 64 (leNat (readBytes s.mem (localKey s.cur d) size)) else 0) d) 1 size)

/-- R187: a seventeenth command of a context stalls at issue, and takes no number. -/
def Sys2Proof.Claims.FullContextStalls : Prop :=
  ∀ (o : OpM) (s : State) (x : Srcs) (i : Instr), Issues (fieldsM o) anyLevel [o.d] s x s →
    i = .get o ∨ i = .put o ∨ i = .copy o ∨ i = .gather o ∨ i = .scatter o ∨ i = .mcast o ∨ i = .ratom o →
    16 ≤ (s.self.cmds.filter fun k => k.ctx == o.ctx.val).length →
    exec i s = .next (waiting s { detail := 0, left := none, counting := false })

/-- R187 to R201: the acceptance of engine commands, and the stall of a full context. Choices of the model: log 37. -/
def Obligations.EngineCommandResults : Prop := Claims.EngineResults ∧ Claims.FullContextStalls

/-! ## Family 6 -/

namespace Sys2Proof.Claims

/-- A matrix command has been accepted (R187, R292, R303): its number on the timeline, its place in the unit's queue, and its
count of items added to the bytes of its object. An item stands before its run, or fails without one (R399). -/
def Queued (s t : State) (o : OpM) (x : Srcs) (op : EngineOp) (items : Nat) (first : ItemPhase := .pending) : Prop :=
  Accepted s t { o with cls := .o } x op items ∧ CommandFrame s t o x ∧ t.self.accepted = s.self.accepted + 1 ∧
    (0 < items → ∃ k ∈ t.self.cmds, k.matrix = true ∧ k.ctx = o.ctx.val ∧ k.tl = s.self.issued[o.ctx] + 1 ∧
      k.op = op ∧ k.items = List.replicate items first) ∧
    (o.s3 ≠ .none → t.obj (localKey s.cur x.s3) =
      { s.obj (localKey s.cur x.s3) with
        w1 := BitVec.ofNat 64 (bits (s.obj (localKey s.cur x.s3)).w1 48 16 * 2 ^ 48 +
          min ((s.obj (localKey s.cur x.s3)).bytes + items) (2 ^ 48 - 1)) })

/-- The column word of R291 names columns c0 to c0 + n - 1. -/
def NamesColumns (w : Word) (c0 n : Nat) : Prop :=
  w.toNat = c0 + n * 2 ^ 8 ∧ c0 < 256 ∧ 1 ≤ n ∧ c0 + n ≤ 256

/-- An instruction that changes its own core's registers alone: code address, wait, last uses, and what a list of the
statement names by the fields of the core. -/
def OwnFrame (s t : State) (c : Core) : Prop :=
  SameBeside s.cur s t ∧
    t.self = { c with pc := nextAddr s.self.pc, wait := none, gFreed := t.self.gFreed, vFreed := t.self.vFreed,
                      qFreed := t.self.qFreed }

/-- A contribution has entered the network for the level-1 node of its core (R304, R308): its slot is the place in the
cluster. -/
def Contributed (s t : State) (kind : TreeKind) (level n : Nat) (p : TreeParams) (elems : List Nat) (imm : BitVec 32)
    (after : List Nat → Prop) : Prop :=
  let v := s.virt s.cur
  ∃ k key ids, t.net = s.net ++ [k] ∧
    k.body = .contribution key 1 (v.2 / 4 * 256 + v.1 / 4) (v.2 % 4 * 4 + v.1 % 4) p (s.self.limitOf imm)
      { elems := elems, members := [v.2 * 1024 + v.1] } ids ∧
    key.part = s.pnum s.cur ∧ some key.rect = s.self.domain? level ∧ key.dom = level ∧ key.kind = kind ∧ key.n = n ∧ after ids

/-- A group of v registers holds elements of w bits (R267). -/
def GroupHolds (c : Core) (r : Fin 32) (w : Nat) (xs : List Nat) : Prop :=
  ∀ j, j < xs.length → c.v[r + Fin.ofNat 32 (j / (256 / w))].extractLsb' (w * (j % (256 / w))) w = BitVec.ofNat w xs[j]!

end Sys2Proof.Claims

/-- R187, R291 to R298: the six commands of the matrix unit are accepted with their operands and their items: one for a block
or a status record, one a row, one a column, one a position or a block of four columns. -/
def Obligations.MatrixCommands : Prop :=
  ∀ (o : OpM) (s : State) (x : Srcs), CommandIssues o s x →
    let c := s.self
    let d := c.srcWord s.free 4 o.d 0
    let mode := o.imm.toNat % 4
    let axis := o.imm.toNat / 16 % 2
    (WellFormed (.mloadw o) → c.rangeTrap .load d (imageBytes o.ty) 32 = none →
      c.rangeTrap .load x.s1 (scaleBytes o.ty mode) mode = none →
      ∃ t, exec (.mloadw o) s = .next t ∧ Queued s t o x (.mloadw o.ty mode axis d x.s1) 1) ∧
    (∀ c0 rows k0 row0 src, WellFormed (.mstream o) → c.rangeTrap .load d 64 64 = none →
      streamWord? o.ty x.s2 = some (c0, rows, k0, row0) →
      s.rowSource? s.cur o.ty o.imm.toNat d rows k0 row0 = some src →
      c.streamTrap src o.ty mode x.s1 rows = none →
      ∃ t, exec (.mstream o) s = .next t ∧ Queued s t o x (.mstream o.ty mode axis src x.s1 c0 rows) rows
        (if poisoned s (localKey s.cur d) 64 then .failed stPoison else .pending)) ∧
    (∀ c0 n, WellFormed (.mfmt o) → NamesColumns x.s1 c0 n →
      ∃ t, exec (.mfmt o) s = .next t ∧
        Queued s t o x (.mfmt o.ty (c.immRm o.imm.toNat) (o.imm.getLsbD 4) c0 n) n) ∧
    (∀ c0 n, WellFormed (.mclr o) → NamesColumns x.s1 c0 n →
      ∃ t, exec (.mclr o) s = .next t ∧ Queued s t o x (.mclr c0 n) n) ∧
    (∀ c0 n, WellFormed (.mdrain o) → NamesColumns x.s2 c0 n → n % (if o.sub = 0 then 4 else 32) = 0 →
      let scale := o.imm.toNat / 2 ^ 8 % 4
      c.rangeTrap .store d (n * tyBits o.ty) 32 = none → c.rangeTrap .store x.s1 (n / 4 * scale) scale = none →
      ∃ t, exec (.mdrain o) s = .next t ∧
        Queued s t o x (.mdrain o.sub.toNat o.ty o.imm.toNat (c.immRm o.imm.toNat) d x.s1 c0 n)
          (if scale = 0 then n else n / 4)) ∧
    (WellFormed (.mstat o) → c.rangeTrap .store d 96 32 = none →
      ∃ t, exec (.mstat o) s = .next t ∧ Queued s t o x (.mstat d) 1)

/-- R299, R302: AMOV copies a column, or an fp64 pair, to v registers or from them; MCAP mints a capability with its check. -/
def Sys2Proof.Claims.ColumnMoves : Prop :=
  ∀ (o : OpM) (s : State) (x : Srcs),
    let f := fieldsM o
    let n := if o.s2 = .none then o.imm.toNat % 256 else x.s2.toNat % 256
    let held (k : Nat) : VReg := if (s.self.acc[k]!).state = .free then 0 else (s.self.acc[k]!).bits
    let lo := held n
    let hi := held (n + 1)
    let low := o.imm.toNat / 2 ^ 19 % 2 * 2 ^ 43 + o.imm.toNat / 2 ^ 18 % 2 * 2 ^ 42 + o.imm.toNat / 2 ^ 17 % 2 * 2 ^ 41 +
      o.imm.toNat / 2 ^ 16 % 2 * 2 ^ 40
    (∀ r, WellFormed (.amovRead o) → Issues f anyLevel [] s x s → o.d = .v r → amovTrap o true s.self n = none →
      let u := s.correctCols s.cur (amovCols o n)
      ∃ t, exec (.amovRead o) s = .next t ∧ OwnFrame u t { u.self with v := t.self.v } ∧
        (o.ty ≠ .fp64 → t.self.v = s.self.v.set r lo) ∧
        (o.ty = .fp64 → (∀ q : Fin 32, q ≠ r → q ≠ r + 1 → t.self.v[q] = s.self.v[q]) ∧
          ∀ k, k < 4 → t.self.v[r].extractLsb' (64 * k) 64 = hi.extractLsb' (32 * k) 32 ++ lo.extractLsb' (32 * k) 32 ∧
            t.self.v[r + 1].extractLsb' (64 * k) 64 =
              hi.extractLsb' (32 * (k + 4)) 32 ++ lo.extractLsb' (32 * (k + 4)) 32)) ∧
    (∀ r : Fin 32, WellFormed (.amovWrite o) → Issues f anyLevel (if o.ty = .fp64 then [nextReg o.s1] else []) s x s →
      o.s1 = .v r → s.self.vFreed.getLsbD r.val = false → s.self.vFreed.getLsbD (r + 1).val = false →
      amovTrap o false s.self n = none → (∀ k ∈ amovCols o n, s.self.columnBusy k = false) →
      ∃ t, exec (.amovWrite o) s = .next t ∧ OwnFrame s t { s.self with acc := t.self.acc } ∧
        (∀ k, k < 256 → k ∉ amovCols o n → t.self.acc[k]! = s.self.acc[k]!) ∧
        (∀ k ∈ amovCols o n, (t.self.acc[k]!).state = .acc ∧ (t.self.acc[k]!).fmt = o.ty ∧ (t.self.acc[k]!).bad = false ∧
          (t.self.acc[k]!).soft = []) ∧
        (o.ty ≠ .fp64 → (t.self.acc[n]!).bits = s.self.v[r]) ∧
        (o.ty = .fp64 → ∀ k, k < 4 →
          (t.self.acc[n + 1]!).bits.extractLsb' (32 * k) 32 ++ (t.self.acc[n]!).bits.extractLsb' (32 * k) 32 =
            s.self.v[r].extractLsb' (64 * k) 64 ∧
          (t.self.acc[n + 1]!).bits.extractLsb' (32 * (k + 4)) 32 ++
              (t.self.acc[n]!).bits.extractLsb' (32 * (k + 4)) 32 =
            s.self.v[r + 1].extractLsb' (64 * k) 64)) ∧
    (∀ i, i = .amovRead o ∨ i = .amovWrite o → ∀ tr,
      Issues f anyLevel (if i = .amovWrite o ∧ o.ty = .fp64 then [nextReg o.s1] else []) s x s →
      amovTrap o (decide (i = .amovRead o)) s.self n = some tr → exec i s = .next (s.takeTrap s.cur tr)) ∧
    (WellFormed (.mcap o) → Issues f (needsP1 (irOf (.mcap o))) [] s x s →
      (2 ^ 24 ≤ x.s1.toNat ∨ x.s1.toNat / 2 ^ 20 ≠ 5 → exec (.mcap o) s = .next (wrote s f o.d 0)) ∧
      (∀ m p, x.s1.toNat / 2 ^ 20 = 5 → s.partOf? s.cur = some (m, p) →
        let word := low + m * 2 ^ 34 + o.imm.toNat % 1024 * 2 ^ 24 + x.s1.toNat
        exec (.mcap o) s = .next (wrote s f o.d (BitVec.ofNat 64 (capCheck p.key word * 2 ^ 44 + word)))))

/-- R301: MCMD sends its vector as the message of type 1 and waits for the answer, which it writes to D. -/
def Sys2Proof.Claims.CommandExchange : Prop :=
  ∀ (o : OpM) (s : State) (x : Srcs) (n : Fin 16), WellFormed (.mcmd o) → o.s1 = .e n →
    Issues (fieldsM o) (limitPriv (irOf (.mcmd o)) o.imm) [] s x s →
    (s.self.commanded = false → s.commandRefusals s.cur n.val = [] → (s.self.ep n.val).binding = .user →
      (s.self.ep n.val).credit + 1 ≤ storedOutMsg (s.slot s.cur (s.self.ep n.val).slot) →
      ∃ t w, exec (.mcmd o) s = .next t ∧ t.self.wait = some w ∧ w.detail = 0x20 ∧ w.stage = .commanded ∧
        w.left = s.self.waitLeft o.imm ∧ t.self.pc = s.self.pc ∧ RestKept s t [] [] ∧
        Transmitted s t n.val 0 1 o.cls (leBytes 32 (s.self.srcV s.free 2 o.s2).toNat)) ∧
    (∀ w m bs, s.self.wait = some w → w.stage = .commanded → Deliverable s n.val m bs →
      ∃ t, exec (.mcmd o) s = .next t ∧ ChanFrame s t n.val [] [o.d] ∧ Delivered s t n.val 1 m.mt ∧
        ∀ r : Fin 64, o.d = .g r → r ≠ 0 → t.self.g[r] = BitVec.ofNat 64 (leNat bs)) ∧
    (∀ w, s.self.wait = some w → w.stage = .commanded → (s.self.ep n.val).binding = .user →
      (s.self.ep n.val).nextClose? = none → (s.self.ep n.val).nextMsg? = none →
      ∃ t v, exec (.mcmd o) s = .next t ∧ t.self.wait = some v ∧ v.stage = .commanded ∧ v.detail = 0x20 ∧ t.net = s.net ∧
        RestKept s t [] [])

/-- R299 to R302: AMOV, and the commands and capabilities carried by channels. Choices of the model: log 14, 76, 77. -/
def Obligations.ColumnAndCommandResults : Prop := Claims.ColumnMoves ∧ Claims.CommandExchange

/-- R305, R307, R308, R310, R312, R345: RED, CSUM and VOTE contribute to the next operation of their level; REDW, CSUM and VOTE
take the result that their core holds, and otherwise wait. Choices of the model: log 75. -/
def Obligations.ReductionResults : Prop :=
  ∀ (o : OpM) (s : State) (x : Srcs),
    let c := s.self
    let f := fieldsM o
    let d := c.srcWord s.free 2 o.s2 0
    let level := bits d 0 3
    let n := bits d 8 6
    let lv := c.counts[level]!
    let w := tyBits o.ty
    let waits (t : State) (detail : Nat) (m : Nat) : Prop := ∃ v, t.self.wait = some v ∧ v.detail = detail ∧
      v.left = c.waitLeft o.imm ∧ v.args = [level, m] ∧ t.self.pc = c.pc ∧
      RestKept s t [] ((List.range 16).map (0x020 + ·))
    let status (t : State) (h : HeldResult) (flags : Nat) : Prop := ∀ q : Fin 64, o.s3 = .g q → q ≠ 0 →
      t.self.g[q] = BitVec.ofNat 64 (h.missing.length % 2 ^ 32 * 2 ^ 32 + flags * 2 ^ 8 + h.status)
    (∀ r : Fin 32, WellFormed (.red o) → o.s1 = .v r →
      Issues { f with l1 := false } (limitPriv (irOf (.red o)) o.imm) (groupOf o.s1 (max 1 (redRegs o.ty n))) s x s →
      c.descBad d false true = false → elemsOk o.ty n = true → r.val % (n * w / 256) = 0 → lv.redSeq < lv.redTaken + 4 →
      c.vFreed = 0 →
      ∃ t, exec (.red o) s = .next t ∧ t.self.pc = nextAddr c.pc ∧ t.self.wait = none ∧ RestKept s t [] [] ∧
        t.self.counts[level]! = { lv with redSeq := lv.redSeq + 1 } ∧
        Contributed s t .red level (lv.redSeq + 1) { sub := o.sub.toNat, ty := o.ty, nelem := n, imm := o.imm.toNat }
          ((List.range n).map fun j =>
            (c.v[r + Fin.ofNat 32 (j / (256 / w))].extractLsb' (w * (j % (256 / w))) w).toNat) o.imm
          (fun ids => o.ord = .rel → ∀ k, k ∈ s.pendIds s.cur (fun _ => true) → k ∈ ids)) ∧
    (∀ r : Fin 32, WellFormed (.redw o) → o.d = .v r →
      Issues f.noS3 (limitPriv (irOf (.redw o)) o.imm) [] s x s → c.descBad d false true = false →
      elemsOk o.ty n = true → r.val % (n * w / 256) = 0 → lv.redSeq ≠ lv.redTaken → o.s1 = .none →
      (∀ h, c.held? .red level (lv.redTaken + 1) = some h → h.nelem = n → h.ty = o.ty → h.elems.length = n →
        ∃ t, exec (.redw o) s = .next t ∧ t.self.pc = nextAddr c.pc ∧ t.self.wait = none ∧
          RestKept s t (o.s3 :: (List.range (n * w / 256)).map fun k => .v (r + Fin.ofNat 32 k)) [] ∧ t.net = s.net ∧ GroupHolds t.self r w h.elems ∧ status t h h.flags ∧
          t.self.counts[level]! = { lv with redTaken := lv.redTaken + 1 } ∧
          t.self.held? .red level (lv.redTaken + 1) = none) ∧
      (c.held? .red level (lv.redTaken + 1) = none →
        ∃ t, exec (.redw o) s = .next t ∧ waits t 0x29 (lv.redTaken + 1) ∧ t.net = s.net)) ∧
    (∀ r : Fin 32, WellFormed (.csum o) → o.d = .v r →
      Issues f.noS3 (limitPriv (irOf (.csum o)) o.imm) [] s x s → c.descBad d true false = false → r.val % 2 = 0 →
      (c.summing level = false →
        ∃ t, exec (.csum o) s = .next t ∧ waits t 0x2A (lv.csumSeq + 1) ∧
          Contributed s t .csum level (lv.csumSeq + 1) { imm := o.imm.toNat } (c.kev.toList.map fun k => k.toNat % 2 ^ 32)
            o.imm (fun ids => ids = []) ∧
          t.self.kev = (if bits d 16 1 = 1 then Vector.replicate 16 0 else c.kev) ∧
          t.self.counts[level]! = { lv with csumSeq := lv.csumSeq + 1 }) ∧
      (∀ h, c.summing level = true → c.held? .csum level lv.csumSeq = some h → h.elems.length = 16 →
        ∃ t, exec (.csum o) s = .next t ∧ t.self.pc = nextAddr c.pc ∧ t.self.wait = none ∧
          RestKept s t [o.s3, .v r, .v (r + 1)] [] ∧ t.net = s.net ∧ GroupHolds t.self r 32 h.elems ∧ status t h 0 ∧ t.self.pendCsum.getLsbD level = false)) ∧
    (∀ (q : Fin 8) (p : Fin 8), WellFormed (.vote o) → o.d = .q q → o.s1 = .q p →
      Issues f.noS3 (limitPriv (irOf (.vote o)) o.imm) [] s x s → c.descBad d false false = false →
      (lv.voteArr = lv.voteDone →
        ∃ t, exec (.vote o) s = .next t ∧ waits t 0x2E (lv.voteArr + 1) ∧
          t.self.counts[level]! = { lv with voteArr := lv.voteArr + 1 } ∧
          ∃ k key v, t.net = s.net ++ [k] ∧ k.body = .contribution key 4 0 ((s.virt s.cur).2 * 1024 + (s.virt s.cur).1)
            { sub := o.sub.toNat } none v [] ∧ key.kind = .vote ∧ key.dom = level ∧ key.n = lv.voteArr + 1 ∧
            some key.rect = c.domain? level ∧ v.ones = if (c.qVal s.free 1 p).getLsbD 0 then 1 else 0) ∧
      (∀ h, lv.voteArr ≠ lv.voteDone → c.held? .vote level lv.voteArr = some h →
        ∃ t, exec (.vote o) s = .next t ∧ t.self.pc = nextAddr c.pc ∧ t.self.wait = none ∧
          RestKept s t [o.d, o.s3] [] ∧ t.net = s.net ∧ (q ≠ 0 → t.self.q[q] = if h.flags = 1 then BitVec.allOnes 32 else 0) ∧
          (∀ r : Fin 64, o.s3 = .g r → r ≠ 0 → t.self.g[r] = BitVec.ofNat 64 (h.ones * 2 ^ 32 + h.status)) ∧
          t.self.counts[level]! = { lv with voteDone := lv.voteArr })) ∧
    (∀ i r, i = .red o ∨ i = .redw o → o.s2 = .g r → c.descBad d false true = true →
      Issues (if i = .red o then { f with l1 := false } else f.noS3) (limitPriv (irOf i) o.imm)
        (if i = .red o then groupOf o.s1 (max 1 (redRegs o.ty n)) else []) s x s →
      exec i s = .next (s.takeTrap s.cur { cls := 0x05, detail := 0x0C, tval := d }))

/-! ## Stairs, launches and tasks, and the system instructions -/

namespace Sys2Proof.Claims

/-- A core that waits for nothing and has no unacknowledged access in its ordinary stream (R178). -/
def Quiet (s : State) : Prop := s.self.wait = none ∧ s.pending s.cur = []

/-- A core stands in FOLLOW and nobody has claimed it (R114); the g register r takes the result. -/
def InFollow (c : Core) (r : Fin 64) : Prop :=
  ∃ w, c.wait = some w ∧ w.stage = .following none ∧ w.args = [r.val] ∧ w.forward = none

/-- The 32 bytes of a task record (R334). -/
def recordAt (s : State) (a : Word) : TaskRec :=
  { w0 := patternAt s.mem (localKey s.cur a) 64, w1 := patternAt s.mem (localKey s.cur a + 8) 64,
    w2 := patternAt s.mem (localKey s.cur a + 16) 64, w3 := patternAt s.mem (localKey s.cur a + 24) 64 }

/-- A g register that an operand names holds a word, unless it is g0 (R26). -/
def Holds (c : Core) (o : Opnd) (x : Word) : Prop := ∀ r : Fin 64, o = .g r → r ≠ 0 → c.g[r] = x

/-- The word of a budget activity (R385): USED, CAP and LIMIT of 20 bits. -/
def budgetBits (used : Nat) (b : Budget) : Word :=
  BitVec.ofNat 64 (used % 2 ^ 20 * 2 ^ 40 + b.cap % 2 ^ 20 * 2 ^ 20 + b.limit % 2 ^ 20)

end Sys2Proof.Claims

/-- R113, R114, R119, R121: STAIR refuses a stair by code, claims its span, and forms it at once where every follower stands in
FOLLOW; FOLLOW refuses a member and otherwise waits to be claimed; LAND and LEAVE outside a stair only go on.
Choices of the model: log 13. -/
def Obligations.StairResults : Prop :=
  ∀ (o : OpA) (s : State) (x : Srcs),
    let f := fieldsA o
    let i := s.cur
    let len := x.s1.toNat
    let free (j : Nat) : Prop := (s.core j).isFree = true
    let x0 := (s.virt i).1
    (WellFormed (.stair o) → Issues f (limitPriv (irOf (.stair o)) o.imm) [] s x s → s.self.wait = none →
      (¬free i → exec (.stair o) s = .next (wrote s f o.d 4)) ∧
      (free i → len < 2 → exec (.stair o) s = .next (wrote s f o.d 1)) ∧
      ((∀ k, k < len → i % 1024 + k < 1024 → free (i + k)) → 2 ≤ len → len ≤ 1024 →
        x0 < bits s.self.kgroup 0 10 ∨ bits s.self.kgroup 32 10 < x0 + len - 1 →
        exec (.stair o) s = .next (wrote s f o.d 2)) ∧
      ((∀ k, k < len → i % 1024 + k < 1024 → free (i + k)) → 2 ≤ len → len ≤ 1024 → bits s.self.kgroup 0 10 ≤ x0 →
        x0 + len - 1 ≤ bits s.self.kgroup 32 10 → o.sub = 0 → i % 1024 ≤ 511 → 512 ≤ i % 1024 + len - 1 →
        exec (.stair o) s = .next (wrote s f o.d 3)) ∧
      (s.stairCode i len o.sub.toNat = none → (∃ k, 1 ≤ k ∧ k < len ∧ (s.core (i + k)).wait = none) →
        ∃ t w, exec (.stair o) s = .next t ∧ t.self.wait = some w ∧ w.detail = 0x31 ∧
          w.left = s.self.waitLeft o.imm ∧ t.self.pc = s.self.pc ∧ RestKept s t [] [] ∧
          ∀ k, k < len → (t.core (i + k)).claimed = some i) ∧
      (∀ r : Nat → Fin 64, s.stairCode i len o.sub.toNat = none → s.self.steps = false →
        (∀ k, 1 ≤ k → k < len → InFollow (s.core (i + k)) (r k)) →
        ∃ t, exec (.stair o) s = .next t ∧ Holds t.self o.d 0 ∧ RestKept s t [o.d] [0x00A] ∧
          t.stairs = s.stairs ++ [{ id := s.fresh, head := i, len := len, tread := 2 ^ o.sub.toNat }] ∧
          (∀ k, 1 ≤ k → k < len → Holds (t.core (i + k)) (.g (r k)) 0) ∧
          ∀ k, k < len →
            let c := t.core (i + k)
            c.kstair = BitVec.ofNat 64
              (2 ^ 28 + (if k = 0 then 2 ^ 27 else 0) + k * 2 ^ 16 + o.sub.toNat * 2 ^ 12 + len) ∧
            c.pc = nextAddr s.self.pc ∧ c.wait = none ∧ c.place = some { stair := s.fresh } ∧ c.claimed = none)) ∧
    (WellFormed (.follow o) → Issues f (limitPriv (irOf (.follow o)) o.imm) [] s x s → s.self.wait = none →
      (s.self.memb = true ∨ s.self.place ≠ none → exec (.follow o) s = .next (wrote s f o.d 4)) ∧
      (s.self.memb = false → s.self.place = none →
        ∃ t w, exec (.follow o) s = .next t ∧ t.self.wait = some w ∧ w.detail = 0x32 ∧
          w.stage = .following s.self.claimed ∧ w.counting = s.self.claimed.isNone ∧ w.left = s.self.waitLeft o.imm ∧
          t.self.pc = s.self.pc ∧ RestKept s t [] [])) ∧
    (WellFormed (.land o) → Issues f (limitPriv (irOf (.land o)) o.imm) [] s x s →
      (s.self.memb = false ∨ s.self.follower = true → exec (.land o) s = .next (goneOn s f)) ∧
      (∀ y, s.self.memb = true → s.self.detached = true → s.self.isHead = false → s.self.wait = none →
        s.stairOf? i = some y →
        ∃ t w z, exec (.land o) s = .next t ∧ t.self.wait = some w ∧ w.detail = 0x33 ∧ w.stage = .landed ∧
          t.stairOf? i = some z ∧ z.waiting = y.waiting ++ [i] ∧ t.self.pc = s.self.pc ∧
          RestKept s t [] [])) ∧
    (WellFormed (.leave o) → Issues f anyLevel [] s x s →
      (s.self.memb = false → exec (.leave o) s = .next (goneOn s f)) ∧
      (s.self.memb = true → s.self.detached = true → s.self.isHead = false →
        ∃ t, exec (.leave o) s = .next t ∧ t.self.kstair = 0 ∧ t.self.pc = nextAddr s.self.pc ∧ RestKept s t [] [0x00A] ∧
          ∀ p, s.self.place = some p → t.self.place = some { p with left := true }) ∧
      (∀ y, s.self.memb = true → s.self.isHead = true → s.stairOf? i = some y → y.head = i → 0 < y.len →
        ∃ t, exec (.leave o) s = .next t ∧ t.self.kstair = 0 ∧ t.self.place = none ∧ t.self.wait = none ∧
          t.self.pc = nextAddr s.self.pc ∧ RestKept s t [] [0x00A]))

/-- R320 to R325, R330, R334 to R343: LAUNCH posts a launch and gives its number; SPAWN puts a record in its group's queue and
TAKE takes the oldest and branches to its code; JOIN decrements a counter once; DONE branches and EXIT ends the thread.
Choices of the model: log 59, 62. -/
def Obligations.TaskResults : Prop :=
  ∀ (o : OpA) (s : State) (x : Srcs),
    let f := fieldsA o
    let i := s.cur
    let a := x.s1 + o.imm.signExtend 64
    let hall := i / 1024 / 64 * 16 + i % 1024 / 64
    let ws : List Word := (List.range 8).map fun n => patternAt s.mem (localKey i (a + BitVec.ofNat 64 (8 * n))) 64
    (∀ n p, WellFormed (.launch o) → Issues f (launchPriv (irOf (.launch o))) [] s x s →
      s.localTrap .load a 64 64 = none → launchTrap (irOf (.launch o)) s.self a ws = none → s.pnum i = n →
      s.part? n = some p →
      (p.pending.length < 64 →
        ∃ t q l, exec (.launch o) s = .next t ∧ t.self.pc = nextAddr s.self.pc ∧
          Holds t.self o.d (BitVec.ofNat 64 p.nextLaunch) ∧ RestKept s t [o.d] [] ∧ t.part? n = some q ∧ q.pending = p.pending ++ [l] ∧
          l.n = p.nextLaunch ∧ l.words = ws ∧ l.launcher = some i ∧ l.addr = a ∧ l.fromGroup = s.self.group ∧
          (∀ k, k ∈ s.pendIds i (fun _ => true) → k ∈ l.after) ∧ t.ownEntries i = [] ∧
          q.nextLaunch = (if p.nextLaunch + 1 < 2 ^ 32 then p.nextLaunch + 1 else 1)) ∧
      (64 ≤ p.pending.length →
        ∃ t, exec (.launch o) s = .next t ∧ t.self.pc = nextAddr s.self.pc ∧ Holds t.self o.d 0 ∧ RestKept s t [o.d] [] ∧
          t.parts = s.parts)) ∧
    (∀ n p g, WellFormed (.spawn o) → Issues f (limitPriv (irOf (.spawn o)) o.imm) [] s x s → Quiet s →
      s.localTrap .load x.s1 32 32 = none → (recordAt s x.s1).malformed = false → s.groupOf? i = some (n, p, g) →
      s.part? n = some p → (g.queue.seg hall).length < 64 →
      ∃ t q h, exec (.spawn o) s = .next t ∧ t.self.pc = nextAddr s.self.pc ∧ t.self.wait = none ∧ Holds t.self o.d 0 ∧
        RestKept s t [o.d] [] ∧ t.part? n = some q ∧ (q.groups.find? fun y => y.id == g.id) = some h ∧
        h.queue.seg hall = g.queue.seg hall ++ [recordAt s x.s1] ∧ h.queue.head = g.queue.head ∧
        h.queue.tail = g.queue.tail ∧ t.self.sent = (s.self.sent + 1) % 2 ^ 64) ∧
    (∀ n p g r rest, WellFormed (.take o) → Issues f (limitPriv (irOf (.take o)) o.imm) [] s x s → s.self.wait = none →
      (o.s1 = .none ∨ x.s1 = 0) → s.groupOf? i = some (n, p, g) → s.part? n = some p →
      g.queue.seg hall = r :: rest → s.popYields i 0 g.queue (g.cores p) = false → LegalTarget s.self r.w0 →
      ∃ t q h, exec (.take o) s = .next t ∧ t.self.pc = r.w0 ∧ t.self.wait = none ∧ t.part? n = some q ∧
        (q.groups.find? fun y => y.id == g.id) = some h ∧ t.self.rcvd = (s.self.rcvd + 1) % 2 ^ 64 ∧
        h.queue.seg hall = rest ∧
        ∀ d : Fin 64, o.d = .g d → d.val % 4 = 0 → RestKept s t [.g d, .g (d + 1), .g (d + 2), .g (d + 3)] [] ∧
          Holds t.self (.g d) r.w1 ∧ Holds t.self (.g (d + 1)) r.w2 ∧
          Holds t.self (.g (d + 2)) (BitVec.ofNat 64 (r.w3.toNat % 2 ^ 32)) ∧
          Holds t.self (.g (d + 3)) (nextAddr s.self.pc)) ∧
    (∀ n p g, WellFormed (.take o) → Issues f (limitPriv (irOf (.take o)) o.imm) [] s x s → s.self.wait = none →
      (o.s1 = .none ∨ x.s1 = 0) → s.groupOf? i = some (n, p, g) → g.queue.segs = [] → g.queue.head = g.queue.tail →
      exec (.take o) s = .next (waiting s { detail := 0x2B, left := s.self.waitLeft o.imm, args := [0] })) ∧
    (WellFormed (.join o) → Issues f.noS3 (limitPriv (irOf (.join o)) o.imm) [] s x s → Quiet s →
      (windowOf? x.s1 1).isSome = true → joinTrap s.self x.s1 = none → poisoned s (localKey i x.s1) 8 = false →
      Memory.wf s.mem = true →
      let old := patternAt s.mem (localKey i x.s1) 64
      ∃ t, exec (.join o) s = .next t ∧ t.self.pc = nextAddr s.self.pc ∧ t.self.wait = none ∧
        (o.d ≠ o.s3 → Holds t.self o.d old) ∧ Holds t.self o.s3 (if old = 0 then 0x35 else 0) ∧
        patternAt t.mem (localKey i x.s1) 64 = (if old = 0 then 0 else old - 1) ∧
        RegsKept s t [o.d, o.s3] ∧ (∀ k, k ∈ crNumbers → t.self.cr k = s.self.cr k) ∧ t.self.acc = s.self.acc ∧
        ∀ k, k < localKey i x.s1 ∨ localKey i x.s1 + 8 ≤ k → readByte t.mem k = readByte s.mem k) ∧
    (WellFormed (.done o) → Issues f (limitPriv (irOf (.done o)) o.imm) [] s x s → Quiet s → LegalTarget s.self x.s1 →
      (o.sub = 1 → s.self.tl = s.self.issued) →
      ∃ t, exec (.done o) s = .next t ∧ t.self.pc = x.s1 ∧ t.self.wait = none ∧ RestKept s t [] [] ∧
        t.self.thread = s.self.thread ∧
        ∀ e, e < 20 → t.self.ep e = if (s.self.ep e).binding = .user ∧ (s.self.ep e).mode ≠ .connecting then
          (s.self.ep e).unboundAt e else s.self.ep e) ∧
    (WellFormed (.exit o) → Issues f anyLevel [] s x s → s.self.memb = false →
      (s.pending i = [] →
        ∃ t, exec (.exit o) s = .next t ∧ t.self.thread = .done ∧ t.self.wait = none ∧ t.self.request = none ∧
          t.ownEntries i = [] ∧ RestKept s t [] [] ∧
          ∀ e, e < 20 → t.self.ep e = if (s.self.ep e).binding = .user ∧ (s.self.ep e).mode ≠ .connecting then
            (s.self.ep e).unboundAt e else s.self.ep e) ∧
      (s.pending i ≠ [] →
        ∃ t w, exec (.exit o) s = .next t ∧ t.self.wait = some w ∧ w.counting = false ∧ t.self.pc = s.self.pc ∧
          t.self.thread = s.self.thread ∧ t.ownEntries i = [] ∧ RestKept s t [] [] ∧ t.self.eps = s.self.eps))

/-- R344, R350, R351, R385: SSTEP arrives at its superstep and waits, and completes with its number; YIELD accepts a pending
pre-emption request or goes on; WDOG returns what is left of the watchdog and arms or stops it; BUDGET reads an activity's
word and sends a new bound. Choices of the model: log 42, 86. -/
def Obligations.ThreadControlResults : Prop :=
  ∀ (o : OpA) (s : State) (x : Srcs),
    let f := fieldsA o
    let c := s.self
    let level := bits x.s1 0 3
    let lv := c.counts[level]!
    (WellFormed (.sstep o) → Issues f (limitPriv (irOf (.sstep o)) o.imm) [] s x s → c.descBad x.s1 false false = false →
      (lv.stepArr = lv.stepDone → Quiet s →
        ∃ t w k key v, exec (.sstep o) s = .next t ∧ t.self.wait = some w ∧ w.detail = 0x2D ∧
          w.args = [level, lv.stepArr + 1] ∧ t.self.pc = c.pc ∧ RestKept s t [] [] ∧
          t.self.counts[level]! = { lv with stepArr := lv.stepArr + 1 } ∧ t.net = s.net ++ [k] ∧
          k.body = .contribution key 4 0 ((s.virt s.cur).2 * 1024 + (s.virt s.cur).1) {} none v [] ∧
          key.kind = .step ∧ key.dom = level ∧ key.n = lv.stepArr + 1 ∧ some key.rect = c.domain? level) ∧
      (∀ h, lv.stepArr ≠ lv.stepDone → c.held? .step level lv.stepArr = some h →
        ∃ t, exec (.sstep o) s = .next t ∧ t.self.pc = nextAddr c.pc ∧ t.self.wait = none ∧
          Holds t.self o.d (BitVec.ofNat 64 lv.stepArr) ∧ t.net = s.net ∧ RestKept s t [o.d] [] ∧
          t.self.counts[level]! = { lv with stepDone := lv.stepArr })) ∧
    (WellFormed (.yield o) → Issues f anyLevel [] s x s → c.follower = false →
      (c.request = none ∨ c.intrap = true → exec (.yield o) s = .next (wrote s f o.d 0)) ∧
      (∀ h, c.request = some h → c.intrap = false →
        ∃ t, exec (.yield o) s = .next t ∧ t.self.pc = nextAddr c.pc ∧ t.self.diverting = true ∧ Holds t.self o.d 1 ∧
          t.ownEntries s.cur = [] ∧ (∀ e ∈ s.ownEntries s.cur, s.drainedAs e ∈ t.flight) ∧
          RestKept s t [o.d] [])) ∧
    (WellFormed (.wdog o) → Issues f anyLevel [] s x s →
      ∃ t, exec (.wdog o) s = .next t ∧ t.self.pc = nextAddr c.pc ∧
        Holds t.self o.d (BitVec.ofNat 64 (c.kwdog.toNat % 2 ^ 32)) ∧
        t.self.kwdog = (if c.level ≠ 0 ∨ o.imm ≠ 0 ∧ c.kwdog.getLsbD 63 = false then
          (if o.imm = 0 then 0 else BitVec.ofNat 64 (2 ^ 63 + o.imm.toNat)) else c.kwdog) ∧
        RegsKept s t [o.d] ∧ OwnFrame s t { c with kwdog := t.self.kwdog, g := t.self.g }) ∧
    (∀ n p, WellFormed (.budget o) → s.partOf? s.cur = some (n, p) →
      let act := o.imm.toNat % 16
      let at' := act * 8 + if act = 3 then o.imm.toNat / 16 % 8 else 0
      let used := if act = 3 then p.usedAt 3 (o.imm.toNat / 16 % 8)
        else if act = 4 then p.usedAt 4 (s.cur / 1024 / 64 * 16 + s.cur % 1024 / 64)
        else if act = 5 then p.usedAt 5 0
        else p.usedAt act (2 ^ 16 + s.cur / 1024 / 4 * 256 + s.cur % 1024 / 4)
      let d := budgetBits used (tget {} p.budgets at')
      act ≤ 5 →
      (Issues f anyLevel [] s x s → o.s2 = .none → exec (.budget o) s = .next (wrote s f o.d d)) ∧
      (Issues f (needsP1 (irOf (.budget o))) [] s x s → o.s2 ≠ .none → bits x.s2 20 44 = 0 →
        ∃ t q, exec (.budget o) s = .next t ∧ t.self.pc = nextAddr c.pc ∧ Holds t.self o.d d ∧ t.part? n = some q ∧
          RestKept s t [o.d] [] ∧ q = { p with budgets := q.budgets } ∧
          ∀ k, k < (if act = 3 then 8 else 1) →
            tget? q.budgets (act * 8 + k) = some { tget {} p.budgets (act * 8 + k) with nextCap := some (max 1 x.s2.toNat) }) ∧
      (Issues f (needsP1 (irOf (.budget o))) [] s x s → o.s2 ≠ .none → bits x.s2 20 44 ≠ 0 →
        exec (.budget o) s = .next (s.takeTrap s.cur { cls := 0x05, detail := 0x0F, tval := x.s2 })))

/-- R386, R403, R413 to R415: SHOOT starts a shoot-down and waits until it is complete; CSAVE sends a core's record and CREST
reads one back, a malformed place answering ADDRESS; the request form asks the cores of a rectangle, and the resume form
brings back those that are away. Choices of the model: log 68, 69, 70. -/
def Obligations.ContextResults : Prop :=
  ∀ (o : OpA) (s : State) (x : Srcs),
    let f := fieldsA o
    let c := s.self
    let i := s.cur
    let badPlace := bits x.s1 57 7 ≠ 0 ∨ 2 < winOf x.s1 ∨ x.s1.toNat % 256 ≠ 0
    (WellFormed (.shoot o) → Issues f (needsP1 (irOf (.shoot o))) [] s x s →
      (c.wait = none → bits x.s2 2 62 = 0 → bits x.s2 0 2 ≠ 3 → bits x.s1 57 7 = 0 → winOf x.s1 ≤ 2 →
        s.shootPeer i x.s1 = some true →
        ∃ t w y, exec (.shoot o) s = .next t ∧ t.self.wait = some w ∧ w.detail = 0x34 ∧ w.stage = .shooting y.id ∧
          w.left = c.waitLeft o.imm ∧ t.self.pc = c.pc ∧ RestKept s t [] [] ∧ t.shoots = s.shoots ++ [y] ∧
          y.part = s.pnum i ∧ y.stage = 1 ∧ y.issuer = some i ∧ y.away = false ∧ y.done = false ∧ y.acked = [] ∧
          (∀ k, k ∈ s.pendIds i (fun _ => true) → k ∈ y.after) ∧
          y.page = some (windowOfAddr x.s1, bits x.s1 0 36 / spanBytes (3 - bits x.s2 0 2) * spanBytes (3 - bits x.s2 0 2),
            bits x.s2 0 2)) ∧
      (∀ w n, c.wait = some w → w.stage = .shooting n → (∀ y ∈ s.shoots, y.id = n → y.done = true) →
        exec (.shoot o) s =
          .next { wrote s f o.d 0 with shoots := s.shoots.filter fun y => y.id != n }) ∧
      (c.wait = none → bits x.s2 2 62 ≠ 0 →
        exec (.shoot o) s = .next (s.takeTrap i { cls := 0x05, detail := 0x0F, tval := x.s2 }))) ∧
    (WellFormed (.csave o) → Issues f (needsP1 (irOf (.csave o))) [] s x s →
      (c.wait = none → badPlace → exec (.csave o) s = .next (wrote s f o.d 0x0A)) ∧
      (Quiet s → ¬badPlace → c.tl = c.issued →
        ∃ t w ids, exec (.csave o) s = .next t ∧ t.self.wait = some w ∧ w.detail = 0x27 ∧ w.stage = .saving ids ∧
          t.self.pc = c.pc ∧ RestKept s t [] [] ∧
          ∃ y ∈ t.flight, y.id = s.fresh ∧ y.core = i ∧ y.cls = .o ∧ y.addr = x.s1 ∧ y.posted = false ∧
            y.kind = .store ((s.recHeader i (nextAddr c.pc) (o.imm.toNat % 128)).mapIdx fun k b => (k, b))) ∧
      (∀ w ids, c.wait = some w → w.stage = .saving ids → (∀ n ∈ ids, ∃ y bs, s.access? n = some y ∧
        y.phase = .returned 0 bs) →
        exec (.csave o) s = .next { wrote s f o.d 0 with flight := s.flight.filter fun y => !ids.contains y.id })) ∧
    (WellFormed (.csaveRect o) → Issues f (needsP1 (irOf (.csaveRect o))) [] s x s →
      (rectWordBad x.s2 = true → exec (.csaveRect o) s = .next (wrote s f o.d 0x0A)) ∧
      (rectWordBad x.s2 = false →
        exec (.csaveRect o) s = .next { wrote s f o.d (BitVec.ofNat 64 (s.inRect i x.s2).length) with
          mesh := s.mesh ++ ((s.inRect i x.s2).filter fun j => (s.core j).thread != .none).map fun j => (j, false) })) ∧
    (WellFormed (.crest o) → c.level ≠ 0 → Issues f anyLevel [] s x s →
      (c.wait = none → badPlace → o.imm.toNat < 16 → exec (.crest o) s = .next (wrote s f o.d 0x0A)) ∧
      (c.wait = none → ¬badPlace → o.imm = 1 →
        ∃ t w, exec (.crest o) s = .next t ∧ t.self.wait = some w ∧
          w.stage = .saving ((List.range 25).map (s.fresh + ·)) ∧ t.self.pc = c.pc ∧ RestKept s t [] [] ∧
          ∃ y ∈ t.flight, y.id = s.fresh ∧ y.core = i ∧ y.addr = x.s1 + 0x40 ∧ y.kind = .read 64) ∧
      (∀ w (ids : List Nat) (bs : Nat → List Byte), c.wait = some w → w.stage = .saving ids → o.imm = 1 →
        ids.length = 25 → (∀ k, k < 25 → (bs k).length = 64 ∧ ∃ y, s.access? ids[k]! = some y ∧
          y.phase = .returned 0 (bs k)) →
        ∃ t, exec (.crest o) s = .next t ∧ t.self.pc = nextAddr c.pc ∧ t.self.wait = none ∧ t.mem = s.mem ∧
          Holds t.self o.d 0 ∧ t.self.acc = c.acc ∧ t.self.eps = c.eps ∧
          ∀ r : Fin 64, r ≠ 0 → o.d ≠ .g r →
            t.self.g[r] = BitVec.ofNat 64 (leNat (((bs (r.val / 8)).drop (8 * (r.val % 8))).take 8)))) ∧
    (WellFormed (.crestRect o) → Issues f (needsP1 (irOf (.crestRect o))) [] s x s →
      (rectWordBad x.s2 = true → exec (.crestRect o) s = .next (wrote s f o.d 0x0A)) ∧
      (rectWordBad x.s2 = false → s.resumable i x.s2 = [] → exec (.crestRect o) s = .next (wrote s f o.d 0)) ∧
      (∀ j, rectWordBad x.s2 = false → s.resumable i x.s2 = [j] → j ≠ i → (s.core j).preempted = true →
        (s.core j).restored = true → (s.core j).spill = [] →
        ∃ t, exec (.crestRect o) s = .next t ∧ t.self.pc = nextAddr c.pc ∧ Holds t.self o.d 1 ∧ RestKept s t [o.d] [] ∧
          (t.core j).preempted = false ∧ (t.core j).diverting = false ∧ (t.core j).wait = none ∧
          (t.core j).request = none ∧ (t.core j).g = (s.core j).g ∧ (t.core j).pc = (s.core j).pc) ∧
      (∀ j, rectWordBad x.s2 = false → s.resumable i x.s2 = [j] → j ≠ i → (s.core j).preempted = false →
        ∃ t, exec (.crestRect o) s = .next t ∧ t.self.pc = nextAddr c.pc ∧ Holds t.self o.d 1 ∧ RestKept s t [o.d] [] ∧
          t.core j = { s.core j with resumeDue := true }))

/-! ## Events of the part -/

namespace Sys2Proof.Claims

/-- The only unfinished command of a core is k, with one item that is not done, and its context has counted up to it. -/
def SoleItem (s : State) (r : ItemRef) (k : Cmd) (p : ItemPhase) : Prop :=
  (s.core r.core).cmds = [k] ∧ k.ctx = r.ctx.val ∧ k.tl = r.tl ∧ r.item = 0 ∧ k.items = [p] ∧ p ≠ .done ∧
    k.matrix = false ∧ k.started = true ∧ k.obj = none ∧ s.cmdReady r.core k = true

/-- That command has finished: it is gone, and its timeline has reached what its context issued (R188). -/
def ItemFinished (s t : State) (r : ItemRef) : Prop :=
  (t.core r.core).cmds = [] ∧ (t.core r.core).tl[r.ctx] = (s.core r.core).issued[r.ctx] ∧
    (t.core r.core).issued = (s.core r.core).issued ∧ (t.core r.core).pc = (s.core r.core).pc

/-- The address of an access lies at a hall that serves it, and translates there (R361): node, physical address, leaf
places. -/
def Translates (s : State) (a : Access) (n acc node place p1 p2 : Nat) : Prop :=
  ∃ w v p i e1 e2 seen, s.dest (s.partOfSource a.core) a.addr = .here node w v ∧
    s.part? (s.partOfSource a.core) = some p ∧ p.dBase = 0 ∧ nodeKind node = 1 ∧ s.nodeDown node = false ∧
    (s.iface node).powered = true ∧
    s.translate (s.partOfSource a.core) p node node w v n acc = (.ok place i e1 e2 p1 p2, seen)

/-- DETAIL of a failed fetch (R108). -/
def lineFault : Nat → Nat
  | 0x03 => 0x07
  | 0x04 => 0x08
  | 0x02 => 0x09
  | 0x0A => 0x0A
  | 0x10 => 0x0B
  | 0x11 => 0x0C
  | _ => 0x0D

end Sys2Proof.Claims

/-- R108, R133, R181, R186, R202, R233, R361: a fill brings a line into the cache, or its failure; an entry that has stood 32
cycles drains; an access arrives and is performed; its acknowledgement ends it, a failure as a posted fault; an arrival
counts on its object; a changed word wakes its waiter. -/
def Sys2Proof.Claims.StreamEvents : Prop :=
  ∀ s : State, Memory.wf s.mem = true →
    (∀ core line st bs u, line.toNat % 64 = 0 → s.fetchHeld core line = false →
      s.reach (s.pnum core) line (.read 64 true) (.fetch core line) [] = (.done st bs, u) →
      ∃ t l, exec (.lineFill core line) s = .next t ∧ (t.core core).cached? line = some l ∧
        (t.core core).icache.length ≤ 128 ∧ (st = 0 → l.bytes = bs ∧ l.failed = none) ∧
        (st ∈ [0x02, 0x03, 0x04, 0x0A, 0x10, 0x11, 0x12] → l.failed = some (lineFault st)) ∧ t.mem = u.mem ∧
        t.core core = { u.core core with icache := (t.core core).icache }) ∧
    (∀ cl e, e ∈ (s.cluster cl).comb → 32 ≤ e.age →
      ∃ t, exec (.entryDrain cl e.id) s = .next t ∧ e ∉ (t.cluster cl).comb ∧ s.drainedAs e ∈ t.flight ∧
        t.cores = s.cores ∧ t.mem = s.mem ∧ t.parts = s.parts) ∧
    (∀ n a u, s.access? n = some a → s.mayArrive a = true → s.routedAccess a = (true, u) →
      (∀ len node place p1 p2, a.kind = .read len → Translates u a len 0 node place p1 p2 →
        poisoned s (physKey node place) len = false →
        ∃ t b, exec (.remoteAccessArrival (.flight n)) s = .next t ∧ t.mem = s.mem ∧ t.access? n = some b ∧
          b.phase = .performed 0 (readBytes s.mem (physKey node place) len)) ∧
      (∀ bs node place p1 p2, a.kind = .store bs → bs.Pairwise (fun x y => x.1 < y.1) →
        Translates u a (Req.write bs).size 1 node place p1 p2 → cutsPoison s (physKey node place) bs = false →
        ∃ t b, exec (.remoteAccessArrival (.flight n)) s = .next t ∧ t.access? n = some b ∧ b.phase = .performed 0 [] ∧
          (∀ x ∈ bs, physKey node place + x.1 ≠ p1 + 7 → physKey node place + x.1 ≠ p2 + 7 →
            readByte t.mem (physKey node place + x.1) = x.2) ∧
          ∀ k, (∀ x ∈ bs, k ≠ physKey node place + x.1) → k ≠ p1 + 7 → k ≠ p2 + 7 →
            readByte t.mem k = readByte s.mem k) ∧
      (∀ v o count b, a.kind = .arrival s.board.peer v o count → s.objectAt a.node o = true →
        (s.core a.node).diverts = false → s.objUndef (localKey a.node o) = false → s.obj (localKey a.node o) = b →
        ∃ t c, exec (.remoteArrival n) s = .next t ∧ t.obj (localKey a.node o) = updated b count 0 ∧
          t.access? n = some c ∧ c.phase = .performed 0 [] ∧
          ∀ k, k < localKey a.node o ∨ localKey a.node o + 32 ≤ k → readByte t.mem k = readByte s.mem k) ∧
      (∀ v o count, a.kind = .arrival s.board.peer v o count → s.objectAt a.node o = false →
        ∃ t c, exec (.remoteArrival n) s = .next t ∧ t.access? n = some c ∧ c.phase = .performed 0x0A [] ∧
          t.mem = s.mem)) ∧
    (∀ n a, s.access? n = some a →
      (∀ st bs, a.phase = .performed st bs → s.allAcked a.core a.after = true → a.core < 2 ^ 20 →
        (a.posted = true → (∀ e ∈ (s.cluster (clusterOf a.core)).comb, e.id ≠ n) →
          ∃ t, exec (.acknowledgement n none) s = .next t ∧ t.access? n = none) ∧
        (a.posted = true → st ≠ 0 → (s.core a.core).postedQ.length < 16 →
          ∃ t more, exec (.acknowledgement n none) s = .next t ∧ (t.core a.core).postedQ =
            (s.core a.core).postedQ ++ { addr := a.addr, status := st, posted := true } :: more) ∧
        (a.posted = false → exec (.acknowledgement n none) s = .next { s with
          flight := s.flight.map fun b => if b.id = n then { b with phase := .returned st bs } else b }))) ∧
    (∀ core w m, (s.core core).wait = some w → m ∈ (s.cluster (clusterOf core)).monitors → m.core = core → m.fired = true →
      ∃ t, exec (.waitaWake core) s = .next t ∧ (t.core core).wait = some { w with stage := .monitoring true } ∧
        (∀ x ∈ (t.cluster (clusterOf core)).monitors, x.core ≠ core) ∧ t.mem = s.mem)

/-- R188 to R191, R197, R201: the last item of a command ends: its bytes are written, or its failure recorded, the command
finishes and its timeline advances; an MCAST ends with the statuses of its members. -/
def Sys2Proof.Claims.EngineEvents : Prop :=
  ∀ (s : State) (r : ItemRef) (k : Cmd), Memory.wf s.mem = true →
    (∀ l a n bs, SoleItem s r k (.served bs) → k.op = .get l a n → 0 < n → a.toNat % 64 + n ≤ 64 → bs.length = n →
      partlyPoisoned s (localKey r.core l) n = false →
      ∃ t, exec (.engineItemEnd r none) s = .next t ∧ ItemFinished s t r ∧
        readBytes t.mem (localKey r.core l) n = bs ∧ (t.core r.core).faultQ = (s.core r.core).faultQ ∧
        ∀ b, b < localKey r.core l ∨ localKey r.core l + n ≤ b → readByte t.mem b = readByte s.mem b) ∧
    (∀ l a n st, SoleItem s r k (.failed st) → k.op = .get l a n → st ≠ 0 → ((s.core r.core).faultQ[r.ctx]).length < 16 →
      ∃ t, exec (.engineItemEnd r none) s = .next t ∧ ItemFinished s t r ∧ t.mem = s.mem ∧
        (t.core r.core).faultQ[r.ctx] = (s.core r.core).faultQ[r.ctx] ++
          [{ addr := a, status := st, ctx := r.ctx.val, item := 0, tlnum := r.tl }]) ∧
    (∀ l a n bs, SoleItem s r k (.served bs) → k.op = .put l a n →
      ∃ t, exec (.engineItemEnd r none) s = .next t ∧ ItemFinished s t r ∧ t.mem = s.mem ∧
        (t.core r.core).faultQ = (s.core r.core).faultQ) ∧
    (∀ p l a n g q ms outside, SoleItem s r k p → k.op = .mcast l a n g → s.partOf? r.core = some q →
      mcastFits a n = true → s.groupFor q.2.ttag g = some ms →
      (∀ m ∈ ms, s.memberStatus r.core p outside m.2 = some 0) →
      ∃ t, exec (.combinedAcknowledgement r outside) s = .next t ∧ ItemFinished s t r ∧
        (t.core r.core).faultQ = (s.core r.core).faultQ) ∧
    (∀ p l a n g q outside, SoleItem s r k p → k.op = .mcast l a n g → s.partOf? r.core = some q →
      mcastFits a n = true → s.groupFor q.2.ttag g = none → ((s.core r.core).faultQ[r.ctx]).length < 16 →
      ∃ t, exec (.combinedAcknowledgement r outside) s = .next t ∧ ItemFinished s t r ∧
        (t.core r.core).faultQ[r.ctx] = (s.core r.core).faultQ[r.ctx] ++
          [{ addr := a, status := 0x14, ctx := r.ctx.val, item := 0, tlnum := r.tl }])

/-- R185, R189: the acknowledgements of the ordinary stream, and the ends of engine items.
Choices of the model: log 9, 11, 120. -/
def Obligations.StreamAndEngineEvents : Prop := Claims.StreamEvents ∧ Claims.EngineEvents

namespace Sys2Proof.Claims

/-- The words of a page request (R366), which names its interface by the partition's own node identifier (R422). -/
def RequestWords (s : State) (node : Nat) (r : PageReq) (ws : List Word) : Prop :=
  ∃ w1 : Word, ws = [r.addr, w1, if r.stage = 2 then word r.iaddr else 0, 0] ∧ bits w1 48 16 = r.tag ∧ bits w1 40 8 = 0 ∧
    bits w1 39 1 = (if r.rep = 0 then 0 else 1) ∧ bits w1 36 3 = r.rep ∧ bits w1 34 2 = r.stage ∧ bits w1 32 2 = r.acc ∧
    bits w1 24 8 = 0 ∧ bits w1 0 24 = s.virtNode r.part node

/-- The bytes that words have in memory, least significant byte first. -/
def inMemory (ws : List Word) : List Byte := (ws.map fun w => leBytes 8 w.toNat).flatten

/-- A shoot-down names a cached entry: its stage, its window, and a page that meets its region (R370). -/
def Named (x : Shoot) (e : CacheEntry) : Prop :=
  e.part = x.part ∧ e.stage = x.stage ∧ (∀ w, x.window = some w → e.window = w) ∧
    ∀ w a c, x.page = some (w, a, c) → e.window = w ∧ e.page * spanBytes e.size < a + spanBytes (3 - c) ∧
      a < e.page * spanBytes e.size + spanBytes e.size

end Sys2Proof.Claims

/-- R366, R367, R370, R438: a waiting page request enters its ring; a FAIL ends what a request held with PAGE-DENIED; a
SUCCESS walks it again and posts a notice; a reply to nothing is discarded; a shoot-down removes what it names from a cache,
and completes; an interface that wakes has an empty cache. Choices of the model: log 63, 64, 65, 86. -/
def Obligations.PageEvents : Prop :=
  ∀ s : State, Memory.wf s.mem = true →
    (∀ node r ring, s.postable? node = some r → s.reqRing r.part r.stage = ring → r.tag < 65536 →
      r.stage = 1 ∨ r.stage = 2 → r.acc < 4 → r.rep < 8 → s.virtNode r.part node < 2 ^ 24 →
      ∃ t ws, exec (.pageRequestPost node) s = .next t ∧ RequestWords s node r ws ∧
        readBytes t.mem (hostKey (ring.base.toNat + 32 * (ring.prod.toNat % 2 ^ ring.log))) 32 = inMemory ws ∧
        t.reqRing r.part r.stage = { ring with prod := ring.prod + 1 } ∧
        t.board.msix = s.board.msix ++ [(if r.stage = 1 then r.part + 1 else 0, 0)] ∧
        (∀ x ∈ (t.iface node).requests, x.tag = r.tag → x.posted = true) ∧
        ∀ k, k < hostKey (ring.base.toNat + 32 * (ring.prod.toNat % 2 ^ ring.log)) ∨
          hostKey (ring.base.toNat + 32 * (ring.prod.toNat % 2 ^ ring.log)) + 32 ≤ k →
          readByte t.mem k = readByte s.mem k) ∧
    (∀ pnum stage ring, s.replyRing pnum stage = ring → ring.enabled = false ∨ ring.prod = ring.cons →
      exec (.pageReply pnum stage) s = .next s) ∧
    (∀ pnum stage ring w0 w1, s.replyRing pnum stage = ring → ring.enabled = true → ring.prod ≠ ring.cons →
      readBytes s.mem (hostKey (ring.base.toNat + 16 * (ring.cons.toNat % 2 ^ ring.log))) 16 = inMemory [w0, w1] →
      (s.replied pnum stage (bits w0 48 16) (bits w0 0 24) = none →
        exec (.pageReply pnum stage) s = .next (s.setReplyRing pnum stage { ring with cons := ring.cons + 1 })) ∧
      ∀ node r id a, s.replied pnum stage (bits w0 48 16) (bits w0 0 24) = some (node, r) → r.accesses = [id] →
        r.items = [] → r.fetches = [] → r.peers = [] → r.inbound = [] → s.access? id = some a →
        (bits w1 0 8 = 1 → ∃ t, exec (.pageReply pnum stage) s = .next t ∧
          t.access? id = some { a with phase := .performed 0x12 [] } ∧
          t.replyRing pnum stage = { ring with cons := ring.cons + 1 } ∧
          (t.iface node).requests = (s.iface node).requests.filter (fun x => x.tag != r.tag) ∧ t.mem = s.mem) ∧
        (∀ len at1 place p1 p2 u, bits w1 0 8 = 0 → a.kind = .read len →
          (a.stream && s.behindOrder a.core id a.node a.cls) = false →
          let b := { a with phase := .sent, reps := again a.reps (tget 0 a.reps (r.key node)) }
          (((s.setReplyRing pnum stage { ring with cons := ring.cons + 1 }).dropRequest node r.tag).onAccess id
            fun _ => b).comeAccess b = (.clear, u) →
          Translates u b len 0 at1 place p1 p2 → poisoned s (physKey at1 place) len = false →
          ∃ t b, exec (.pageReply pnum stage) s = .next t ∧ t.access? id = some b ∧
            b.phase = .performed 0 (readBytes s.mem (physKey at1 place) len) ∧
            t.replyRing pnum stage = { ring with cons := ring.cons + 1 } ∧
            ∀ p, s.part? pnum = some p → p.heldNotices = [] → (∀ y ∈ s.flight, y.core ≠ partSource pnum) → (p.notices.seg p.originHall).length < 64 →
              ∃ q x, t.part? pnum = some q ∧ q.notices.seg p.originHall = p.notices.seg p.originHall ++ [x] ∧
                x.w0 = r.addr ∧ x.w1 = word pnum ∧ x.w2 = 0 ∧ bits x.w3 60 4 = 1 ∧ bits x.w3 52 8 = 1)) ∧
    (∀ x cache, s.shoots.find? (fun y => y.id == x.id) = some x → x.away = false → s.allAcked x.origin x.after = true →
      cache ∈ s.unackedCaches x →
      ∃ t, exec (.shootDown x.id cache) s = .next t ∧
        (∀ e, e ∈ (t.iface cache).cache ↔ e ∈ (s.iface cache).cache ∧ ¬ Named x e) ∧
        (∀ n, n ≠ cache → t.iface n = s.iface n) ∧ t.shoots.find? (fun y => y.id == x.id) =
          some { x with acked := x.acked ++ [cache] } ∧ t.mem = s.mem ∧ t.cores = s.cores ∧ t.flight = s.flight) ∧
    (∀ x, s.shoots.find? (fun y => y.id == x.id) = some x → s.allAcked x.origin x.after = true → x.asker = none →
      x.away = true ∧ x.acked ≠ [] ∨ x.away = false ∧ s.unackedCaches x = [] →
      ∃ t, exec (.shootDownComplete x.id) s = .next t ∧ { t with shoots := s.shoots } = s ∧
        (x.issuer = none → ∀ y ∈ t.shoots, y.id ≠ x.id) ∧
        ((∃ i, x.issuer = some i) → t.shoots.find? (fun y => y.id == x.id) = some { x with done := true })) ∧
    (∀ node, isIface node = true →
      exec (.interfacePowerDown node) s = .next (s.setIface node { s.iface node with powered := false }) ∧
      ((s.iface node).powered = false →
        exec (.interfaceWake node) s = .next (s.setIface node { s.iface node with powered := true, cache := [] }))) ∧
    (s.clock < 65536 → exec .budgetPeriod s = .next s) ∧
    (65536 ≤ s.clock → s.stalled = [] →
      ∃ t, exec .budgetPeriod s = .next t ∧ { t with parts := s.parts, clock := s.clock } = s ∧ t.clock = 0 ∧
      ∀ n p, s.part? n = some p → ∃ q, t.part? n = some q ∧ q.used = [] ∧
        { q with used := p.used, budgets := p.budgets } = p ∧
        ∀ c b, tget {} p.budgets c = b → tget {} q.budgets c =
          { cap := b.nextCap.getD b.cap, limit := b.nextLimit.getD b.limit, nextCap := none, nextLimit := none })

namespace Sys2Proof.Claims

/-- A packet stands in the network for a core of this package that takes it itself, and the routers on its way have budget
left (R376). -/
def Arriving (s : State) (p : Packet) : Prop :=
  s.packet? p.id = some p ∧ p.dst < Config.coreCount ∧ (s.core p.dst).diverts = false ∧ (s.routed p).1 = true

/-- No packet between the same two endpoints, of a body that keeps its order with it, stands before it. -/
def InOrder (s : State) (p : Packet) (mine : Body → Bool) : Prop :=
  ∀ q ∈ s.net, q.dst = p.dst → q.ep = p.ep → q.src = p.src → q.chan = p.chan → mine q.body = true → p.id ≤ q.id

/-- The packet has been taken and others sent; no other core and no access in flight differs, and no partition but for what
the packet has used of the routers' budgets. -/
def Taken (s t : State) (p : Packet) (sent : List Packet) : Prop :=
  t.net = s.net.filter (fun q => q.id != p.id) ++ sent ∧ (∀ j, j ≠ p.dst → t.core j = s.core j) ∧ t.flight = s.flight ∧
    t.parts = (s.routed p).2.parts ∧ t.stairs = s.stairs ∧ t.nodes = s.nodes

/-- The same, nothing sent, memory unchanged, and of the core only the packet's endpoint changed as f says. -/
def EndpointOnly (s t : State) (p : Packet) (f : Endpoint → Endpoint) : Prop :=
  Taken s t p [] ∧ t.mem = s.mem ∧ t.core p.dst = (s.core p.dst).setEp p.ep (f ((s.core p.dst).ep p.ep))

/-- A core that leads no stream, follows none, and takes no step trap. -/
def OnItsOwn (s : State) (i : Nat) : Prop :=
  (s.core i).steps = false ∧ (∀ w, (s.core i).wait = some w → w.forward = none) ∧ s.streamItem? i = none

end Sys2Proof.Claims

/-- R142, R145, R147, R153, R174: a message is placed in its slot; a word joins the queue of its LINK port; a credit returns;
a close notice closes the endpoint; hold and release notices mark it. Choices of the model: log 42, 47. -/
def Obligations.MessageEvents : Prop :=
  ∀ (s : State) (p : Packet), Memory.wf s.mem = true → Arriving s p → p.ep < 20 →
    let x := (s.core p.dst).ep p.ep
    let bound := x.binding = .user ∧ x.chan = p.chan ∧ (x.mode = .openM ∨ x.mode = .closedAt ∨ x.mode = .handover)
    (∀ seq mt bs d, p.body = .msg seq mt bs false d → bound →
      let k := tcmKey p.dst (x.slotAt (storedSlotSize (s.slot p.dst x.slot)) seq)
      ∃ t, exec (.messageArrival p.id) s = .next t ∧ Taken s t p [] ∧
        ((t.core p.dst).ep p.ep).arrived = x.arrived ++ [{ seq := seq, mt := mt, deleg := d }] ∧
        readBytes t.mem k bs.length = bs ∧ (∀ n, n < 20 → n ≠ p.ep → (t.core p.dst).ep n = (s.core p.dst).ep n) ∧
        (t.core p.dst).pc = (s.core p.dst).pc ∧ (t.core p.dst).g = (s.core p.dst).g ∧
        ∀ b, b < k ∨ k + bs.length ≤ b → readByte t.mem b = readByte s.mem b) ∧
    (∀ w, p.body = .word w → InOrder s p Body.isWord →
      ∃ t, exec (.messageArrival p.id) s = .next t ∧ EndpointOnly s t p fun y => { y with linkIn := y.linkIn ++ [w] }) ∧
    (p.body = .credit → bound →
      ∃ t, exec (.creditReturn p.id) s = .next t ∧ EndpointOnly s t p fun y => { y with credit := y.credit - 1 }) ∧
    (∀ final w, p.body = .close final w → bound → x.mode = .openM → bits w 48 1 = 1 ∨ nodeKind p.src = 0 →
      ∃ t, exec (.closeNotice p.id) s = .next t ∧ EndpointOnly s t p fun y =>
        { y with mode := .closedAt, orderly := bits w 48 1 == 1, closeNote := some (final, w) }) ∧
    (∀ final w, p.body = .close final w → bound → x.mode = .closedAt → bits w 48 1 = 1 ∨ nodeKind p.src = 0 →
      exec (.closeNotice p.id) s = .next ((s.routed p).2.takeOff p)) ∧
    (p.chan ≠ 0 → InOrder s p Body.isHold → bound →
      (p.body = .hold → ∃ t, exec (.holdNotice p.id) s = .next t ∧
        EndpointOnly s t p fun y => { y with peerHeld := true }) ∧
      (p.body = .release → ∃ t, exec (.releaseNotice p.id) s = .next t ∧
        EndpointOnly s t p fun y => { y with peerHeld := false }))

/-- R160, R161: a request is held at its endpoint; an acceptance binds the connector, which confirms, and a refusal is its
connection fault; the confirmation binds the acceptor; a withdrawal removes the request. -/
def Obligations.ConnectionEvents : Prop :=
  ∀ (s : State) (p : Packet), Memory.wf s.mem = true → Arriving s p → p.ep < 20 →
    let c := s.core p.dst
    let x := c.ep p.ep
    (∀ r, p.body = .request r →
      ∃ t, exec (.connectionRequest p.id) s = .next t ∧ EndpointOnly s t p fun y => { y with requests := y.requests ++ [r] }) ∧
    (∀ w b k node ep a1 a2 a3 base n, p.body = .answer 0 node ep → c.wait = some w → w.stage = .connecting p.chan b →
      w.args = p.ep :: a1 :: a2 :: a3 :: k → x.mode = .connecting → x.chan = p.chan → x.binding = .user →
      nodeKind x.peer = 0 →
      s.reserve p.dst (s.slot p.dst x.slot) = some (base, n) → OnItsOwn s p.dst →
      ∃ t q, exec (.acceptorAnswer p.id) s = .next t ∧ Taken s t p [q] ∧ q.body = .confirm ∧ q.chan = p.chan ∧
        q.ep = x.peerEp ∧ (t.core p.dst).wait = none ∧ (t.core p.dst).pc = nextAddr c.pc ∧
        let y := (t.core p.dst).ep p.ep
        y.mode = .openM ∧ y.slot = x.slot ∧ y.chan = p.chan ∧ y.peer = x.peer ∧ y.peerEp = x.peerEp ∧ y.state = 0 ∧
          y.sseq = 0 ∧ y.rseq = 0 ∧ y.credit = 0 ∧ y.outstd = 0 ∧ y.rbase = base ∧ y.rslots = n) ∧
    (∀ w b k st node ep a1, p.body = .answer st node ep → st ≠ 0 → st < 256 → c.wait = some w →
      w.stage = .connecting p.chan b → w.args = p.ep :: a1 :: k → x.mode = .connecting → x.chan = p.chan →
      c.level < 2 → c.intrap = false → bits c.kvec 6 58 ≠ 0 →
      ∃ t, exec (.acceptorAnswer p.id) s = .next t ∧ ((t.core p.dst).ep p.ep).mode = (if p.ep < 16 then .unbound else .openM) ∧
        bits (t.core p.dst).kcause 0 8 = 0x08 ∧ bits (t.core p.dst).kcause 8 8 = st ∧
        (t.core p.dst).ktval = word a1 ∧ (t.core p.dst).kepc = c.pc) ∧
    (p.body = .confirm → c.kept? p.ep p.chan = none →
      ∃ t, exec (.confirmation p.id) s = .next t ∧ EndpointOnly s t p fun y =>
        { y with requests := y.requests.map fun r => if r.chan = p.chan then { r with confirmed := true } else r }) ∧
    (∀ kb r w b d z l rest, p.body = .confirm → c.kept? p.ep p.chan = some kb → kb.pending = some r → c.wait = some w →
      w.stage = .accepting p.chan b → w.args = p.ep :: d :: z :: l :: rest → r.chan = p.chan → OnItsOwn s p.dst →
      ∃ t, exec (.confirmation p.id) s = .next t ∧ Taken s t p [] ∧ (t.core p.dst).wait = none ∧
        (t.core p.dst).pc = nextAddr c.pc ∧ (t.core p.dst).kept? p.ep p.chan = none ∧
        (∀ g : Fin 64, d = g.val → g ≠ 0 → r.ep < 32 → r.slot < 8 → (s.placeOf r.core).1 < 512 →
          s.nodeTold p.dst (s.placeOf r.core).1 r.node < 2 ^ 24 →
          ∃ v : Word, (t.core p.dst).g[g] = v ∧ bits v 48 16 = (s.placeOf r.core).1 ∧ bits v 40 8 = 0 ∧ bits v 35 5 = r.ep ∧
            bits v 32 3 = r.slot ∧ bits v 0 24 = s.nodeTold p.dst (s.placeOf r.core).1 r.node) ∧
        let y := (t.core p.dst).ep p.ep
        y.mode = .openM ∧ y.slot = z ∧ y.chan = p.chan ∧ y.peer = r.node ∧ y.peerEp = r.ep ∧ y.state = 0 ∧ y.rseq = 0 ∧
          y.sseq = 0) ∧
    (p.body = .withdraw → (∀ q ∈ s.net, q.chan = p.chan → ∀ r, q.body ≠ .request r) →
      ∃ t, exec (.withdrawal p.id) s = .next t ∧ Taken s t p [] ∧ t.mem = s.mem ∧
        ((t.core p.dst).ep p.ep).requests = x.requests.filter (fun r => r.chan != p.chan) ∧
        (t.core p.dst).kept = c.kept.filter (fun k => !(k.ep == p.ep && k.chan == p.chan)) ∧ (t.core p.dst).pc = c.pc)

/-- R148 to R151: a memory peer takes a request and returns its credit; the new holder's notice redirects the peer, which
answers with the last number it sent and sends there from then on; once the old holder has all, the new one is OPEN.
Choices of the model: log 57. -/
def Obligations.HandoverEvents : Prop :=
  ∀ (s : State),
    (∀ q bs seq, s.peer? q.chan = some q → q.matrix = false → q.held = false → q.phase = .ready → q.arrived = [(q.rseq, seq, bs, false)] →
      bs.length = 32 → fieldAt bs 8 4 ≠ 0 → fieldAt bs 8 4 ≤ 65535 → fieldAt bs 8 4 ≤ shapeWindow q.enc + 1 →
      fieldAt bs 16 16 = 0 →
      ∃ t m r, exec (.memoryPeerRequest q.chan) s = .next t ∧ t.net = s.net ++ [m] ∧ m.body = .credit ∧ m.dst = q.core ∧
        m.ep = q.ep ∧ m.chan = q.chan ∧ t.peer? q.chan = some r ∧ r.arrived = [] ∧ r.rseq = (q.rseq + 1) % 2 ^ 16 ∧
        r.phase = (if q.write then
          .writing (word (fieldAt bs 0 8)) (fieldAt bs 8 4) (signedOf 32 (fieldAt bs 12 4)) 0 false
        else .reading (word (fieldAt bs 0 8)) (fieldAt bs 8 4) (signedOf 32 (fieldAt bs 12 4)) 0 false) ∧
        t.mem = s.mem ∧ t.cores = s.cores) ∧
    ∀ p : Packet, Arriving s p → p.ep < 20 →
      let c := s.core p.dst
      let x := c.ep p.ep
      (∀ dst de k y, p.body = .adopted dst de → c.kept? p.ep p.chan = some k → k.failedWith = none → k.desc = some y →
        k.credits = 0 → y.peerHeld = false → k.moved = none → k.closeNote = none → k.last = none →
        s.letGo (dst, de) p.chan = false →
        ∃ t q kb, exec (.adoptedNotice p.id) s = .next t ∧ Taken s t p [q] ∧ t.mem = s.mem ∧ q.dst = s.route p.dst y ∧
          q.ep = y.peerEp ∧ q.chan = y.chan ∧ q.body = .redirect dst de ∧ (t.core p.dst).kept? p.ep p.chan = some kb ∧
          kb = { k with newHolder := some (dst, de) } ∧ (t.core p.dst).eps = c.eps) ∧
      (∀ dst de, p.body = .redirect dst de → x.binding = .user → x.chan = p.chan →
        x.mode = .openM ∨ x.mode = .closedAt ∨ x.mode = .handover →
        ∃ t q, exec (.redirect p.id) s = .next t ∧ Taken s t p [q] ∧ t.mem = s.mem ∧ q.dst = s.route p.dst x ∧
          q.ep = x.peerEp ∧ q.chan = x.chan ∧ q.body = .redirected ((x.sseq + 2 ^ 16 - 1) % 2 ^ 16) ∧
          t.core p.dst = c.setEp p.ep { x with peer := (s.placeOf dst).2, peerPkg := (s.placeOf dst).1, peerEp := de }) ∧
      (∀ last k y dst de, p.body = .redirected last → c.kept? p.ep p.chan = some k → k.failedWith = none → k.passed = false →
        k.desc = some y → k.newHolder = some (dst, de) → k.msgs = [] → k.closeNote = none → dst ≠ p.dst → dst < 2 ^ 24 → de < 20 → (s.core dst).diverts = false → ((s.core dst).ep de).mode = .handover →
        ((s.core dst).ep de).binding = .user → ((s.core dst).ep de).chan = p.chan →
        y.rseq = (last + 1) % 2 ^ 16 →
        ∃ t kb, exec (.redirectAnswer p.id) s = .next t ∧ t.mem = s.mem ∧ ((t.core dst).ep de).mode = .openM ∧
          (t.core p.dst).kept? p.ep p.chan = some kb ∧ kb.passed = true ∧ kb.len = 0 ∧
          t.net = s.net.filter (fun q => q.id != p.id))

namespace Sys2Proof.Claims

/-- A contribution or partial stands in the network for a node, and the accesses that it waits for are acknowledged (R308). -/
def Reporting (s : State) (q : Packet) (key : TreeKey) (level idx slot : Nat) (p : TreeParams) (limit : Option Nat)
    (v : NodeVal) : Prop :=
  s.packet? q.id = some q ∧ ∃ after, q.body = .contribution key level idx slot p limit v after ∧ s.allAcked q.chan after = true

/-- Each of the members has a result in the network. -/
def AnswerGoes (s t : State) (part : Nat) (members : List Nat) (r : HeldResult) : Prop :=
  ∀ m ∈ members, ∃ q ∈ t.net, q.dst = s.memberAt part m ∧ q.body = .result r

/-- The members whose slot of a node is empty (R309). -/
def Absent (d : TreeNode) (m : Nat) : Prop :=
  ∃ k ∈ presentSlots (rectFrom d.key.rect) d.level d.idx, tget? d.slots k = none ∧
    m ∈ slotMembers (rectFrom d.key.rect) d.level d.idx k

end Sys2Proof.Claims

/-- R304, R308 to R310, R344, R345: a node takes a contribution, starts its timer with the first, passes its value up when
every slot has reported or the timer expires, names the members that are missing, and completes a mismatch at once; results
reach their members; a superstep or vote completes when every member has arrived or is done.
Choices of the model: log 75. -/
def Obligations.TreeEvents : Prop :=
  ∀ (s : State),
    (∀ q key level idx slot p limit v, Reporting s q key level idx slot p limit v → key.kind = .red ∨ key.kind = .csum →
      s.late? key p = none → level ≠ 5 → v.mismatch = false →
      (∀ d, s.node? key level idx = some d → d.passed = false → d.mismatch = false → d.p = p →
        { d with slots := tset d.slots slot v }.full = false →
        ∃ t, exec (.contribution q.id) s = .next t ∧ t.net = s.net.filter (fun x => x.id != q.id) ∧
          t.node? key level idx = some { d with slots := tset d.slots slot v } ∧ t.finals = s.finals ∧ t.cores = s.cores ∧
          t.mem = s.mem) ∧
      (s.node? key level idx = none →
        (presentSlots (rectFrom key.rect) level idx).any (fun k => k != slot) = true →
        ∃ t d, exec (.contribution q.id) s = .next t ∧ t.net = s.net.filter (fun x => x.id != q.id) ∧
          t.node? key level idx = some d ∧ d.slots = [(slot, v)] ∧ d.p = p ∧ d.left = limit ∧ d.limit = limit ∧
          d.passed = false ∧ t.finals = s.finals ∧ t.cores = s.cores ∧ t.mem = s.mem) ∧
      (∀ d, s.node? key 4 idx = some d → level = 4 → d.passed = false → d.p ≠ p →
        ∃ t f, exec (.contribution q.id) s = .next t ∧ f ∈ t.finals ∧ f.key = key ∧ f.status = 0x1C ∧ f.v.missing = [] ∧
          (∀ e ∈ f.v.elems, e = 0) ∧ t.node? key 4 idx = none ∧
          AnswerGoes s t key.part ((tset d.slots slot v).map fun k => k.2.members).flatten f.result) ∧
      (∀ d, s.node? key 4 idx = some d → level = 4 → d.passed = false → d.mismatch = false → d.p = p →
        (∀ k ∈ tset d.slots slot v, k.2.mismatch = false ∧ k.2.poison = false ∧ k.2.missing = []) →
        { d with slots := tset d.slots slot v }.full = true →
        ∃ t f, exec (.contribution q.id) s = .next t ∧ f ∈ t.finals ∧ f.key = key ∧ f.status = 0 ∧ f.v.missing = [] ∧
          (∀ x, combineSlots key.kind p 4 (tset d.slots slot v) = some x → x.elems ≠ [] →
            f.v.elems = (x.canonical key.kind p.ty).elems) ∧
          AnswerGoes s t key.part ((tset d.slots slot v).map fun k => k.2.members).flatten f.result)) ∧
    (∀ d, s.nodes.find? (fun x => x.id == d.id) = some d → d.left = some 0 → d.passed = false → s.isHeld d.key.part = false →
      d.mismatch = false → (∀ k ∈ d.slots, k.2.mismatch = false) → d.level < 4 →
      ∃ t q v, exec (.nodeTimerExpiry d.id) s = .next t ∧ t.net = s.net ++ [q] ∧
        (∃ idx slot, q.body = .contribution d.key (d.level + 1) idx slot d.p d.limit v []) ∧
        (∀ m, m ∈ v.missing ↔ Absent d m ∨ ∃ k ∈ d.slots, m ∈ k.2.missing) ∧
        v.elems = ((combineSlots d.key.kind d.p d.level d.slots).map fun x =>
          (x.canonical d.key.kind d.p.ty).elems).getD [] ∧
        (∀ x ∈ t.nodes, x.id = d.id → x.passed = true) ∧ t.finals = s.finals) ∧
    (∀ d m, s.nodes.find? (fun x => x.id == d.id) = some d → d.left = some 0 → d.passed = false →
      s.isHeld d.key.part = false → d.mismatch = false → (∀ k ∈ d.slots, k.2.mismatch = false ∧ k.2.poison = false) →
      d.level = 4 → Absent d m →
      ∃ t f, exec (.nodeTimerExpiry d.id) s = .next t ∧ f ∈ t.finals ∧ f.key = d.key ∧ f.status = 0x05 ∧ m ∈ f.v.missing ∧
        AnswerGoes s t d.key.part (d.slots.map fun k => k.2.members).flatten f.result) ∧
    (∀ p r, Arriving s p → p.body = .result r →
      ∃ t, exec (.resultArrival p.id) s = .next t ∧ Taken s t p [] ∧ t.mem = s.mem ∧
        t.core p.dst = { s.core p.dst with results := (s.core p.dst).results ++ [r] }) ∧
    (∀ d, s.nodes.find? (fun x => x.id == d.id && x.key.kind == .step) = some d → s.awaited d = [] →
      ∃ t, exec (.superstepComplete d.id) s = .next t ∧ (∀ x ∈ t.nodes, x.id ≠ d.id) ∧ t.cores = s.cores ∧ t.mem = s.mem ∧
        AnswerGoes s t d.key.part (d.slots.map Prod.fst) { kind := .step, level := d.key.dom, n := d.key.n }) ∧
    (∀ d all, s.nodes.find? (fun x => x.id == d.id && x.key.kind == .vote) = some d → s.awaited d = [] →
      (rectFrom d.key.rect).members.length = all →
      ∃ t r, exec (.voteComplete d.id) s = .next t ∧ (∀ x ∈ t.nodes, x.id ≠ d.id) ∧ t.cores = s.cores ∧ t.mem = s.mem ∧
        AnswerGoes s t d.key.part (d.slots.map Prod.fst) r ∧ r.kind = .vote ∧ r.level = d.key.dom ∧ r.n = d.key.n ∧
        r.ones = (d.slots.map fun x => x.2.ones).sum + (if d.p.sub = 0 then all - d.slots.length else 0) ∧
        r.status = (if d.mismatch then 0x1C else 0) ∧
        (d.mismatch = false → d.p.sub = 0 → (r.flags = 1 ↔ r.ones = all)) ∧
        (d.mismatch = false → d.p.sub ≠ 0 → (r.flags = 1 ↔ 0 < r.ones)) ∧ (d.mismatch = true → r.flags = 0))

namespace Sys2Proof.Claims

/-- The next message of a matrix unit's side of a channel: its type and bytes, and its core takes it (R286). -/
def UnitNext (s : State) (q : PeerSide) (mt : Nat) (bs : List Byte) : Prop :=
  s.peer? q.chan = some q ∧ q.matrix = true ∧ (s.core (nodeIdx q.node)).diverts = false ∧ q.arrived = [(q.rseq, mt, bs, false)]

/-- An answer of a unit: the credit of what it took and a status word, as R286 lays it out. -/
def Answered (s t : State) (q : PeerSide) (tl left st : Nat) (more : List Packet) : Prop :=
  ∃ a b bs x, t.net = s.net ++ [a, b] ++ more ∧ a.body = .credit ∧ a.dst = q.core ∧ a.ep = q.ep ∧ b.dst = q.core ∧
    b.ep = q.ep ∧ b.chan = q.chan ∧ b.body = .msg q.sseq 2 bs false none ∧ bs = leBytes 8 x ∧ x / 2 ^ 32 = tl ∧
    x / 2 ^ 16 % 2 ^ 16 = left ∧ x % 2 ^ 16 = st

/-- A matrix command of core i is the oldest, none of its items has run, it may start, and the budget admits it. -/
def Runs (s : State) (i : Nat) (k : Cmd) : Prop :=
  (s.core i).cmds.find? (·.matrix) = some k ∧ (∀ p ∈ k.items, p = .pending) ∧ s.cmdReady i k = true ∧
    (k.started = true ∨ s.admits (s.pnum i) 4 0 (hallOf i) = true)

/-- It has run: its items have these statuses, 0 for OK. -/
def HasRun (t : State) (i : Nat) (k : Cmd) (sts : List Nat) : Prop :=
  ∃ x ∈ (t.core i).cmds, x.ctx = k.ctx ∧ x.tl = k.tl ∧
    x.items = sts.map fun st => if st = 0 then .served [] else .failed st

end Sys2Proof.Claims

/-- R274, R275, R286 to R289, R293, R294, R296, R298: a unit answers a capability word and a command vector; the oldest
accepted command runs whole: a block is latched, rows accumulate, columns become FREE, the status record is written.
Choices of the model: log 74. -/
def Obligations.MatrixEvents : Prop :=
  ∀ (s : State), Memory.wf s.mem = true →
    (∀ q bs w p, UnitNext s q 0 bs → bs = leBytes 8 w → w < 2 ^ 64 → s.part? q.part = some p →
      let x := BitVec.ofNat 64 w
      (bits x 44 20 = bits (Config.capCode p.key [word (bits x 0 44)]) 0 20 → bits x 0 24 = s.asSeen q.node →
        bits x 34 6 = q.part → s.pnum (nodeIdx q.node) = q.part → bits x 24 10 ≠ 0 →
        ∃ t r, exec (.capWord q.chan) s = .next t ∧ Answered s t q 0 (bits x 24 10) 0 [] ∧ t.peer? q.chan = some r ∧
          r.auth = some (x, 0) ∧ t.cores = s.cores ∧ t.mem = s.mem) ∧
      (s.capGood q x = false →
        ∃ t a final cw, exec (.capWord q.chan) s = .next t ∧ Answered s t q 0 0 0x30 [a] ∧ a.body = .close final cw ∧
          bits cw 56 8 = 0x30 ∧ t.peer? q.chan = none ∧ t.cores = s.cores ∧ t.mem = s.mem)) ∧
    (∀ q bs w n, UnitNext s q 1 bs → bs.length = 32 → q.auth = some (w, n) → q.cmd = none →
      let i := nodeIdx q.node
      let op := fieldAt bs 0 4 % 512
      let ctx := fieldAt bs 0 4 / 2 ^ 18 % 4
      (bits w 24 10 ≤ n →
        ∃ t a final cw, exec (.commandVector q.chan) s = .next t ∧ Answered s t q 0 0 0x32 [a] ∧ a.body = .close final cw ∧
          bits cw 56 8 = 0x32 ∧ t.peer? q.chan = none ∧ t.cores = s.cores) ∧
      (n < bits w 24 10 → (∃ b, rightBit op = some b ∧ bits w b 1 = 0) →
        ∃ t, exec (.commandVector q.chan) s = .next t ∧ Answered s t q 0 (bits w 24 10 - n) 0x31 [] ∧ t.cores = s.cores) ∧
      (∀ ins k, n < bits w 24 10 → (∀ b, rightBit op = some b → bits w b 1 = 1) → carried? bs = some ins →
        s.matIssue i { s.core i with kpriv := setBits (s.core i).kpriv 0 2 0 } ins (word (fieldAt bs 8 8))
          (word (fieldAt bs 16 8)) (word (fieldAt bs 24 8)) = k → k.trap = none → 0 < k.items →
        (s.core i).contextFull (Fin.ofNat 4 ctx) = false →
        ∃ t r x, exec (.commandVector q.chan) s = .next t ∧ t.peer? q.chan = some r ∧ r.auth = some (w, n + 1) ∧
          r.cmd = some (ctx, (s.core i).issued[Fin.ofNat 4 ctx] + 1) ∧ x ∈ (t.core i).cmds ∧ x.ctx = ctx ∧
          x.tl = (s.core i).issued[Fin.ofNat 4 ctx] + 1 ∧ x.op = k.op ∧ x.items = k.phases ∧
          x.matrix = true ∧ x.chan = some q.chan ∧ (t.core i).accepted = (s.core i).accepted + 1 ∧
          (t.core i).carried = (s.core i).carried + 1 ∧ (t.core i).pc = (s.core i).pc)) ∧
    ∀ i k, Runs s i k →
      (∀ ty mode axis a sc, k.op = .mloadw ty mode axis a sc → modeOk ty mode = true → mode = 0 ∨ axis = 0 →
        s.localPoison i a (imageBytes ty) = false → s.localPoison i sc (scaleBytes ty mode) = false →
        ∃ t b, exec (.matrixQueueRun i) s = .next t ∧ HasRun t i k [0] ∧ (t.core i).latched = some b ∧ b.fmt = ty ∧
          b.mode = mode ∧ b.axis = axis ∧ b.elems = s.loadEngine i a (imageBytes ty) ∧
          b.scales = (if scaleBytes ty mode = 0 then [] else s.loadEngine i sc (scaleBytes ty mode)) ∧
          (s.unsettled = [] → b.elems = readBytes s.mem (localKey i a) (imageBytes ty)) ∧
          (t.core i).acc = (s.core i).acc ∧ t.mem = s.mem) ∧
      (∀ ty mode axis a sc, k.op = .mloadw ty mode axis a sc → modeOk ty mode = false ∨ (mode ≠ 0 ∧ axis ≠ 0) →
        ∃ t, exec (.matrixQueueRun i) s = .next t ∧ HasRun t i k [0x08] ∧ (t.core i).latched = none ∧
          (t.core i).acc = (s.core i).acc ∧ t.mem = s.mem) ∧
      (∀ ty mode axis src sc c0 rows b, k.op = .mstream ty mode axis src sc c0 rows → (s.core i).latched = some b →
        matClass ty = matClass b.fmt → modeOk ty mode = true → mode = 0 ∨ axis = 0 → c0 + colsPerRow ty * rows ≤ 256 →
        (∀ n, c0 ≤ n → n < c0 + colsPerRow ty * rows → ((s.core i).col n).bad = false ∧ ((s.core i).col n).state ≠ .park ∧
          (((s.core i).col n).state = .acc → ((s.core i).col n).fmt = accTy ty)) →
        (∀ r, r < rows → ∀ j, j < matKb ty → (s.rowElem i src ty sc mode r j).2 = false) →
        ∃ t, exec (.matrixQueueRun i) s = .next t ∧ HasRun t i k (List.replicate rows 0) ∧
          (∀ r, r < rows → ∀ n, n < 8 →
            (t.core i).accOut (matClass ty == 0) (c0 + colsPerRow ty * r) n =
              (macOut ty mode b ((List.range (matKb ty)).map fun j => (s.rowElem i src ty sc mode r j).1) n
                ((s.core i).accOut (matClass ty == 0) (c0 + colsPerRow ty * r) n)).1
                % 2 ^ (if matClass ty = 0 then 64 else 32)) ∧
          (∀ n, c0 ≤ n → n < c0 + colsPerRow ty * rows → ((t.core i).col n).state = .acc ∧
            ((t.core i).col n).fmt = accTy ty) ∧
          (∀ n, n < 256 → n < c0 ∨ c0 + colsPerRow ty * rows ≤ n → (t.core i).col n = (s.core i).col n) ∧ t.mem = s.mem) ∧
      (∀ c0 n, k.op = .mclr c0 n → c0 + n ≤ 256 →
        (∀ j, c0 ≤ j → j < c0 + n → ((s.core i).col j).state ≠ .park ∧
          (((s.core i).col j).state = .acc → ((s.core i).col j).fmt = .fp64 →
            c0 ≤ (if j % 2 = 0 then j + 1 else j - 1) ∧ (if j % 2 = 0 then j + 1 else j - 1) < c0 + n)) →
        ∃ t, exec (.matrixQueueRun i) s = .next t ∧ HasRun t i k (List.replicate n 0) ∧
          (∀ j, c0 ≤ j → j < c0 + n → ((t.core i).col j).state = .free ∧ ((t.core i).col j).bits = 0) ∧
          (∀ j, j < 256 → j < c0 ∨ c0 + n ≤ j → (t.core i).col j = (s.core i).col j) ∧ t.mem = s.mem) ∧
      (∀ dst, k.op = .mstat dst → ∃ t first, exec (.matrixQueueRun i) s = .next t ∧ HasRun t i k [0] ∧
        readBytes t.mem (localKey i dst) 16 = leBytes 8 first ++
          leBytes 8 ((s.core i).accepted % 2 ^ 32 * 2 ^ 32 + min (s.core i).carried 0xFFFF) ∧
        ((s.core i).latched = none → first = 0) ∧
        (∀ b, (s.core i).latched = some b → first = 2 ^ 63 + tyCode b.fmt * 2 ^ 8 + b.mode * 2 ^ 4 + b.axis) ∧
        ∀ x, x < localKey i dst ∨ localKey i dst + 96 ≤ x → readByte t.mem x = readByte s.mem x)

namespace Sys2Proof.Claims

/-- A core can take a trap into its handler (R393, R394). -/
def CanTrap (c : Core) : Prop := c.level < 2 ∧ c.intrap = false ∧ bits c.kvec 6 58 ≠ 0

/-- A core whose thread runs and that is neither halted nor away, in a partition that is not held, outside every stair. -/
def Alone (s : State) (i : Nat) : Prop :=
  (s.core i).thread = .running ∧ (s.core i).halted = false ∧ (s.core i).diverts = false ∧ s.heldPart i = false ∧
    (s.core i).memb = false ∧ (s.core i).place = none

/-- Core i has taken a trap (R391, R393): the saved registers, the level, and the handler's address. -/
def TrapTaken (s t : State) (i cls detail : Nat) (tval epc : Word) : Prop :=
  let c := s.core i
  let d := t.core i
  bits d.kcause 0 8 = cls ∧ bits d.kcause 8 8 = detail ∧ bits d.kcause 16 48 = 0 ∧ d.ktval = tval ∧ d.kepc = epc ∧
    d.intrap = true ∧ bits d.kstatus 0 2 = c.level ∧ bits d.kstatus 2 1 = c.mie ∧ d.mie = 0 ∧ d.level = 1 ∧
    bits d.pc 0 6 = 0 ∧ bits d.pc 6 58 = bits c.kvec 6 58 ∧ d.wait = none

end Sys2Proof.Claims

/-- R113, R119, R322, R348, R349, R352, R391, R403, R404: a claimed span forms its stair; a landing attaches the members that
wait; a loaded core begins; a wait whose limit has run out, and a watchdog, are traps; a request reaches a core, which accepts
it, writes its record, and is away; a halted core goes on, at the level it came from. Choices of the model: log 12, 17, 41. -/
def Obligations.ThreadEvents : Prop :=
  ∀ (s : State), Memory.wf s.mem = true →
    (∀ i w len code d last, ∀ r : Nat → Fin 64, (s.core i).wait = some w → w.stage = .claiming len → w.args = [len, code, d, last] →
      w.forward = none → (s.core i).steps = false → 2 ≤ len → len ≤ 1024 → code < 16 →
      (∀ k, 1 ≤ k → k < len → ∃ v, (s.core (i + k)).wait = some v ∧ v.stage = .following (some i) ∧
        v.args = [(r k).val]) →
      ∃ t, exec (.stairFormation i) s = .next t ∧ t.mem = s.mem ∧
        t.stairs = s.stairs ++ [{ id := s.fresh, head := i, len := len, tread := 2 ^ code }] ∧
        (∀ k, 1 ≤ k → k < len → Holds (t.core (i + k)) (.g (r k)) 0) ∧
        (∀ g : Fin 64, d = g.val → g ≠ 0 → (t.core i).g[g] = 0) ∧
        ∀ k, k < len →
          let c := t.core (i + k)
          c.kstair = BitVec.ofNat 64 (2 ^ 28 + (if k = 0 then 2 ^ 27 else 0) + k * 2 ^ 16 + code * 2 ^ 12 + len) ∧
          c.pc = nextAddr (s.core i).pc ∧ c.wait = none ∧ c.place = some { stair := s.fresh } ∧ c.claimed = none) ∧
    (∀ i x p, s.stairOf? i = some x → x.head = i → x.landing = some p → (s.core i).isLanding = true →
      (∀ j ∈ x.span, (s.core j).arrivedAt x j p = true) → OnItsOwn s i → i ∉ x.waiting → x.waiting.Nodup →
      ∃ t, exec (.landing i) s = .next t ∧ t.mem = s.mem ∧ (t.core i).wait = none ∧
        (t.core i).pc = nextAddr (s.core i).pc ∧ t.stair? x.id = some { x with landing := none, waiting := [] } ∧
        ∀ j ∈ x.waiting, (t.core j).wait = none ∧ (t.core j).pc = nextAddr (s.core j).pc ∧ (t.core j).detached = false ∧
          (t.core j).place = some { stair := x.id, next := p }) ∧
    (∀ i, (s.core i).thread = .loaded → s.heldPart i = false →
      exec (.kernelEntry i) s = .next (s.setCore i { s.core i with thread := .running })) ∧
    (∀ i w, Alone s i → CanTrap (s.core i) → (s.core i).wait = some w → w.left = some 0 → w.counting = true →
      s.waitMet i w = false → w.stage = .plain → w.detail < 256 →
      ∃ t, exec (.waitExpiry i) s = .next t ∧
        TrapTaken s t i 0x09 w.detail (word (0x8000000000000000 + (0x1EFC0 - (s.core i).chb))) (s.core i).pc ∧
        (t.core i).g = (s.core i).g) ∧
    (∀ i, (s.core i).idles = false → exec (.watchdogExpiry i) s = .next s) ∧
    (∀ i w, Alone s i → CanTrap (s.core i) → (s.core i).wdogPending = true → (s.core i).wait = some w → w.stage = .plain →
      s.expired i = false →
      ∃ t, exec (.watchdogExpiry i) s = .next t ∧ TrapTaken s t i 0x0A 0 0 (s.core i).pc ∧
        (t.core i).wdogPending = false ∧ (t.core i).g = (s.core i).g) ∧
    (∀ i m, s.mesh.find? (fun m => m.1 == i) = some m →
      ∃ t, exec (.meshInterrupt i) s = .next t ∧ t.mesh = s.mesh.erase m ∧ t.mem = s.mem ∧
        (∀ j ∈ s.extended i, (s.core j).thread = .running → (s.core j).preempted = false →
          (t.core j).request = some (m.2 || (s.core j).request.getD false)) ∧
        ∀ j, j ∉ s.extended i → t.core j = s.core j) ∧
    (∀ i halt, (s.core i).request = some halt → (s.core i).thread = .running → (s.core i).diverts = false →
      (s.core i).halted = false → (s.core i).memb = false → (s.core i).place = none → (s.core i).wait = none →
      (s.core i).wdogPending = false → halt = true ∨ (s.core i).mie = 1 →
      ∃ t, exec (.preEmption i) s = .next t ∧ (t.core i).diverting = true ∧ (t.core i).thread = .running ∧
        (t.core i).pc = (s.core i).pc ∧ (t.core i).g = (s.core i).g ∧ t.mem = s.mem) ∧
    (∀ i, (s.core i).diverting = true → (s.core i).saving = none → s.quiesced i = true → s.stairAccepted i = true →
      bits (s.core i).ksave 8 56 ≠ 0 →
      ∃ t ids as, exec (.preEmption i) s = .next t ∧ (t.core i).saving = some ids ∧ t.flight = s.flight ++ as ∧
        as.map (·.id) = ids ∧ 0x25000 ≤ 64 * as.length ∧ t.mem = s.mem ∧
        ∀ j a, as[j]? = some a → a.core = i ∧ a.posted = false ∧ a.phase = .sent ∧
          a.addr = BitVec.ofNat 64 (bits (s.core i).ksave 8 56 * 256 + 64 * j) ∧
          ∃ bs, a.kind = .store bs ∧ (j < 2368 → bs.length = 64)) ∧
    (∀ i ids, (s.core i).diverting = true → (s.core i).saving = some ids →
      (∀ id ∈ ids, ∃ a bs, s.access? id = some a ∧ a.phase = .returned 0 bs) → (s.core i).resumeDue = false →
      (s.core i).headed = true → (s.core i).queueFailed = false → (s.core i).queueIds = [] →
      ∃ t, exec (.preEmption i) s = .next t ∧ (t.core i).preempted = true ∧ (t.core i).diverting = false ∧
        (t.core i).saving = none ∧ (t.core i).request = none ∧ (t.core i).pc = (s.core i).pc ∧
        ∀ a ∈ t.flight, a.id ∉ ids) ∧
    (∀ i ids u, (s.core i).diverting = true → (s.core i).saving = some ids →
      (∀ id ∈ ids, ∃ a bs, s.access? id = some a ∧ a.phase = .returned 0 bs) → (s.core i).resumeDue = false →
      (s.core i).headed = false →
      ((s.dropAll ids).queueWrite i ((s.core i).saveArea + word 0x25000) (spillHeader (s.core i).spillTail)).queueWrite i
        ((s.core i).saveArea + word 0x25040) (((s.core i).spill.map Spilled.toBytes).flatten) = u →
      (u.core i).diverting = true → (u.core i).resumeDue = false → (u.core i).queueFailed = false →
      ∃ t, exec (.preEmption i) s = .next t ∧
        ((u.core i).queueIds = [] → (t.core i).preempted = true ∧ (t.core i).saving = none ∧
          (t.core i).diverting = false) ∧
        ((u.core i).queueIds ≠ [] → (t.core i).preempted = (u.core i).preempted ∧ (t.core i).headed = true ∧
          (t.core i).saving = some (u.core i).queueIds ∧ (t.core i).diverting = true)) ∧
    (∀ i, (s.core i).halted = true →
      ∃ t, exec (.haltEnd i) s = .next t ∧ (t.core i).halted = false ∧ (t.core i).monitored = false ∧ t.mem = s.mem ∧
        (t.core i).pc = (s.core i).pc ∧ (t.core i).g = (s.core i).g ∧
        ((s.core i).monitored = false → (t.core i).kpriv = (s.core i).kpriv) ∧
        ((s.core i).monitored = true → (t.core i).level = (s.core i).enteredFrom % 4) ∧
        ∀ e, e < 20 → ((t.core i).ep e).mode ≠ .unbound → ((t.core i).ep e).held = false)

namespace Sys2Proof.Claims

/-- A group of a partition ends or has ended: every core of it is done (R330). -/
def AllDone (t : State) (p : Partition) (g : Group) : Prop := ∀ i ∈ g.cores p, (t.core i).thread = .done

/-- Nothing of a group's cores is left to do, and their handovers have come to their end (R331, R426). -/
def Spent (s : State) (p : Partition) (g : Group) : Prop := ∀ i ∈ g.cores p, s.endHandovers i = s ∧ s.spent i = true

/-- No core of a group is a member of a stair or waits. -/
def Unstaired (s : State) (p : Partition) (g : Group) : Prop :=
  ∀ i ∈ g.cores p, (s.core i).memb = false ∧ (s.core i).wait = none

end Sys2Proof.Claims

/-- R152, R322, R326 to R333, R402, R417: a turn places a launch's group at the first rectangle that fits and loads its cores,
retires a launch that fails its checks, and places nothing in a held partition; a group that has ended is freed, and its launch
reports; two sweeps that agree end a launch; a supervisor ends a group; a hall's reset clears its cores.
Choices of the model: log 67. -/
def Obligations.SchedulerEvents : Prop :=
  ∀ (s : State) (n : Nat) (p : Partition), Memory.wf s.mem = true → s.part? n = some p →
    (p.hold = true → exec (.schedulerTurn n) s = .next s) ∧
    (∀ l m r, p.hold = false → p.pending = [l] → p.running = [] → p.heldNotices = [] → s.posted l = true →
      l.checked = false → recGang l.words = 0 → recGroups l.words = 1 → l.placed = 0 → p.launchFails l.words = none →
      p.image? l.words = some m →
      s.firstFit p (p.groups.map Group.rect) (4 * (recShape l.words).1) (4 * (recShape l.words).2) = some r →
      ∃ t q g, exec (.schedulerTurn n) s = .next t ∧ t.part? n = some q ∧ q.pending = [] ∧
        q.running.map (·.n) = [l.n] ∧ q.groups = p.groups ++ [g] ∧ g.id = p.nextGroup ∧ g.launch = l.n ∧ g.x0 = r.x ∧
        g.y0 = r.y ∧ g.w = 4 * (recShape l.words).1 ∧ g.h = 4 * (recShape l.words).2 ∧
        ∀ i ∈ g.cores p, (t.core i).thread = .loaded ∧ (t.core i).pc = recWord l.words 0 ∧
          (t.core i).g[(1 : Fin 64)] = recWord l.words 6 ∧ (t.core i).g[(2 : Fin 64)] = recWord l.words 7 ∧
          (t.core i).g[(3 : Fin 64)] = 0 ∧ (t.core i).level = 0 ∧ (t.core i).wait = none) ∧
    (∀ l st, p.hold = false → p.pending = [l] → p.running = [] → p.heldNotices = [] → s.posted l = true →
      l.checked = false → p.launchFails l.words = some st → l.launcher = none →
      ∃ t q, exec (.schedulerTurn n) s = .next t ∧ t.part? n = some q ∧ q.pending = [] ∧ q.running = [] ∧
        q.groups = p.groups ∧ t.cores = s.cores ∧ t.mem = s.mem ∧
        t.board.events = s.board.events ++ [[word (1 + n * 256), word l.n, word st]]) ∧
    (∀ g, p.groups.find? (fun x => x.id == g.id) = some g → AllDone s p g → Spent s p g →
      (∀ l ∈ p.running, l.n ≠ g.launch ∧ l.ended = none) → g.queue.size = 0 →
      ∃ t q, exec (.groupFreed n g.id) s = .next t ∧ t.part? n = some q ∧ (∀ x ∈ q.groups, x.id ≠ g.id) ∧
        ∀ i ∈ g.cores p, (t.core i).thread = .none ∧ (t.core i).part = none ∧
          ∀ o, o < Config.tcmBytes → readByte t.mem (tcmKey i o) = 0) ∧
    (∀ g l, p.groups.find? (fun x => x.id == g.id) = some g → AllDone s p g → Spent s p g →
      p.running = [l] → l.n = g.launch → l.live = 1 → l.placed = recGroups l.words → l.ended = none → l.launcher = none →
      g.queue.size = 0 → p.pending = [] →
      ∃ t q, exec (.groupFreed n g.id) s = .next t ∧ t.part? n = some q ∧ q.running = [] ∧ q.rootRunning = none ∧
        t.board.events = s.board.events ++ [[word (1 + n * 256), word l.n, 0]]) ∧
    (∀ l sum, p.running = [l] → l.ended = none →
      (∀ g ∈ p.groups, g.launch = l.n → ∀ i ∈ g.cores p, s.isIdle i = true) →
      s.totals ((p.groups.filter fun g => g.launch == l.n).map fun g => g.cores p).flatten l.gone = sum → sum.1 = sum.2 →
      (l.sweep ≠ some sum → ∃ t q, exec (.quiescenceSweep n l.n) s = .next t ∧ t.part? n = some q ∧
        q.running = [{ l with sweep := some sum }] ∧ q.groups = p.groups ∧ t.mem = s.mem) ∧
      (l.sweep = some sum → (∀ g ∈ p.groups, g.launch = l.n → ∀ i ∈ g.cores p, (s.core i).memb = false) →
        ∃ t q, exec (.quiescenceSweep n l.n) s = .next t ∧ t.part? n = some q ∧
          (∀ g ∈ q.groups, g.launch = l.n → g.draining = true) ∧
          ∀ g ∈ p.groups, g.launch = l.n → AllDone t p g)) ∧
    (∀ g, p.groups.find? (fun x => x.id == g.id) = some g → Unstaired s p g →
      ∃ t, exec (.supervisorEndsGroup n g.id) s = .next t ∧ AllDone t p g) ∧
    (∀ hall, hall < 160 → (∀ x ∈ s.parts, ∀ g ∈ x.2.groups, ∀ i ∈ g.cores x.2, hallOf i ≠ hall) →
      ∃ t, exec (.hallReset hall) s = .next t ∧
        (∀ i, hallOf i = hall → (t.core i).g = Vector.replicate 64 0 ∧ (t.core i).wait = none ∧ (t.core i).cmds = [] ∧
          ((t.core i).thread = .none ∨ (t.core i).thread = .done)) ∧
        (∀ a ∈ t.flight, hallOf a.core ≠ hall) ∧
        (∀ a ∈ s.flight, hallOf a.core ≠ hall → a.kind.target = none → a.node = 2 ^ 20 + hall → a.phase = .sent →
          ∃ b ∈ t.flight, b.id = a.id ∧ b.phase = .performed 0x19 []) ∧ t.mem = s.mem)

namespace Sys2Proof.Claims

/-- A management command is at the head of an enabled ring of a part that is READY, the completion ring has space, its entry is
not poisoned, and it sets no reserved bit or unused word (R434). -/
def AtHead (s : State) (e : CmdEntry) (opc used : Nat) : Prop :=
  s.takesCmd e = true ∧ poisoned s s.cmdKey 64 = false ∧ bits (cmdWord e 0) 0 8 = opc ∧ bits (cmdWord e 0) 14 2 = 0 ∧
    bits (cmdWord e 0) 32 32 = 0 ∧ ∀ n, used < n → n < 8 → cmdWord e n = 0

/-- The storage key of the completion entry that the device writes next (R434). -/
def doneKey (s : State) : Nat := hostKey (s.board.cq.base.toNat + 16 * (s.board.cq.prod.toNat % 2 ^ s.board.cq.log))

/-- The command has completed with a STATUS and VALUE: its completion entry, the two indices, and MSI-X vector 1 (R434). -/
def Completed (s t : State) (e : CmdEntry) (st value : Nat) : Prop :=
  readBytes t.mem (doneKey s) 16 = leBytes 8 (bits (cmdWord e 0) 16 16 * 2 ^ 16 + st) ++ leBytes 8 value ∧
    t.board.cq = { s.board.cq with prod := s.board.cq.prod + 1 } ∧
    t.board.mq = { s.board.mq with cons := s.board.mq.cons + 1 } ∧ t.board.msix = s.board.msix ++ [(0, 1)] ∧
    t.board.begun = none

/-- Of memory, only the completion entry differs. -/
def OnlyEntry (s t : State) : Prop :=
  ∀ k, k < doneKey s ∨ doneKey s + 16 ≤ k → readByte t.mem k = readByte s.mem k

/-- A command is refused with a STATUS (R436): it changes nothing else. -/
def Refused (s t : State) (e : CmdEntry) (st : Nat) : Prop :=
  Completed s t e st 0 ∧ OnlyEntry s t ∧ t.parts = s.parts ∧ t.cores = s.cores ∧ t.shoots = s.shoots ∧
    { t.board with cq := s.board.cq, mq := s.board.mq, msix := s.board.msix, begun := s.board.begun } = s.board

end Sys2Proof.Claims

/-- R371, R372, R375, R378, R382, R398, R434 to R436: the commands on partition records, roots, limits, maps and counters, and
their refusals, each completed with its STATUS and VALUE; a group-table entry goes to the switches, and completes when all
have acknowledged. Choices of the model: log 81, 82, 85, 86, 119. -/
def Obligations.ManagementCommands : Prop :=
  ∀ (s : State) (e : CmdEntry), Memory.wf s.mem = true →
    let n := bits (cmdWord e 0) 8 6
    let w := cmdWord e 1
    (AtHead s e 0x01 4 →
      (createBad e = false → s.part? n = none → s.hallsTaken (bits w 8 4) (bits w 12 4) (bits w 16 5) (bits w 24 4) = false →
        ∀ peers, s.hostBytes (cmdWord e 4).toNat 64 = some peers →
        ∃ t p, exec (.create e) s = .next t ∧ Completed s t e 0 0 ∧ OnlyEntry s t ∧ t.part? n = some p ∧ p.hx0 = bits w 8 4 ∧
          p.hy0 = bits w 12 4 ∧ p.hw = bits w 16 5 ∧ p.hh = bits w 24 4 ∧ p.ttag = bits w 32 16 ∧
          p.ringBase = cmdWord e 2 ∧ p.dBase = cmdWord e 3 ∧ p.peermap = BitVec.ofNat 512 (leNat peers) ∧ p.roots = [] ∧
          p.groups = [] ∧ p.pending = [] ∧ p.hold = false ∧ t.cores = s.cores) ∧
      (bits w 0 6 ≠ n ∨ bits w 16 5 = 0 ∨ bits w 24 4 = 0 ∨ 16 < bits w 8 4 + bits w 16 5 ∨ 10 < bits w 12 4 + bits w 24 4 ∨
          bits (cmdWord e 2) 0 16 ≠ 0 ∨ bits (cmdWord e 3) 0 12 ≠ 0 →
        ∃ t, exec (.create e) s = .next t ∧ Refused s t e 1) ∧
      (createBad e = false → (∃ p, s.part? n = some p) → ∃ t, exec (.create e) s = .next t ∧ Refused s t e 3)) ∧
    (AtHead s e 0x02 0 → ∀ p, s.part? n = some p →
      (p.groups = [] → ∃ t, exec (.destroy e) s = .next t ∧ Completed s t e 0 0 ∧ OnlyEntry s t ∧ t.parts = tdel s.parts n) ∧
      (p.groups ≠ [] → ∃ t, exec (.destroy e) s = .next t ∧ Refused s t e 3)) ∧
    (AtHead s e 0x02 0 → s.part? n = none → ∃ t, exec (.destroy e) s = .next t ∧ Refused s t e 2) ∧
    (AtHead s e 0x03 2 → setrootBad e = false → ∀ p, s.part? n = some p →
      (s.board.begun = none → ∃ t q x, exec (.setroot e) s = .next t ∧ t.part? n = some q ∧
        q.root (bits w 16 2) (bits w 0 10) = cmdWord e 2 ∧
        (∀ k st, k ≠ bits w 0 10 → st = 1 ∨ st = 2 → q.root st k = p.root st k) ∧ t.shoots = s.shoots ++ [x] ∧
        x.part = n ∧ x.stage = bits w 16 2 ∧ x.page = none ∧ x.window = some (bits w 0 10) ∧ t.board.begun = some x.id ∧
        t.mem = s.mem ∧ t.board.mq = s.board.mq) ∧
      (∀ id, s.board.begun = some id → (∀ x ∈ s.shoots, x.id ≠ id) →
        ∃ t, exec (.setroot e) s = .next t ∧ Completed s t e 0 0 ∧ OnlyEntry s t ∧ t.parts = s.parts)) ∧
    (AtHead s e 0x04 1 → bits w 0 2 = 3 ∨ malformed w = false → ∀ p, s.part? n = some p →
      (s.board.begun = none → ∃ t x, exec (.shoot2 e) s = .next t ∧ t.shoots = s.shoots ++ [x] ∧ x.part = n ∧ x.stage = 2 ∧
        (bits w 0 2 = 3 → x.page = none) ∧ (bits w 0 2 ≠ 3 → ∃ a, x.page = some (windowOfAddr w, a, bits w 0 2)) ∧
        t.board.begun = some x.id ∧ t.parts = s.parts ∧ t.mem = s.mem) ∧
      (∀ id, s.board.begun = some id → (∀ x ∈ s.shoots, x.id ≠ id) →
        ∃ t, exec (.shoot2 e) s = .next t ∧ Completed s t e 0 0 ∧ OnlyEntry s t ∧ t.parts = s.parts)) ∧
    (AtHead s e 0x05 2 →
      (setlimitBad e = false → ∀ p, s.part? n = some p → ∃ t q, exec (.setlimit e) s = .next t ∧ Completed s t e 0 0 ∧
        OnlyEntry s t ∧ t.part? n = some q ∧
        tget {} q.budgets (bits w 0 4 * 8 + bits w 4 3) =
          { tget {} p.budgets (bits w 0 4 * 8 + bits w 4 3) with nextLimit := some (cmdWord e 2).toNat } ∧
        { q with budgets := p.budgets } = p) ∧
      (5 < bits w 0 4 ∨ cmdWord e 2 = 0 ∨ 0xFFFFF < (cmdWord e 2).toNat →
        ∃ t, exec (.setlimit e) s = .next t ∧ Refused s t e 1)) ∧
    (AtHead s e 0x06 1 → ∀ p, s.part? n = some p →
      (∀ bs, s.hostBytes w.toNat 64 = some bs → ∃ t q, exec (.peermap e) s = .next t ∧ Completed s t e 0 0 ∧ OnlyEntry s t ∧
        t.part? n = some q ∧ q = { p with peermap := BitVec.ofNat 512 (leNat bs) }) ∧
      (s.hostBytes w.toNat 64 = none → ∃ t, exec (.peermap e) s = .next t ∧ Refused s t e 5)) ∧
    (AtHead s e 0x07 2 →
      (∀ bs, s.board.begun = none → w.toNat < 1024 → s.hostBytes (cmdWord e 2).toNat 136 = some bs → groupBad bs = false →
        ∃ t, exec (.grouptab e) s = .next t ∧ tget? t.board.groups w.toNat = some bs ∧ t.parts = s.parts ∧
          t.cores = s.cores ∧ (s.switchPorts = [] → Completed s t e 0 0 ∧ OnlyEntry s t) ∧
          (s.switchPorts ≠ [] → t.board.mq = s.board.mq ∧ t.mem = s.mem ∧ t.board.begun.isSome = true ∧
            t.board.acksFrom = s.switchPorts ∧ ∀ k ∈ s.switchPorts, ∃ f : Flit, f.kind = .mgmt ∧
              f.group = some (w.toNat, bs) ∧ tget {} t.ports k = (tget {} s.ports k).transmit f)) ∧
      (s.board.begun.isSome = true →
        (s.board.acksFrom = [] → ∃ t, exec (.grouptab e) s = .next t ∧ Completed s t e 0 0 ∧ OnlyEntry s t ∧
          t.board.groups = s.board.groups ∧ t.parts = s.parts ∧ t.cores = s.cores) ∧
        (s.board.acksFrom ≠ [] → exec (.grouptab e) s = .next s)) ∧
      (s.board.begun = none → 1024 ≤ w.toNat → ∃ t, exec (.grouptab e) s = .next t ∧ Refused s t e 1)) ∧
    (AtHead s e 0x0E 1 →
      (w.toNat < 160 ∨ (256 ≤ w.toNat ∧ w.toNat < 264) →
        ∃ t, exec (.rdcount e) s = .next t ∧ Completed s t e 0 (tget 0 s.board.errors w.toNat) ∧ OnlyEntry s t ∧
          tget 0 t.board.errors w.toNat = 0 ∧ t.parts = s.parts ∧ t.cores = s.cores) ∧
      ((160 ≤ w.toNat ∧ w.toNat < 256) ∨ 264 ≤ w.toNat → ∃ t, exec (.rdcount e) s = .next t ∧ Refused s t e 1)) ∧
    (AtHead s e 0x0F 1 →
      (w.toNat < 512 → s.parts = [] → ∃ t, exec (.setpeer e) s = .next t ∧ Completed s t e 0 0 ∧ OnlyEntry s t ∧
        t.board.peer = w.toNat ∧ t.parts = [] ∧ t.cores = s.cores) ∧
      (w.toNat < 512 → s.parts ≠ [] → ∃ t, exec (.setpeer e) s = .next t ∧ Refused s t e 3) ∧
      (512 ≤ w.toNat → ∃ t, exec (.setpeer e) s = .next t ∧ Refused s t e 1)) ∧
    (s.takesCmd e = true → poisoned s s.cmdKey 64 = true → ∃ t, exec (.create e) s = .next t ∧ Refused s t e 5) ∧
    (s.takesCmd e = true → poisoned s s.cmdKey 64 = false → bits (cmdWord e 0) 0 8 = 0 ∨ 0x0F < bits (cmdWord e 0) 0 8 →
      ∃ t, exec (.create e) s = .next t ∧ Refused s t e 1)

/-- R75, R325, R372, R382, R403, R416 to R419, R435 to R437: an image is loaded and measured, a root kernel posted, a partition
halted, saved, restored and resumed. Choices of the model: log 44, 45, 83, 84, 88, 89, 90. -/
def Obligations.PartitionCommands : Prop :=
  ∀ (s : State) (e : CmdEntry) (p : Partition), Memory.wf s.mem = true →
    let n := bits (cmdWord e 0) 8 6
    let w := cmdWord e 1
    s.part? n = some p →
    (AtHead s e 0x08 3 →
      (∀ f u, (cmdWord e 3).toNat % 64 = 0 → s.hostBytes w.toNat (cmdWord e 2).toNat = some f → imageRefused f false = false →
        unfitReloc f (cmdWord e 3) = false → s.writeImage? n f (cmdWord e 3) = some u → u.board = s.board →
        u.part? n = some p → Memory.wf u.mem = true →
        ∃ t q, exec (.loadimg e) s = .next t ∧ Completed s t e 0 (cmdWord e 3).toNat ∧ t.part? n = some q ∧
          { base := cmdWord e 3, bytes := f } ∈ q.images ∧
          q.measurement = Config.sha512 ((leBytes 64 p.measurement.toNat).reverse ++ f) ∧
          ∀ k, k < doneKey s ∨ doneKey s + 16 ≤ k → readByte t.mem k = readByte u.mem k) ∧
      (∀ f, (cmdWord e 3).toNat % 64 = 0 → s.hostBytes w.toNat (cmdWord e 2).toNat = some f →
        imageRefused f false = true ∨ unfitReloc f (cmdWord e 3) = true →
        ∃ t v, exec (.loadimg e) s = .next t ∧ Completed s t e 4 v ∧ OnlyEntry s t ∧ t.parts = s.parts) ∧
      ((cmdWord e 3).toNat % 64 ≠ 0 → ∃ t, exec (.loadimg e) s = .next t ∧ Refused s t e 1)) ∧
    (AtHead s e 0x09 1 → ∀ bs, s.hostBytes w.toNat 64 = some bs →
      let ws := (List.range 8).map fun k => word (fieldAt bs (8 * k) 8)
      (recBad ws = false → p.rootRunning = none → p.pending.length < 64 → p.nextLaunch ≠ 0 →
        ∃ t q l, exec (.start e) s = .next t ∧ Completed s t e 0 p.nextLaunch ∧ OnlyEntry s t ∧ t.part? n = some q ∧
          q.pending = p.pending ++ [l] ∧ l.n = p.nextLaunch ∧ l.launcher = none ∧ recWord l.words 5 = 0 ∧
          (∀ k, k < 8 → k ≠ 5 → recWord l.words k = recWord ws k) ∧ q.rootRunning = some p.nextLaunch ∧
          t.cores = s.cores) ∧
      (recBad ws = true → ∃ t, exec (.start e) s = .next t ∧ Refused s t e 1) ∧
      (recBad ws = false → p.rootRunning ≠ none → ∃ t, exec (.start e) s = .next t ∧ Refused s t e 2)) ∧
    (AtHead s e 0x0A 0 →
      (p.hold = false → ∃ t q, exec (.halt e) s = .next t ∧ t.part? n = some q ∧ q.hold = true ∧ q.halting = true ∧
        (∀ i ∈ s.coresOf n, s.unsaved i = true → (i, true) ∈ t.mesh) ∧ t.mem = s.mem ∧ t.cores = s.cores ∧
        t.board = s.board) ∧
      (p.hold = true → p.halting = true → s.haltEnds n = true →
        ∃ t q, exec (.halt e) s = .next t ∧ Completed s t e 0 0 ∧ OnlyEntry s t ∧ t.part? n = some q ∧ q.hold = true ∧
          q.halting = false ∧ t.board.events = s.board.events ++ [[word (4 + n * 256)]] ∧ t.cores = s.cores) ∧
      (p.hold = true → p.halting = true → s.haltEnds n = false → exec (.halt e) s = .next s) ∧
      (p.hold = true → p.halting = false → ∃ t, exec (.halt e) s = .next t ∧ Completed s t e 0 0 ∧ OnlyEntry s t ∧
        t.parts = s.parts ∧ t.cores = s.cores)) ∧
    (AtHead s e 0x0B 2 → bits (cmdWord e 2) 1 63 = 0 →
      (∀ len, p.hold = true → p.halting = false → (s.imageOf p (bits (cmdWord e 2) 0 1 == 1)).length = len →
        w.toNat + len ≤ 2 ^ 52 → len < 2 ^ 64 → hostKey w.toNat + len ≤ doneKey s ∨ doneKey s + 16 ≤ hostKey w.toNat →
        ∃ t img, exec (.save e) s = .next t ∧ Completed s t e 0 len ∧
          readBytes t.mem (hostKey w.toNat) len = img ∧ fieldAt img 0 4 = 0x47494356 ∧ fieldAt img 4 2 = 1 ∧
          fieldAt img 24 8 = len ∧ fieldAt img 18 2 = 8 ∧
          (crc32 (img.mapIdx fun k b => if 20 ≤ k ∧ k < 24 then 0 else b)).toNat = fieldAt img 20 4 ∧
          (∀ i ∈ s.coresOf n, (t.core i).dirty = 0 ∧ (t.core i).g = (s.core i).g) ∧ t.parts = s.parts) ∧
      (p.hold = false ∨ p.halting = true → ∃ t, exec (.save e) s = .next t ∧ Refused s t e 2)) ∧
    (AtHead s e 0x0C 1 → ∀ h f, s.hostBytes w.toNat 256 = some h → s.hostBytes w.toNat (max 256 (fieldAt h 24 8)) = some f →
      (∀ c, refusalCode p f = some c → ∃ t, exec (.restore e) s = .next t ∧ Completed s t e 4 c ∧ OnlyEntry s t ∧
        t.parts = s.parts ∧ t.cores = s.cores) ∧
      (refusalCode p f = none → ∃ t q, exec (.restore e) s = .next t ∧ Completed s t e 0 0 ∧ t.part? n = some q ∧
        q.home = some (fieldAt f 12 2) ∧ q.imaged = true ∧ q.hold = true ∧ q.hx0 = p.hx0 ∧ q.hy0 = p.hy0 ∧ q.hw = p.hw ∧
        q.hh = p.hh ∧ q.roots = p.roots) ∧
      (fieldAt f 0 4 ≠ 0x47494356 → ∃ t, exec (.restore e) s = .next t ∧ Completed s t e 4 1 ∧ OnlyEntry s t ∧
        t.parts = s.parts)) ∧
    (AtHead s e 0x0D 0 →
      (p.hold = false → ∃ t, exec (.resume e) s = .next t ∧ Refused s t e 2) ∧
      (p.hold = true → (∀ i ∈ s.coresOf n, (s.core i).preempted = false) →
        ∃ t q, exec (.resume e) s = .next t ∧ Completed s t e 0 0 ∧ OnlyEntry s t ∧ t.part? n = some q ∧
          q = { p with hold := false, halting := false, imaged := false } ∧ t.cores = s.cores) ∧
      (∀ i, p.hold = true → s.coresOf n = [i] → (s.core i).preempted = true → (s.core i).restored = true →
        (s.core i).spill = [] → s.resumesWith i = [i] → ∃ t, exec (.resume e) s = .next t ∧ Completed s t e 0 0 ∧ OnlyEntry s t ∧
          (t.core i).preempted = false ∧ (t.core i).wait = none ∧ (t.core i).pc = (s.core i).pc ∧
          (t.core i).g = (s.core i).g))

/-- R398, R400, R430 to R434, R437, R442, R448: a held event enters its ring; register writes; the TRIP bits are returned and
cleared; a host's reads and writes of device memory, poison with them; a snoop gives a line back. -/
def Sys2Proof.Claims.HostEvents : Prop :=
  ∀ (s : State), Memory.wf s.mem = true →
    let b := s.board
    (∀ ev rest, b.events = ev :: rest → b.ev.enabled = true → b.ev.full = false → ev.length ≤ 4 →
      let k := hostKey (b.ev.base.toNat + 32 * (b.ev.prod.toNat % 2 ^ b.ev.log))
      ∃ t, exec .eventPost s = .next t ∧ t.board.events = rest ∧ t.board.ev = { b.ev with prod := b.ev.prod + 1 } ∧
        readBytes t.mem k (8 * ev.length) = inMemory ev ∧
        (∀ j, 8 * ev.length ≤ j → j < 32 → readByte t.mem (k + j) = 0) ∧
        (∀ x, x < k ∨ k + 32 ≤ x → readByte t.mem x = readByte s.mem x) ∧ t.cores = s.cores ∧ t.parts = s.parts) ∧
    (∀ v : Word, b.state = .ready →
      exec (.registerWrite .pf 0x000 v) s = .next { s with board := { b with mq := { b.mq with base := v &&& 0xFFFFFFFFFFFFF000 } } } ∧
      exec (.registerWrite .pf 0x008 v) s = .next { s with board := { b with mq := { b.mq with
        log := if 4 ≤ v.toNat % 16 ∧ v.toNat % 16 ≤ 12 then v.toNat % 16 else 0 } } } ∧
      exec (.registerWrite .pf 0x00C v) s = .next { s with board := { b with mq := { b.mq with prod := v.setWidth 32 } } } ∧
      exec (.registerWrite .pf 0x010 v) s = .next s ∧
      exec (.registerWrite .pf 0x028 v) s = .next { s with board := { b with cq := { b.cq with cons := v.setWidth 32 } } } ∧
      (∀ n, n < 64 → exec (.registerWrite .pf (0x1000 + 0x40 * n + 0x24) v) s = .next { s with board := { b with
        rp2 := tset b.rp2 n { tget {} b.rp2 n with prod := v.setWidth 32 } } }) ∧
      (∀ n : Fin 512, exec (.registerWrite .pf (0x2000 + 2 * n.val) v) s = .next { s with board := { b with
        routes := b.routes.set n (v.setWidth 16) } }) ∧
      (∀ n p, n < 64 → s.part? n = some p → exec (.registerWrite (.vf n) 0x124 v) s = .next { s with board := { b with
        rp1 := tset b.rp1 n { tget {} b.rp1 n with prod := v.setWidth 32 } } }) ∧
      (∀ n off, s.part? n = none → exec (.registerWrite (.vf n) off v) s = .next s)) ∧
    (∀ (v : Word) off, b.state ≠ .ready → exec (.registerWrite .pf off v) s = .next s) ∧
    (∀ v : Word, b.pwrgd = true →
      (4000 ≤ v.toNat → v.toNat ≤ 12000 →
        exec (.registerWrite .i3c 0x08 v) s = .next { s with board := { b with plimNext := v.toNat } }) ∧
      (v.toNat < 4000 ∨ 12000 < v.toNat → exec (.registerWrite .i3c 0x08 v) s = .next s) ∧
      ∃ t, exec (.registerWrite .i3c 0x28 v) s = .next t ∧ { t with board := b } = s ∧
        ∀ k, k < 64 → t.board.dbgEn.getLsbD k = if k < 32 then v.getLsbD k else b.dbgEn.getLsbD k) ∧
    exec .tripRead s = .next { s with board := { b with hostRead := leBytes 4 b.trip.toNat, hostPoison := false, trip := 0 } } ∧
    (∀ dpa len, b.state = .ready → (∀ x, dpaOf? dpa = some x → s.nodeDown x.1 = false) → s.soft = [] →
      (∀ j, j < len → ∃ k, dpaKey? (dpa + j) = some k) →
      ((∀ j k, j < len → dpaKey? (dpa + j) = some k → poisoned s k 1 = false) →
        ∃ t, exec (.hostMemRead dpa len) s = .next t ∧ t.board.hostPoison = false ∧ t.board.hostRead.length = len ∧
          (∀ j k, j < len → dpaKey? (dpa + j) = some k → t.board.hostRead[j]? = some (readByte s.mem k)) ∧ t.mem = s.mem) ∧
      ((∃ j k, j < len ∧ dpaKey? (dpa + j) = some k ∧ poisoned s k 1 = true) →
        ∃ t, exec (.hostMemRead dpa len) s = .next t ∧ t.board.hostPoison = true ∧ t.board.hostRead = [] ∧ t.mem = s.mem)) ∧
    (∀ dpa k bs, b.state = .ready → (∀ x, dpaOf? dpa = some x → s.nodeDown x.1 = false) →
      (∀ j, j < bs.length → dpaKey? (dpa + j) = some (k + j)) → (∀ p ∈ s.poison, p * 8 + 8 ≤ k ∨ k + bs.length ≤ p * 8) →
      ∃ t, exec (.hostMemWrite dpa bs) s = .next t ∧ readBytes t.mem k bs.length = bs ∧
        (∀ x, x < k ∨ k + bs.length ≤ x → readByte t.mem x = readByte s.mem x) ∧ t.cores = s.cores ∧ t.parts = s.parts ∧
        t.board = s.board) ∧
    ∀ line, exec (.hostSnoop line) s = .next { s with hostLines := s.hostLines.filter (· != line) }

namespace Sys2Proof.Claims

/-- A function's mailbox holds this after a request, and nothing else of the package differs. -/
def MailboxHolds (s t : State) (fn : Nat) (d : Doe) : Prop :=
  t = { s with board := { s.board with doe := tset s.board.doe fn d } }

end Sys2Proof.Claims

/-- R382, R430, R439, R447: the seven requests of a DOE mailbox, in their order; a request that comes too early, and an index
that the function may not ask for, return ERROR; a function that is not presented answers nothing. -/
def Sys2Proof.Claims.AttestationEvents : Prop :=
  ∀ (s : State) (fn : Nat),
    let d := s.doe fn
    (fn = 0 → s.board.state = .bringUp ∨ s.board.state = .reset → exec (.getVersion fn) s = .next s) ∧
    (∀ n, fn = n + 1 → s.part? n = none → exec (.getVersion fn) s = .next s) ∧
    ((fn = 0 ∧ (s.board.state = .ready ∨ s.board.state = .failed)) ∨
        (∃ n p, fn = n + 1 ∧ n < 64 ∧ s.board.state = .ready ∧ s.part? n = some p) →
      (∃ t, exec (.getVersion fn) s = .next t ∧ MailboxHolds s t fn { version := true, response := .version }) ∧
      (∃ t, exec (.getCapabilities fn) s = .next t ∧ MailboxHolds s t fn
        { d with caps := d.version, response := if d.version then .capabilities else .error }) ∧
      (∀ asym hash, ∃ t, exec (.negotiateAlgorithms fn asym hash) s = .next t ∧ MailboxHolds s t fn
        { d with
          algs := d.caps && asym.contains 5 && hash.contains 2
          response := if d.caps then .algorithms (asym.contains 5) (hash.contains 2) else .error }) ∧
      (∃ t, exec (.getDigests fn) s = .next t ∧ MailboxHolds s t fn
        { d with response := if d.algs then .digests [Config.sha512 Config.certificateChain] else .error }) ∧
      (∀ off len chain, d.algs = true → Config.certificateChain = chain → off < chain.length →
        ∃ t, exec (.getCertificate fn off len) s = .next t ∧ MailboxHolds s t fn
          { d with response := .certificate ((chain.drop off).take len) (chain.length - off - min len (chain.length - off)) }) ∧
      (∀ nonce, ∃ t sig, exec (.challenge fn nonce) s = .next t ∧ MailboxHolds s t fn
        { d with response := if d.algs then .challengeAuth (Config.sha512 Config.certificateChain) nonce sig else .error }) ∧
      (∀ index nonce m, mayMeasure fn index = true → s.measurement? index = some m →
        ∃ t sig, exec (.getMeasurements fn index nonce) s = .next t ∧ MailboxHolds s t fn
          { d with response := if d.algs then .measurements [(index, m)] nonce sig else .error }) ∧
      (∀ index nonce n, fn = n + 1 → index ≠ 1 → index ≠ 2 → index ≠ 3 → index ≠ 16 + n →
        ∃ t, exec (.getMeasurements fn index nonce) s = .next t ∧ MailboxHolds s t fn { d with response := .error })) ∧
    s.measurement? 1 = some s.board.meas1 ∧ s.measurement? 2 = some s.board.meas2 ∧
    ∀ n, n < 64 → s.measurement? (16 + n) = (s.part? n).map (·.measurement)

/-- R431 to R439: what the host reads and writes, the event ring, and the answers of the SPDM responder.
Choices of the model: log 14, 46, 91, 92, 97. -/
def Obligations.HostAndAttestationEvents : Prop := Claims.HostEvents ∧ Claims.AttestationEvents

namespace Sys2Proof.Claims

/-- A port is up and does not wait for retraining (R440, R441). -/
def PortWorks (s : State) (n : Nat) (p : Port) : Prop := n < 16 ∧ s.port n = p ∧ p.works = true

/-- A flit's tag is the one that the receiver's key and the counter of the slot give (R380, R381). -/
def Authentic (p : Port) (f : Flit) : Prop := f.tag = linkTag p.rxKey (linkNonce p.rxSalt p.rxSlot) f

/-- A received slot has been answered by one of the transmitter's (R440). -/
def SlotAnswered (p q : Port) (kind : FlitKind) (seq : Nat) : Prop :=
  q.rxSlot = p.rxSlot + 1 ∧ q.txSlot = p.txSlot + 1 ∧ q.retry = p.retry ∧ q.queued = p.queued ∧ q.up = true ∧
    ∃ w : Flit, q.wire = p.wire ++ [w] ∧ w.kind = kind ∧ w.seq = seq ∧
      w.tag = linkTag p.txKey (linkNonce p.txSalt p.txSlot) w

end Sys2Proof.Claims

/-- R346, R380, R381, R437, R440, R441: a port decrypts and delivers a data flit in turn, refuses one that is corrupt, not
authentic or out of turn, drops what has been acknowledged, replays from a flit that was refused up to the retry limit,
retrains with new keys, and goes down at the third failure. Choices of the model: log 14, 95, 96, 119. -/
def Obligations.LinkEvents : Prop :=
  ∀ (s : State) (n : Nat) (p : Port),
    (PortWorks s n p →
      (∀ f : Flit, Authentic p f → f.kind = .data → f.seq = p.rxSeq → ∃ q,
        exec (.flitReceive n f true) s = .next (match f.carries with
          | none => s.setPort n q
          | some x => (s.setPort n q).takeTransfer n x) ∧
        SlotAnswered p q .ack f.seq ∧ q.rxSeq = (p.rxSeq + 1) % 4096 ∧ q.credits = f.credits ∧
        q.delivered = p.delivered ++ [linkCrypt p.rxKey (linkNonce p.rxSalt p.rxSlot) f.payload]) ∧
      (∀ (f : Flit) (intact : Bool), intact = false ∨ ¬ Authentic p f ∨ (f.kind = .data ∧ f.seq ≠ p.rxSeq) →
        ∃ q, exec (.flitReceive n f intact) s = .next (s.setPort n q) ∧ SlotAnswered p q .nak p.rxSeq ∧ q.rxSeq = p.rxSeq ∧
          q.delivered = p.delivered) ∧
      (∀ f : Flit, Authentic p f → f.kind = .idle → exec (.flitReceive n f true) s = .next (s.setPort n
        { p with rxSlot := p.rxSlot + 1, credits := f.credits })) ∧
      (∀ f : Flit, Authentic p f → f.kind = .mgmt → ∃ t, exec (.flitReceive n f true) s = .next t ∧
        t.port n = { p with rxSlot := p.rxSlot + 1, credits := f.credits } ∧ t.board.groups = s.board.groups ∧
        t.cores = s.cores ∧ t.mem = s.mem ∧ (∀ k, k ≠ n → (k ∈ t.board.acksFrom ↔ k ∈ s.board.acksFrom)) ∧
        ∀ k bs, f.group = some (k, bs) → tget? s.board.groups k = some bs → n ∉ t.board.acksFrom) ∧
      (∀ (f : Flit) x rest, Authentic p f → f.kind = .ack → p.retry = x :: rest → x.1.seq = f.seq → p.queued = [] →
        exec (.flitReceive n f true) s = .next (s.setPort n
          { p with rxSlot := p.rxSlot + 1, credits := f.credits, retry := rest })) ∧
      (∀ x, p.retry = [x] → x.2 < 7 → (p.replays.filter fun k => decide (p.txSlot + 1 - k < 65536)).length < 63 →
        ∃ t q, exec (.negativeAcknowledgement n x.1.seq) s = .next t ∧ t = s.setPort n q ∧ q.retry = [(x.1, x.2 + 1)] ∧
          q.txSlot = p.txSlot + 1 ∧ q.rxSlot = p.rxSlot + 1 ∧ q.replayed = p.replayed + 1 ∧ q.limit = false) ∧
      (∀ x, p.retry = [x] → x.2 = 7 → ∃ t q, exec (.negativeAcknowledgement n x.1.seq) s = .next t ∧ t = s.setPort n q ∧
        q.retry = [(x.1, 8)] ∧ q.limit = true)) ∧
    (n < 16 → s.port n = p → p.up = true → p.due = true →
      (∃ t q, exec (.retrain n true) s = .next t ∧ t.port n = q ∧ q.up = true ∧ q.limit = false ∧ q.keys = p.keys + 1 ∧
        q.txKey = Config.linkKey n (p.keys + 1) 0 ∧ q.rxKey = Config.linkKey n (p.keys + 1) 1 ∧ q.rxSlot = 0 ∧
        q.failures = 0 ∧ p.retry.map (fun x => (x.1, 0)) <+: q.retry ∧ p.retry.length ≤ q.txSlot ∧
        t.cores = s.cores ∧ t.mem = s.mem) ∧
      (p.failures < 2 → exec (.retrain n false) s = .next (s.setPort n { p with failures := p.failures + 1 })) ∧
      (2 ≤ p.failures → ∃ t, exec (.retrain n false) s = .next t ∧ (t.port n).up = false ∧
        [word 3, word n] ∈ t.board.events ∧
        ∀ a ∈ s.flight, a.cls = .o → a.done = false → (∃ g, pkgOf? a.node = some g ∧ s.portO? g = some n) →
          ∃ x ∈ t.flight, x.id = a.id ∧ x.phase = .performed 0x02 [])) ∧
    (n < 16 → p.due = false → s.port n = p → ∀ trained, exec (.retrain n trained) s = .next s)

/-- R398 to R402, R443 to R448 and the clocks of R442: bring-up and the resets of the part; the power limiter; a hot die; a die
that is reset, and its return; a loss of lock; errors and their correction; a refresh.
Choices of the model: log 93, 94. -/
def Obligations.PowerEvents : Prop :=
  ∀ (s : State), Memory.wf s.mem = true →
    let b := s.board
    (∀ f, b.pwrgd = false → imageRefused f true = false → ∃ t, exec (.pwrgdRise (some f) true) s = .next t ∧
      t.board.state = (if b.perst then .bringUp else .ready) ∧ t.board.pwrgd = true ∧
      t.board.meas1 = Config.sha512 Config.bootRom ∧ t.board.meas2 = Config.sha512 f ∧ t.parts = [] ∧ t.cores = [] ∧
      ∀ k, k < hostKey 0 → readByte t.mem k = 0) ∧
    (∀ f, b.pwrgd = false → imageRefused f true = true → ∃ t, exec (.pwrgdRise (some f) true) s = .next t ∧
      t.board.state = .failed ∧ t.board.meas2 = Config.sha512 f) ∧
    (b.perst = false → b.pwrgd = true → b.checked = true → ∃ t, exec .perstAssert s = .next t ∧
      t.board.state = .bringUp ∧ t.board.perst = true ∧ t.board.plim = b.plim ∧ t.board.meas2 = b.meas2 ∧
      t.board.mq.log = 0 ∧ t.parts = [] ∧ t.cores = [] ∧ ∀ k, k < hostKey 0 → readByte t.mem k = 0) ∧
    exec .perstDeassert s = .next { s with board := { b with
      perst := false, state := if b.pwrgd = true ∧ b.checked = true then .ready else b.state } } ∧
    (∃ t, exec .pwrgdDeassert s = .next t ∧ t.board.pwrgd = false ∧ t.board.state = .reset ∧ t.parts = [] ∧ t.cores = [] ∧
      ∀ k, k < hostKey 0 → readByte t.mem k = 0) ∧
    (∀ watts, watts < 65536 →
      let limit := if ∃ d : Fin 4, b.hot[d] = true then b.plim * 3 / 4 else b.plim
      exec (.powerWindowEnd watts) s = .next { s with board := { b with
        pkgPwr := watts, plim := b.plimNext, throttled := decide (limit < watts)
        thrCnt := if limit < watts then min (b.thrCnt + 1) 0xFFFFFFFF else b.thrCnt } }) ∧
    (∀ (d : Fin 4) x, x < 4096 → ∃ t, exec (.thermalThrottle d.val x) s = .next t ∧ t.board.temp[d] = x ∧
      (800 ≤ x → t.board.hot[d] = true) ∧ (x < 760 → t.board.hot[d] = false) ∧
      (760 ≤ x → x < 800 → t.board.hot[d] = b.hot[d]) ∧ t.cores = s.cores ∧ t.mem = s.mem ∧
      ∀ j : Fin 4, j ≠ d → t.board.hot[j] = b.hot[j] ∧ t.board.temp[j] = b.temp[j]) ∧
    (∀ d : Fin 4, b.dieDown[d] = false → ∃ t, exec (.dieReset d.val) s = .next t ∧ t.board.dieDown[d] = true ∧
      t.board.trip.getLsbD d = true ∧
      (∀ i, dieOf i = d.val → i < Config.coreCount → ∀ o, o < Config.tcmBytes → readByte t.mem (tcmKey i o) = 0) ∧
      (∀ i, hallDie (hallOf i) = d.val → (t.core i).g = Vector.replicate 64 0 ∧ (t.core i).wait = none) ∧
      ∀ c o, c < 8 → o < 2 ^ 64 → readByte t.mem (memKey 3 c o) = readByte s.mem (memKey 3 c o)) ∧
    (∀ (d : Fin 4) x, b.dieDown[d] = true → x < 760 → ∃ t, exec (.dieRecover d.val x true) s = .next t ∧
      t.board.dieDown[d] = false ∧ t.board.hot[d] = false ∧ { t with board := b } = s) ∧
    (∀ n, n < 16 → exec (.interfaceLockLoss (.kalfa n)) s = .next (s.setPort n { s.port n with limit := true })) ∧
    exec (.interfaceLockLoss .cxl) s = .next s ∧
    (∀ k, exec (.refresh k) s = .next s) ∧
    (∀ part, s.poison.contains part = false → part * 8 < hostKey 0 →
      (s.soft.contains part = false → ∃ t, exec (.softError (.mem part)) s = .next t ∧ part ∈ t.soft ∧ t.mem = s.mem ∧
        t.poison = s.poison) ∧
      (s.soft.contains part = true → ∃ t, exec (.softError (.mem part)) s = .next t ∧ part ∉ t.soft ∧ part ∈ t.poison ∧
        t.mem = s.mem)) ∧
    (∀ i c w, c < 256 → w < 4 → ((s.core i).col c).bad = false →
      ∃ t, exec (.softError (.acc i c w)) s = .next t ∧ t.mem = s.mem ∧ (t.core i).g = (s.core i).g ∧
        (((s.core i).col c).soft.contains w = false → ((t.core i).col c).bad = false ∧ w ∈ ((t.core i).col c).soft) ∧
        (((s.core i).col c).soft.contains w = true → ((t.core i).col c).bad = true)) ∧
    (∀ part, s.soft = [part] → ∃ t, exec (.scrub part) s = .next t ∧ t.soft = [] ∧ t.mem = s.mem ∧ t.poison = s.poison) ∧
    (∀ part, s.soft.contains part = false → ∃ t, exec (.scrub part) s = .next t ∧ t.mem = s.mem ∧ t.poison = s.poison ∧
      t.soft = s.soft ∧ t.cores = s.cores)

/-- R352, R394, R449: the instructions of the 1149.1 port; a core of a partition whose DBGEN bit is set halts, steps, halts on a
breakpoint, and shows its registers and its TCM; another shows zero and is not halted.
Choices of the model: log 17, 46, 73. -/
def Obligations.DebugEvents : Prop :=
  ∀ (s : State),
    let b := s.board
    (∃ t, exec .idcode s = .next t ∧ t = { s with board := { b with jtag := 1, jtagOut := [0x14820153] } }) ∧
    (∀ x, exec (.bypass x) s = .next { s with board := { b with jtag := 0, jtagOut := [0, if x then 1 else 0] } }) ∧
    (∀ pins pre, ∃ t, exec (.samplePreload pins pre) s = .next t ∧ t.board.cells = pre ∧ { t with board := b } = s ∧
      t.board.jtagOut = pins.map (fun x => if x then 1 else 0)) ∧
    (∀ pins, ∃ t, exec (.extest pins) s = .next t ∧ t.board.cells = b.cells ∧ { t with board := b } = s ∧
      t.board.jtagOut = pins.map (fun x => if x then 1 else 0)) ∧
    (∀ i, (∀ n p, s.partOf? i = some (n, p) → b.dbgEn.getLsbD n = false) →
      exec (.debugHalt i) s = .next s ∧ exec (.debugStep i) s = .next s ∧ exec (.haltOnBreak i) s = .next s ∧
      ∀ what, ∃ t, exec (.debugRead i what) s = .next t ∧ t.board.jtagOut = [0] ∧ t.cores = s.cores ∧ t.mem = s.mem) ∧
    (∀ i n p, s.partOf? i = some (n, p) → b.dbgEn.getLsbD n = true →
      (∃ t, exec (.debugHalt i) s = .next t ∧ (t.core i).halted = true ∧ (t.core i).pc = (s.core i).pc ∧
        (t.core i).g = (s.core i).g ∧ t.mem = s.mem) ∧
      ((s.core i).halted = true → (s.core i).monitored = false →
        exec (.debugStep i) s = .next (s.setCore i { s.core i with stepping := true })) ∧
      ((s.core i).monitored = true → exec (.debugStep i) s = .next s) ∧
      exec (.haltOnBreak i) s = .next (s.setCore i { s.core i with haltOnBreak := true }) ∧
      ((s.core i).level ≠ 2 →
        (∀ r : Fin 64, r ≠ 0 → (s.core i).gFreed.getLsbD r.val = false → ∃ t, exec (.debugRead i (.reg (.g r))) s = .next t ∧
          t.board.jtagOut = [(s.core i).g[r]] ∧ t.cores = s.cores ∧ t.mem = s.mem) ∧
        (∀ k, ∃ t, exec (.debugRead i (.cr k)) s = .next t ∧ t.board.jtagOut = [(s.core i).cr k] ∧ t.cores = s.cores) ∧
        ∀ off, off + 8 ≤ Config.tcmBytes → ∃ t, exec (.debugRead i (.tcm off)) s = .next t ∧
          t.board.jtagOut = [word (leNat (readBytes s.mem (tcmKey i off) 8))] ∧ t.cores = s.cores ∧ t.mem = s.mem) ∧
      ((s.core i).level = 2 → ∀ what, ∃ t, exec (.debugRead i what) s = .next t ∧ t.board.jtagOut = [0] ∧
        t.cores = s.cores))

/-! ## Encodings -/

/-- R48 to R60: the words that are instructions are exactly the encodings of the well-formed instructions: each has one
word, which decodes to it with every operand as it stands, and a word that decodes is the encoding of what it decodes
to. -/
def Obligations.EncodingRoundTrip : Prop :=
  (∀ i : Instr, WellFormed i → isEvent i = false → ∃ w : Slot, encode i = some w ∧ decode w = .ok i) ∧
  (∀ (w : Slot) (i : Instr), decode w = .ok i → WellFormed i ∧ isEvent i = false ∧ encode i = some w)

/-- The words that the spec encodes field by field, for a row of every family of the opcode table. -/
def Obligations.DecodedWords : Prop :=
  decode 0x00A801801828_37FC00000000#96 =
    .ok (.add { pg := 2, pn := true, ty := .i64, d := .g 3, s1 := .g 5, s2 := .g 6, l1 := true }) ∧
  decode 0x23000007FFFFFFF800000000#96 = .ok (.nop {}) ∧
  decode 0x24801000100FFFF800001000#96 =
    .ok (.stair { sub := 1, d := .g 2, s1 := .g 1, imm := 0x1000 }) ∧
  decode 0x2900000047FFFFF800001000#96 = .ok (.take { d := .g 8, imm := 0x1000 }) ∧
  decode 0x400003003827FFF800000040#96 = .ok (.ld { ty := .n32, d := .g 7, s1 := .g 4, imm := 0x40 }) ∧
  decode 0x638018404847FC0800002000#96 =
    .ok (.recvt { ep := .e 3, mt := 1, d := .g 9, s1 := .g 8, s3 := .q 1, imm := 0x2000 }) ∧
  decode 0x6138100FF8A7FFF800000000#96 =
    .ok (.send { pg := 3, pn := true, ep := .port 2, s1 := .g 20 }) ∧
  decode 0x800000404020283000000030#96 =
    .ok (.get { ctx := 1, d := .g 8, s1 := .g 4, s2 := .g 5, s3 := .g 6, imm := 0x30 }) ∧
  decode 0x87818007FFFFF83800000000#96 = .ok (.fence { sub := 3, s3 := .g 7 }) ∧
  decode 0x888007804020283000000010#96 =
    .ok (.ratom { ty := .n64, ctx := 2, d := .g 8, s1 := .g 4, s2 := .g 5, s3 := .g 6, imm := 0x10 }) ∧
  decode 0xA18004821A0A121800000000#96 =
    .ok (.vfma { ty := .fp32, d := .v 3, s1 := .v 1, s2 := .v 2, s3 := .v 3 }) ∧
  decode 0xC0001140404FF83000000002#96 =
    .ok (.mloadw { ty := .dx8, ctx := 1, d := .g 8, s1 := .g 9, s3 := .g 6, imm := 2 }) ∧
  decode 0xC8008907FA202FF800002000#96 =
    .ok (.red { sub := 1, ty := .fp32, s1 := .v 4, s2 := .g 5, imm := 0x2000 }) ∧
  decode 0xE2000000_2827FFF80000007F#96 = .ok (.csave { d := .g 5, s1 := .g 4, imm := 0x7F }) ∧
  decode 0#96 = .error .unassignedOp

/-! ## A step -/

namespace Sys2Proof.Claims

/-- The current core issues: nothing stands before it on the agenda, it has a running thread that nothing holds or freezes, it
fetches for itself, and neither a watchdog trap nor a pre-emption request is due. -/
structure Ready (s : State) : Prop where
  core : s.cur < Config.coreCount
  first : s.agenda = []
  running : s.self.thread = .running
  going : s.self.halted = false ∧ s.stairHalted s.cur = false
  present : s.self.preempted = false ∧ s.self.diverting = false ∧ s.memberAway s.self = false
  unheld : s.heldPart s.cur = false
  calm : s.self.wdogPending = false ∧ s.self.request = none
  free : s.frozen s.cur = false
  own : s.self.follower = false

/-- Slot n of the core's line at pc holds this word, and the line is legal (R44). -/
structure Fetched (s : State) (l : ILine) : Prop where
  cached : s.self.cached? s.self.pc = some l
  whole : l.failed = none
  legal : lineDetail l.bytes = none

/-- The word in slot n of a line (R40). -/
def slotWord (l : ILine) (n : Nat) : Slot := slotOfBytes ((l.bytes.drop (12 * n)).take 12)

/-- What an instruction leaves for its core's stair and step trap (R110, R395). -/
def after (s t : State) (i : Instr) (step : Bool) : State :=
  finishIssue s t (s.self.forwards s.free i s.self.pc) { dstep := step }

end Sys2Proof.Claims

/-- A step runs the instruction that the word at pc decodes to, on the state in which the core has begun its line: the state
after it is that of `exec`, and where the core heads no stair and the step trap is off, nothing more than the debugger's
single step ended. In a pair the second slot executes once the first has completed (R43). -/
def Sys2Proof.Claims.StepRunsInstructions : Prop :=
  ∀ (s t : State) (l : ILine) (i : Instr), Ready s → Fetched s l →
    let b := s.beginLine
    decode (slotWord l (bits s.self.pc 0 3)) = .ok i → exec i b = .next t →
    (pairBit (lineWord l.bytes) (slotNo s.self.pc) = false →
      step s = .next (after b t i s.self.steps) ∧
      (s.self.isHead = false → s.self.steps = false →
        step s = .next (if completed b t then t.onCore s.cur fun c => { c with stepping := false } else t))) ∧
    (pairBit (lineWord l.bytes) (slotNo s.self.pc) = true →
      (completed b t = false → step s = .next (after b t i false)) ∧
      (∀ (j : Instr) (v : State), completed b t = true → decode (slotWord l (bits s.self.pc 0 3 + 1)) = .ok j →
        exec j (after b t i false) = .next v →
          step s = .next (after (after b t i false) v j s.self.steps)))

/-- R108, R398: issue that begins from a line asks for the next sequential one and corrects the single-bit errors of its own;
after that it changes nothing. -/
def Sys2Proof.Claims.LinesBegun : Prop :=
  ∀ (s : State) (l : ILine), s.self.cached? s.self.pc = some l →
    let a : Word := s.self.pc &&& ~~~0x3F#64
    (l.soft = [] → s.self.fromLine = some a → s.beginLine = s) ∧
    (s.self.fromLine ≠ some a →
      s.beginLine.self.fromLine = some a ∧
      s.beginLine.agenda =
        (if (s.self.cached? (a + 64)).isSome then [] else [.event (.lineFill s.cur (a + 64))]) ++ s.agenda) ∧
    ∃ d, s.beginLine.self = { s.self with fromLine := some a, icache := d } ∧
      s.beginLine.mem = s.mem ∧ s.beginLine.free = s.free ∧ ∀ j, j ≠ s.cur → s.beginLine.core j = s.core j

/-- R44, R60, R108: a line that fails its check or whose fetch failed and a word that is no instruction trap with kepc the
code address, before any effect; a line that is not cached is fetched. -/
def Sys2Proof.Claims.LineFaults : Prop :=
  ∀ s : State, Ready s →
    (∀ (l : ILine) (d : Illegal), Fetched s l → decode (slotWord l (bits s.self.pc 0 3)) = .error d →
      step s = .next (s.takeTrap s.cur
        { cls := 0x01, detail := d.detail, tval := (slotWord l (bits s.self.pc 0 3)).setWidth 64 })) ∧
    (∀ (l : ILine) (d : Nat), s.self.cached? s.self.pc = some l →
      (l.failed = some d ∨ (l.failed = none ∧ lineDetail l.bytes = some d)) →
      step s = .next (s.takeTrap s.cur { cls := 0x02, detail := d, tval := s.self.pc &&& ~~~0x3F#64 })) ∧
    (s.self.cached? s.self.pc = none →
      step s = exec (.lineFill s.cur (s.self.pc &&& ~~~0x3F#64)) s)

/-- R44, R47, R60, R108: the traps of lines, of words that are no instructions, and of illegal branch targets; lines asked
for. Choices of the model: log 11. -/
def Obligations.LineTraps : Prop := Claims.LineFaults ∧ Claims.IllegalTargetTraps ∧ Claims.LinesBegun

/-- An event at the head of the agenda happens, and the current core issues nothing in that step (the model's order of
agents, log 1). -/
def Sys2Proof.Claims.StepRunsEvents : Prop :=
  ∀ (s : State) (i : Instr) (rest : List Turn), s.cur < Config.coreCount → s.agenda = .event i :: rest →
    isEvent i = true → step s = exec i { s with agenda := rest }

/-- A step runs the instruction that the word at pc decodes to, or the event at the head of the agenda.
Choices of the model: log 1. -/
def Obligations.StepRunsDecoded : Prop := Claims.StepRunsInstructions ∧ Claims.StepRunsEvents

/-- No step of a state whose current core exists stops: every instruction and every event has an effect.
Choices of the model: log 3. -/
def Obligations.NoStepStops : Prop :=
  ∀ s : State, s.cur < Config.coreCount → Safe s

/-- Every step keeps the canonical form of memory and leaves a current core that exists (the form of memory is the
model's own, log 4). Choices of the model: log 1, 4. -/
def Obligations.StepKeepsForm : Prop :=
  ∀ s t : State, Memory.wf s.mem = true → s.cur < Config.coreCount → step s = .next t →
    Memory.wf t.mem = true ∧ t.cur < Config.coreCount

/-! ## Reset -/

/-- R25, R26, R30, R34, R35, R448: the values that the spec gives for reset: of a core's registers, their freed marks,
accumulator columns, endpoints, timelines and control registers, and of the I3C registers. The model adds that memory
lists nothing (log 4) and that the first core is current (log 1). Choices of the model: log 1, 4, 6. -/
def Obligations.ResetValues : Prop :=
  let s := State.reset
  (∀ i, let c := s.core i
    (∀ n k, c.gVal n k 0 = 0 ∧ c.qVal n k 0 = BitVec.allOnes 32) ∧
    (∀ r : Fin 64, r ≠ 0 → c.isFreed (.g r) = true) ∧ (∀ r : Fin 32, c.isFreed (.v r) = true) ∧
    (∀ r : Fin 8, r ≠ 0 → c.isFreed (.q r) = true) ∧
    (∀ r : Fin 256, c.acc[r].state = .free ∧ c.acc[r].bits = 0) ∧
    c.eps[0].binding = .memline ∧ c.eps[1].binding = .scratch ∧
    (∀ e : Fin 20, 2 ≤ e.val → e.val < 16 → c.eps[e].mode = .unbound) ∧
    (∀ k : Fin 4, c.tl[k] = 0) ∧
    (∀ k, k ∈ [0x000, 0x001, 0x002, 0x003, 0x005, 0x00A, 0x018, 0x019, 0x01C, 0x030] → c.cr k = 0) ∧
    (∀ k : Fin 16, c.kev[k] = 0) ∧ c.cr 0x01A = 0x0010_0000) ∧
  s.board.state = .reset ∧ s.board.pkgPwr = 0 ∧ s.board.plim = 12000 ∧ (∀ n : Fin 4, s.board.temp[n] = 0) ∧
  s.board.thrCnt = 0 ∧ s.board.trip = 0 ∧ s.board.dbgEn = 0 ∧
  Memory.wf s.mem = true ∧ (∀ k, readByte s.mem k = 0) ∧ s.cur < Config.coreCount
end

