-- ==== Sys2Proof/Laws/Codes.lean ====
section
/-! SUPPORT. The codes of the encoding and the fields of a word: what is laid out is read back, and what is read lays out
the same (R48 to R56). -/
namespace Sys2Proof.Machine

/-! ## Codes -/

@[simp] theorem tyOfCode_tyCode (t : Ty) : tyOfCode (tyCode t) = some t := by cases t <;> rfl

@[simp] theorem rmOfCode_rmCode (m : Rm) : rmOfCode (rmCode m) = some m := by cases m <;> rfl

@[simp] theorem clsOfCode_clsCode (c : Cls) : clsOfCode (clsCode c) = some c := by cases c <;> rfl

@[simp] theorem ordOfCode_ordCode (d : Ord) : ordOfCode (ordCode d) = some d := by cases d <;> rfl

theorem tyCode_lt (t : Ty) : tyCode t < 32 := by cases t <;> decide

theorem rmCode_lt (m : Rm) : rmCode m < 8 := by cases m <;> decide

theorem clsCode_lt (c : Cls) : clsCode c < 4 := by cases c <;> decide

theorem ordCode_lt (d : Ord) : ordCode d < 8 := by cases d <;> decide

theorem bit_lt (b : Bool) : bit b < 2 := by cases b <;> decide

@[simp] theorem bit_beq (b : Bool) : (bit b == 1) = b := by cases b <;> rfl

@[simp] theorem opndOfCode_opndCode (o : Opnd) : opndOfCode (opndCode o) = some o := by
  cases o with
  | g r => revert r; decide
  | v r => revert r; decide
  | q r => revert r; decide
  | e r => revert r; decide
  | port p f => revert p f; decide
  | tl t => revert t; decide
  | none => rfl

theorem opndCode_lt (o : Opnd) : opndCode o < 256 := by
  cases o with
  | port p f => revert p f; decide
  | _ => simp only [opndCode]; omega

/-- No two operands have one code. -/
theorem opndCode_inj {o p : Opnd} (h : opndCode o = opndCode p) : o = p := by
  have := opndOfCode_opndCode o
  rw [h, opndOfCode_opndCode p] at this
  exact (Option.some.inj this).symm

@[simp] theorem epOfCode_epCode (e : Ep) : epOfCode (epCode e).1 (epCode e).2 = some e := by
  cases e with
  | e n => revert n; decide
  | port p => revert p; decide

theorem epCode_lt (e : Ep) : (epCode e).1 < 16 ∧ (epCode e).2 < 2 := by
  cases e with
  | e n => revert n; decide
  | port p => revert p; decide

/-- An assigned code names an operand, whose code it is. -/
theorem opndCode_opndOfCode {n : Nat} {o : Opnd} (hn : n < 256) (h : opndOfCode n = some o) : opndCode o = n := by
  have key : ∀ h : Nat, h < 16 → ∀ l : Nat, l < 16 → (opndOfCode (16 * h + l)).all (opndCode · == 16 * h + l) = true := by
    decide
  have := key (n / 16) (by omega) (n % 16) (by omega)
  rw [show 16 * (n / 16) + n % 16 = n by omega, h] at this
  simpa using this

/-! ## Operand fields read back -/

@[simp] theorem opAOf_rawA (op : Nat) (o : OpA) : opAOf (rawA op o) = some o := by
  simp [opAOf, rawA]

@[simp] theorem opMOf_rawM (op : Nat) (o : OpM) : opMOf (rawM op o) = some o := by
  simp [opMOf, rawM]

@[simp] theorem opCOf_rawC (op : Nat) (o : OpC) : opCOf (rawC op o) = some o := by
  simp [opCOf, rawC]

/-! ## Words -/

/-- A number below a power of two on top of another part: the field there is the number. -/
theorem field_at {a x b lo n : Nat} (hb : b < 2 ^ lo) (hx : x < 2 ^ n) :
    field (a * 2 ^ (lo + n) + x * 2 ^ lo + b) lo n = x := by
  unfold field
  have : a * 2 ^ (lo + n) + x * 2 ^ lo + b = b + 2 ^ lo * (x + 2 ^ n * a) := by
    rw [Nat.pow_add, Nat.mul_add, Nat.mul_comm x, ← Nat.mul_assoc (2 ^ lo), Nat.mul_comm a]; omega
  rw [this, Nat.add_mul_div_left _ _ (Nat.two_pow_pos lo), Nat.div_eq_of_lt hb, Nat.zero_add,
    Nat.add_mul_mod_self_left, Nat.mod_eq_of_lt hx]

end Sys2Proof.Machine
end

