-- ==== Sys2Proof/Laws/Table.lean ====
section
/-! SUPPORT. Tables keyed by a number: reading after setting. -/
namespace Sys2Proof.Machine

@[simp] theorem tget?_tset_self {α : Type} (t : List (Nat × α)) (k : Nat) (a : α) : tget? (tset t k a) k = some a := by
  induction t with
  | nil => simp [tset, tget?]
  | cons p r ih =>
    obtain ⟨j, b⟩ := p
    simp only [tset]
    split
    · rename_i h
      have : j ≠ k := by omega
      simpa [tget?, this] using ih
    · split <;> simp [tget?]

theorem tget?_tset_ne {α : Type} (t : List (Nat × α)) (k j : Nat) (a : α) (h : j ≠ k) :
    tget? (tset t k a) j = tget? t j := by
  induction t with
  | nil => simp [tset, tget?, h.symm]
  | cons p r ih =>
    obtain ⟨i, b⟩ := p
    simp only [tset]
    split
    · simp only [tget?, ih]
    · split
      · rename_i hik
        subst hik
        simp [tget?, h.symm]
      · simp [tget?, h.symm]

@[simp] theorem tget_tset_self {α : Type} (d : α) (t : List (Nat × α)) (k : Nat) (a : α) : tget d (tset t k a) k = a := by
  simp [tget]

theorem tget_tset_ne {α : Type} (d : α) (t : List (Nat × α)) (k j : Nat) (a : α) (h : j ≠ k) :
    tget d (tset t k a) j = tget d t j := by
  simp [tget, tget?_tset_ne t k j a h]

@[simp] theorem tset_tset {α : Type} (t : List (Nat × α)) (k : Nat) (a b : α) : tset (tset t k a) k b = tset t k b := by
  induction t with
  | nil => simp [tset]
  | cons p r ih =>
    obtain ⟨j, c⟩ := p
    simp only [tset]
    split
    · rename_i h
      simp [tset, h, ih]
    · split <;> simp [tset]

/-- Setting entries of two keys commutes. -/
theorem tset_comm {α : Type} (t : List (Nat × α)) (k j : Nat) (a b : α) (h : k ≠ j) :
    tset (tset t k a) j b = tset (tset t j b) k a := by
  induction t with
  | nil =>
    rcases Nat.lt_or_gt_of_ne h with h1 | h1
    · have : ¬ j < k := by omega
      have h2 : ¬ j = k := by omega
      simp [tset, h1, this, h2]
    · have : ¬ k < j := by omega
      have h2 : ¬ k = j := by omega
      simp [tset, h1, this, h2]
  | cons p r ih =>
    obtain ⟨i, c⟩ := p
    rcases Nat.lt_trichotomy i k with h1 | h1 | h1 <;> rcases Nat.lt_trichotomy i j with h2 | h2 | h2 <;>
      rcases Nat.lt_or_gt_of_ne h with h3 | h3 <;>
      first
        | omega
        | (have e1 := Nat.lt_asymm h1; have e2 := Nat.lt_asymm h2; have e3 := Nat.lt_asymm h3
           simp [tset, *, Nat.ne_of_gt])
        | (subst h1; have e2 := Nat.lt_asymm h2
           simp [tset, *])
        | (subst h2; have e2 := Nat.lt_asymm h1
           simp [tset, *, Nat.ne_of_gt])

theorem tget?_tdel_self {α : Type} (t : List (Nat × α)) (k : Nat) : tget? (tdel t k) k = none := by
  induction t with
  | nil => rfl
  | cons p r ih =>
    obtain ⟨j, b⟩ := p
    simp only [tdel, List.filter_cons] at ih ⊢
    split
    · rename_i h
      have : j ≠ k := by simpa using h
      simp [tget?, this, ih]
    · exact ih

theorem tget?_tdel_ne {α : Type} (t : List (Nat × α)) (k j : Nat) (h : j ≠ k) : tget? (tdel t k) j = tget? t j := by
  induction t with
  | nil => rfl
  | cons p r ih =>
    obtain ⟨i, b⟩ := p
    simp only [tdel, List.filter_cons] at ih ⊢
    split
    · simp only [tget?, ih]
    · rename_i hik
      have : i = k := by simpa using hik
      subst this
      simp [tget?, h.symm, ih]

theorem tget?_tmap {α : Type} (t : List (Nat × α)) (f : Nat → α → α) (k : Nat) :
    tget? (tmap t f) k = (tget? t k).map (f k) := by
  induction t with
  | nil => rfl
  | cons p r ih =>
    obtain ⟨j, b⟩ := p
    simp only [tmap, List.map_cons, tget?] at ih ⊢
    split
    · rename_i h
      simp [h]
    · exact ih

end Sys2Proof.Machine
end

