-- ==== Sys2Proof/Laws/Memory.lean ====
section
/-! SUPPORT. Memory: every operation keeps its canonical form, a byte read after a write is the byte written, and every
other byte is kept. -/
namespace Sys2Proof.Machine

/-! ## The canonical form -/

theorem wfFrom_mono {m : List Host.Cell} {lo hi : Nat} (h : wfFrom m hi = true) (hl : lo ≤ hi) : wfFrom m lo = true := by
  cases m with
  | nil => rfl
  | cons c r =>
    obtain ⟨k, b⟩ := c
    simp only [wfFrom, Bool.and_eq_true, decide_eq_true_eq] at h ⊢
    exact ⟨⟨by omega, h.1.2⟩, h.2⟩

theorem wfFrom_cons {k : Nat} {b : Byte} {r : List Host.Cell} {lo : Nat} :
    wfFrom ((k, b) :: r) lo = true ↔ lo ≤ k ∧ b ≠ 0 ∧ wfFrom r (k + 1) = true := by
  simp [wfFrom, and_assoc]

/-- Below every listed key a byte reads as zero. -/
theorem readByte_below {m : List Host.Cell} {lo k : Nat} (h : wfFrom m lo = true) (hk : k < lo) : readByte m k = 0 := by
  cases m with
  | nil => rfl
  | cons c r =>
    obtain ⟨j, b⟩ := c
    have := (wfFrom_cons.1 h).1
    simp only [readByte]
    rw [if_neg (by omega), if_pos (by omega)]

theorem wfFrom_writeByte {m : List Host.Cell} {lo k : Nat} (b : Byte) (h : wfFrom m lo = true) (hk : lo ≤ k) :
    wfFrom (writeByte m k b) lo = true := by
  induction m generalizing lo with
  | nil =>
    simp only [writeByte]
    split
    · rfl
    · exact wfFrom_cons.2 ⟨hk, ‹_›, rfl⟩
  | cons c r ih =>
    obtain ⟨j, c⟩ := c
    obtain ⟨h1, h2, h3⟩ := wfFrom_cons.1 h
    simp only [writeByte]
    split
    · exact wfFrom_cons.2 ⟨h1, h2, ih h3 (by omega)⟩
    · split
      · split
        · exact wfFrom_mono h3 (by omega)
        · rename_i hj _
          exact wfFrom_cons.2 ⟨hk, ‹_›, hj ▸ h3⟩
      · split
        · exact h
        · exact wfFrom_cons.2 ⟨hk, ‹_›, wfFrom_cons.2 ⟨by omega, h2, h3⟩⟩

/-- Writing a byte keeps the canonical form. -/
theorem writeByte_wf {m : List Host.Cell} (k : Nat) (b : Byte) (h : Memory.wf m = true) :
    Memory.wf (writeByte m k b) = true := wfFrom_writeByte b h (Nat.zero_le k)

/-- Writing bytes keeps the canonical form. -/
theorem writeBytes_wf {m : List Host.Cell} (k : Nat) (bs : List Byte) (h : Memory.wf m = true) :
    Memory.wf (writeBytes m k bs) = true := by
  induction bs generalizing m k with
  | nil => exact h
  | cons b r ih => exact ih (k + 1) (writeByte_wf k b h)

theorem wfFrom_filter {m : List Host.Cell} {lo : Nat} (p : Host.Cell → Bool) (h : wfFrom m lo = true) :
    wfFrom (m.filter p) lo = true := by
  induction m generalizing lo with
  | nil => rfl
  | cons c r ih =>
    obtain ⟨j, b⟩ := c
    obtain ⟨h1, h2, h3⟩ := wfFrom_cons.1 h
    rw [List.filter_cons]
    split
    · exact wfFrom_cons.2 ⟨h1, h2, ih h3⟩
    · exact wfFrom_mono (ih h3) (by omega)

/-- Dropping bytes keeps the canonical form. -/
theorem filter_wf {m : List Host.Cell} (p : Host.Cell → Bool) (h : Memory.wf m = true) :
    Memory.wf (m.filter p) = true := wfFrom_filter p h

/-! ## Reading after writing -/

theorem readByte_writeByte_from {m : List Host.Cell} {lo k : Nat} (b : Byte) (j : Nat) (h : wfFrom m lo = true)
    (hk : lo ≤ k) : readByte (writeByte m k b) j = if j = k then b else readByte m j := by
  induction m generalizing lo with
  | nil =>
    simp only [writeByte]
    split
    · split <;> simp_all [readByte]
    · simp only [readByte, eq_comm (a := k) (b := j)]
      split <;> simp
  | cons c r ih =>
    obtain ⟨i, c⟩ := c
    obtain ⟨h1, h2, h3⟩ := wfFrom_cons.1 h
    simp only [writeByte]
    split
    · have := ih h3 (by omega)
      simp only [readByte, this]
      split
      · rename_i hik hij
        rw [if_neg (by omega)]
      · split
        · rw [if_neg (by omega)]
        · rfl
    · split
      · rename_i hik
        subst hik
        split
        · rename_i hb
          subst hb
          simp only [readByte]
          rcases Nat.lt_trichotomy i j with hij | hij | hij
          · rw [if_neg (Nat.ne_of_gt hij), if_neg (Nat.ne_of_lt hij), if_neg (by omega)]
          · subst hij
            simp [readByte_below h3 (Nat.lt_succ_self i)]
          · rw [readByte_below h3 (by omega), if_neg (Nat.ne_of_lt hij), if_neg (Nat.ne_of_gt hij), if_pos hij]
        · simp only [readByte, eq_comm (a := i) (b := j)]
          split
          · rfl
          · rfl
      · split
        · rename_i hb
          subst hb
          split
          · rename_i hj
            subst hj
            simp only [readByte]
            rw [if_neg ‹_›, if_pos (by omega)]
          · rfl
        · simp only [readByte, eq_comm (a := k) (b := j)]
          split
          · rfl
          · split
            · rw [if_neg (by omega), if_pos (by omega)]
            · rfl

/-- A byte after a write of one: the byte written at its key, and every other as before. -/
theorem readByte_writeByte {m : List Host.Cell} (h : Memory.wf m = true) (k j : Nat) (b : Byte) :
    readByte (writeByte m k b) j = if j = k then b else readByte m j :=
  readByte_writeByte_from b j h (Nat.zero_le k)

/-- A byte after a write of bytes: those written in their range, and every other as before. -/
theorem readByte_writeBytes {m : List Host.Cell} (h : Memory.wf m = true) (k j : Nat) (bs : List Byte) :
    readByte (writeBytes m k bs) j = if k ≤ j ∧ j < k + bs.length then bs.getD (j - k) 0 else readByte m j := by
  induction bs generalizing m k with
  | nil =>
    simp only [writeBytes, List.length_nil]
    rw [if_neg (by omega)]
  | cons b r ih =>
    simp only [writeBytes]
    rw [ih (writeByte_wf k b h), readByte_writeByte h]
    simp only [List.length_cons]
    rcases Nat.lt_trichotomy j k with hj | hj | hj
    · rw [if_neg (by omega), if_neg (by omega), if_neg (by omega)]
    · subst hj
      rw [if_neg (by omega), if_pos rfl, if_pos (by omega)]
      simp
    · have e : j - k = (j - (k + 1)) + 1 := by omega
      split
      · rw [if_pos (by omega), e]
        simp
      · rw [if_neg (by omega), if_neg (by omega)]

/-- Outside the bytes written, memory reads as before. -/
theorem readByte_writeBytes_off {m : List Host.Cell} (h : Memory.wf m = true) {k j : Nat} {bs : List Byte}
    (hj : j < k ∨ k + bs.length ≤ j) : readByte (writeBytes m k bs) j = readByte m j := by
  rw [readByte_writeBytes h, if_neg (by omega)]

@[simp] theorem readBytes_length (m : List Host.Cell) (k n : Nat) : (readBytes m k n).length = n := by simp [readBytes]

/-- Bytes written read back. -/
theorem readBytes_writeBytes {m : List Host.Cell} (h : Memory.wf m = true) (k : Nat) (bs : List Byte) :
    readBytes (writeBytes m k bs) k bs.length = bs := by
  apply List.ext_getElem (by simp)
  intro i h1 h2
  simp only [readBytes, List.getElem_map, List.getElem_range]
  rw [readByte_writeBytes h, if_pos (by omega)]
  simp [h2]

/-- A byte after cells were dropped. -/
theorem readByte_filter {m : List Host.Cell} {lo : Nat} (p : Nat → Bool) (k : Nat) (h : wfFrom m lo = true) :
    readByte (m.filter fun c => p c.1) k = if p k then readByte m k else 0 := by
  induction m generalizing lo with
  | nil => simp [readByte]
  | cons c r ih =>
    obtain ⟨j, b⟩ := c
    obtain ⟨h1, h2, h3⟩ := wfFrom_cons.1 h
    have hr := ih h3
    rw [List.filter_cons]
    rcases Nat.lt_trichotomy j k with hj | hj | hj
    · have e1 : j ≠ k := by omega
      have e2 : ¬ k < j := by omega
      split <;> simp [readByte, e1, e2, hr]
    · subst hj
      split
      · simp_all [readByte]
      · rw [hr, readByte_below h3 (Nat.lt_succ_self j)]
        simp_all
    · have e1 : j ≠ k := by omega
      split
      · simp [readByte, e1, hj]
      · rw [hr, readByte_below h3 (by omega)]
        simp [readByte, e1, hj]

/-- Memories in canonical form that read alike are the same list. -/
theorem wfFrom_ext {m n : List Host.Cell} {lo : Nat} (hm : wfFrom m lo = true) (hn : wfFrom n lo = true)
    (h : ∀ k, readByte m k = readByte n k) : m = n := by
  induction m generalizing n lo with
  | nil =>
    cases n with
    | nil => rfl
    | cons c r =>
      obtain ⟨j, b⟩ := c
      have := h j
      exact absurd (by simpa [readByte] using this.symm) (wfFrom_cons.1 hn).2.1
  | cons c r ih =>
    obtain ⟨j, b⟩ := c
    obtain ⟨h1, h2, h3⟩ := wfFrom_cons.1 hm
    cases n with
    | nil => exact absurd (by simpa [readByte] using h j) h2
    | cons d q =>
      obtain ⟨i, d⟩ := d
      obtain ⟨g1, g2, g3⟩ := wfFrom_cons.1 hn
      have hji : j = i := by
        rcases Nat.lt_trichotomy j i with e | e | e
        · have := h j
          simp only [readByte, if_true] at this
          rw [if_neg (by omega), if_pos e] at this
          exact absurd this h2
        · exact e
        · have := h i
          simp only [readByte, if_true] at this
          rw [if_neg (by omega), if_pos e] at this
          exact absurd this.symm g2
      subst hji
      have hb : b = d := by simpa [readByte] using h j
      subst hb
      congr 1
      refine ih h3 g3 fun k => ?_
      rcases Nat.lt_or_ge j k with e | e
      · have := h k
        simpa [readByte, Nat.ne_of_lt e, Nat.lt_asymm e] using this
      · rw [readByte_below h3 (by omega), readByte_below g3 (by omega)]

/-- Equal memories are equal data. -/
theorem memory_ext {m n : List Host.Cell} (hm : Memory.wf m = true) (hn : Memory.wf n = true)
    (h : ∀ k, readByte m k = readByte n k) : m = n := wfFrom_ext hm hn h

/-! ## Numbers in bytes -/

@[simp] theorem leBytes_length (n x : Nat) : (leBytes n x).length = n := by simp [leBytes]

/-- The bytes of a number hold its low part. -/
theorem leNat_leBytes (n x : Nat) : leNat (leBytes n x) = x % 2 ^ (8 * n) := by
  induction n generalizing x with
  | zero => simp [leBytes, leNat, Nat.mod_one]
  | succ n ih =>
    have e : leBytes (n + 1) x = BitVec.ofNat 8 x :: leBytes n (x / 256) := by
      simp only [leBytes, List.range_succ_eq_map, List.map_cons, List.map_map]
      congr 1
      · simp
      · apply List.map_congr_left
        intro i _
        simp only [Function.comp]
        rw [Nat.div_div_eq_div_mul]
        congr 2
        rw [show 8 * (i + 1) = 8 + 8 * i by omega, Nat.pow_add]
    have ih' := ih (x / 256)
    simp only [leNat] at ih' ⊢
    rw [e, List.foldr_cons, ih']
    have : 2 ^ (8 * (n + 1)) = 256 * 2 ^ (8 * n) := by
      rw [show 8 * (n + 1) = 8 + 8 * n by omega, Nat.pow_add]
    rw [this, Nat.mod_mul]
    simp

end Sys2Proof.Machine
end

