-- ==== Sys2Proof/Laws/State.lean ====
section
/-! SUPPORT. What every update of the state leaves as it was, field by field, and what a unit reads after it is set. -/
namespace Sys2Proof.Machine

/-! ## `setCore` -/

@[simp] theorem State.setCore_cur (s : State) (i : Nat) (c : Core) : (s.setCore i c).cur = s.cur := rfl
@[simp] theorem State.setCore_agenda (s : State) (i : Nat) (c : Core) : (s.setCore i c).agenda = s.agenda := rfl
@[simp] theorem State.setCore_free (s : State) (i : Nat) (c : Core) : (s.setCore i c).free = s.free := rfl
@[simp] theorem State.setCore_fresh (s : State) (i : Nat) (c : Core) : (s.setCore i c).fresh = s.fresh := rfl
@[simp] theorem State.setCore_mem (s : State) (i : Nat) (c : Core) : (s.setCore i c).mem = s.mem := rfl
@[simp] theorem State.setCore_poison (s : State) (i : Nat) (c : Core) : (s.setCore i c).poison = s.poison := rfl
@[simp] theorem State.setCore_soft (s : State) (i : Nat) (c : Core) : (s.setCore i c).soft = s.soft := rfl
@[simp] theorem State.setCore_objects (s : State) (i : Nat) (c : Core) : (s.setCore i c).objects = s.objects := rfl
@[simp] theorem State.setCore_unsettled (s : State) (i : Nat) (c : Core) :
    (s.setCore i c).unsettled = s.unsettled := rfl
@[simp] theorem State.setCore_clusters (s : State) (i : Nat) (c : Core) : (s.setCore i c).clusters = s.clusters := rfl
@[simp] theorem State.setCore_stairs (s : State) (i : Nat) (c : Core) : (s.setCore i c).stairs = s.stairs := rfl
@[simp] theorem State.setCore_flight (s : State) (i : Nat) (c : Core) : (s.setCore i c).flight = s.flight := rfl
@[simp] theorem State.setCore_inbound (s : State) (i : Nat) (c : Core) : (s.setCore i c).inbound = s.inbound := rfl
@[simp] theorem State.setCore_net (s : State) (i : Nat) (c : Core) : (s.setCore i c).net = s.net := rfl
@[simp] theorem State.setCore_mesh (s : State) (i : Nat) (c : Core) : (s.setCore i c).mesh = s.mesh := rfl
@[simp] theorem State.setCore_nodes (s : State) (i : Nat) (c : Core) : (s.setCore i c).nodes = s.nodes := rfl
@[simp] theorem State.setCore_finals (s : State) (i : Nat) (c : Core) : (s.setCore i c).finals = s.finals := rfl
@[simp] theorem State.setCore_parts (s : State) (i : Nat) (c : Core) : (s.setCore i c).parts = s.parts := rfl
@[simp] theorem State.setCore_ifaces (s : State) (i : Nat) (c : Core) : (s.setCore i c).ifaces = s.ifaces := rfl
@[simp] theorem State.setCore_peers (s : State) (i : Nat) (c : Core) : (s.setCore i c).peers = s.peers := rfl
@[simp] theorem State.setCore_shoots (s : State) (i : Nat) (c : Core) : (s.setCore i c).shoots = s.shoots := rfl
@[simp] theorem State.setCore_stalled (s : State) (i : Nat) (c : Core) : (s.setCore i c).stalled = s.stalled := rfl
@[simp] theorem State.setCore_clock (s : State) (i : Nat) (c : Core) : (s.setCore i c).clock = s.clock := rfl
@[simp] theorem State.setCore_hostLines (s : State) (i : Nat) (c : Core) :
    (s.setCore i c).hostLines = s.hostLines := rfl
@[simp] theorem State.setCore_hostCopies (s : State) (i : Nat) (c : Core) :
    (s.setCore i c).hostCopies = s.hostCopies := rfl
@[simp] theorem State.setCore_ports (s : State) (i : Nat) (c : Core) : (s.setCore i c).ports = s.ports := rfl
@[simp] theorem State.setCore_board (s : State) (i : Nat) (c : Core) : (s.setCore i c).board = s.board := rfl
@[simp] theorem State.setCore_images (s : State) (i : Nat) (c : Core) : (s.setCore i c).images = s.images := rfl

/-! ## `onCore` -/

@[simp] theorem State.onCore_cur (s : State) (i : Nat) (f : Core → Core) : (s.onCore i f).cur = s.cur := rfl
@[simp] theorem State.onCore_agenda (s : State) (i : Nat) (f : Core → Core) : (s.onCore i f).agenda = s.agenda := rfl
@[simp] theorem State.onCore_free (s : State) (i : Nat) (f : Core → Core) : (s.onCore i f).free = s.free := rfl
@[simp] theorem State.onCore_fresh (s : State) (i : Nat) (f : Core → Core) : (s.onCore i f).fresh = s.fresh := rfl
@[simp] theorem State.onCore_mem (s : State) (i : Nat) (f : Core → Core) : (s.onCore i f).mem = s.mem := rfl
@[simp] theorem State.onCore_poison (s : State) (i : Nat) (f : Core → Core) : (s.onCore i f).poison = s.poison := rfl
@[simp] theorem State.onCore_soft (s : State) (i : Nat) (f : Core → Core) : (s.onCore i f).soft = s.soft := rfl
@[simp] theorem State.onCore_objects (s : State) (i : Nat) (f : Core → Core) :
    (s.onCore i f).objects = s.objects := rfl
@[simp] theorem State.onCore_unsettled (s : State) (i : Nat) (f : Core → Core) :
    (s.onCore i f).unsettled = s.unsettled := rfl
@[simp] theorem State.onCore_clusters (s : State) (i : Nat) (f : Core → Core) :
    (s.onCore i f).clusters = s.clusters := rfl
@[simp] theorem State.onCore_stairs (s : State) (i : Nat) (f : Core → Core) : (s.onCore i f).stairs = s.stairs := rfl
@[simp] theorem State.onCore_flight (s : State) (i : Nat) (f : Core → Core) : (s.onCore i f).flight = s.flight := rfl
@[simp] theorem State.onCore_inbound (s : State) (i : Nat) (f : Core → Core) :
    (s.onCore i f).inbound = s.inbound := rfl
@[simp] theorem State.onCore_net (s : State) (i : Nat) (f : Core → Core) : (s.onCore i f).net = s.net := rfl
@[simp] theorem State.onCore_mesh (s : State) (i : Nat) (f : Core → Core) : (s.onCore i f).mesh = s.mesh := rfl
@[simp] theorem State.onCore_nodes (s : State) (i : Nat) (f : Core → Core) : (s.onCore i f).nodes = s.nodes := rfl
@[simp] theorem State.onCore_finals (s : State) (i : Nat) (f : Core → Core) : (s.onCore i f).finals = s.finals := rfl
@[simp] theorem State.onCore_parts (s : State) (i : Nat) (f : Core → Core) : (s.onCore i f).parts = s.parts := rfl
@[simp] theorem State.onCore_ifaces (s : State) (i : Nat) (f : Core → Core) : (s.onCore i f).ifaces = s.ifaces := rfl
@[simp] theorem State.onCore_peers (s : State) (i : Nat) (f : Core → Core) : (s.onCore i f).peers = s.peers := rfl
@[simp] theorem State.onCore_shoots (s : State) (i : Nat) (f : Core → Core) : (s.onCore i f).shoots = s.shoots := rfl
@[simp] theorem State.onCore_stalled (s : State) (i : Nat) (f : Core → Core) :
    (s.onCore i f).stalled = s.stalled := rfl
@[simp] theorem State.onCore_clock (s : State) (i : Nat) (f : Core → Core) : (s.onCore i f).clock = s.clock := rfl
@[simp] theorem State.onCore_hostLines (s : State) (i : Nat) (f : Core → Core) :
    (s.onCore i f).hostLines = s.hostLines := rfl
@[simp] theorem State.onCore_hostCopies (s : State) (i : Nat) (f : Core → Core) :
    (s.onCore i f).hostCopies = s.hostCopies := rfl
@[simp] theorem State.onCore_ports (s : State) (i : Nat) (f : Core → Core) : (s.onCore i f).ports = s.ports := rfl
@[simp] theorem State.onCore_board (s : State) (i : Nat) (f : Core → Core) : (s.onCore i f).board = s.board := rfl
@[simp] theorem State.onCore_images (s : State) (i : Nat) (f : Core → Core) : (s.onCore i f).images = s.images := rfl

/-! ## `setSelf` -/

@[simp] theorem State.setSelf_cur (s : State) (c : Core) : (s.setSelf c).cur = s.cur := rfl
@[simp] theorem State.setSelf_agenda (s : State) (c : Core) : (s.setSelf c).agenda = s.agenda := rfl
@[simp] theorem State.setSelf_free (s : State) (c : Core) : (s.setSelf c).free = s.free := rfl
@[simp] theorem State.setSelf_fresh (s : State) (c : Core) : (s.setSelf c).fresh = s.fresh := rfl
@[simp] theorem State.setSelf_mem (s : State) (c : Core) : (s.setSelf c).mem = s.mem := rfl
@[simp] theorem State.setSelf_poison (s : State) (c : Core) : (s.setSelf c).poison = s.poison := rfl
@[simp] theorem State.setSelf_soft (s : State) (c : Core) : (s.setSelf c).soft = s.soft := rfl
@[simp] theorem State.setSelf_objects (s : State) (c : Core) : (s.setSelf c).objects = s.objects := rfl
@[simp] theorem State.setSelf_unsettled (s : State) (c : Core) : (s.setSelf c).unsettled = s.unsettled := rfl
@[simp] theorem State.setSelf_clusters (s : State) (c : Core) : (s.setSelf c).clusters = s.clusters := rfl
@[simp] theorem State.setSelf_stairs (s : State) (c : Core) : (s.setSelf c).stairs = s.stairs := rfl
@[simp] theorem State.setSelf_flight (s : State) (c : Core) : (s.setSelf c).flight = s.flight := rfl
@[simp] theorem State.setSelf_inbound (s : State) (c : Core) : (s.setSelf c).inbound = s.inbound := rfl
@[simp] theorem State.setSelf_net (s : State) (c : Core) : (s.setSelf c).net = s.net := rfl
@[simp] theorem State.setSelf_mesh (s : State) (c : Core) : (s.setSelf c).mesh = s.mesh := rfl
@[simp] theorem State.setSelf_nodes (s : State) (c : Core) : (s.setSelf c).nodes = s.nodes := rfl
@[simp] theorem State.setSelf_finals (s : State) (c : Core) : (s.setSelf c).finals = s.finals := rfl
@[simp] theorem State.setSelf_parts (s : State) (c : Core) : (s.setSelf c).parts = s.parts := rfl
@[simp] theorem State.setSelf_ifaces (s : State) (c : Core) : (s.setSelf c).ifaces = s.ifaces := rfl
@[simp] theorem State.setSelf_peers (s : State) (c : Core) : (s.setSelf c).peers = s.peers := rfl
@[simp] theorem State.setSelf_shoots (s : State) (c : Core) : (s.setSelf c).shoots = s.shoots := rfl
@[simp] theorem State.setSelf_stalled (s : State) (c : Core) : (s.setSelf c).stalled = s.stalled := rfl
@[simp] theorem State.setSelf_clock (s : State) (c : Core) : (s.setSelf c).clock = s.clock := rfl
@[simp] theorem State.setSelf_hostLines (s : State) (c : Core) : (s.setSelf c).hostLines = s.hostLines := rfl
@[simp] theorem State.setSelf_hostCopies (s : State) (c : Core) : (s.setSelf c).hostCopies = s.hostCopies := rfl
@[simp] theorem State.setSelf_ports (s : State) (c : Core) : (s.setSelf c).ports = s.ports := rfl
@[simp] theorem State.setSelf_board (s : State) (c : Core) : (s.setSelf c).board = s.board := rfl
@[simp] theorem State.setSelf_images (s : State) (c : Core) : (s.setSelf c).images = s.images := rfl

/-! ## `goOn` -/

@[simp] theorem State.goOn_cur (s : State) (pc : Word) : (s.goOn pc).cur = s.cur := rfl
@[simp] theorem State.goOn_agenda (s : State) (pc : Word) : (s.goOn pc).agenda = s.agenda := rfl
@[simp] theorem State.goOn_free (s : State) (pc : Word) : (s.goOn pc).free = s.free := rfl
@[simp] theorem State.goOn_fresh (s : State) (pc : Word) : (s.goOn pc).fresh = s.fresh := rfl
@[simp] theorem State.goOn_mem (s : State) (pc : Word) : (s.goOn pc).mem = s.mem := rfl
@[simp] theorem State.goOn_poison (s : State) (pc : Word) : (s.goOn pc).poison = s.poison := rfl
@[simp] theorem State.goOn_soft (s : State) (pc : Word) : (s.goOn pc).soft = s.soft := rfl
@[simp] theorem State.goOn_objects (s : State) (pc : Word) : (s.goOn pc).objects = s.objects := rfl
@[simp] theorem State.goOn_unsettled (s : State) (pc : Word) : (s.goOn pc).unsettled = s.unsettled := rfl
@[simp] theorem State.goOn_clusters (s : State) (pc : Word) : (s.goOn pc).clusters = s.clusters := rfl
@[simp] theorem State.goOn_stairs (s : State) (pc : Word) : (s.goOn pc).stairs = s.stairs := rfl
@[simp] theorem State.goOn_flight (s : State) (pc : Word) : (s.goOn pc).flight = s.flight := rfl
@[simp] theorem State.goOn_inbound (s : State) (pc : Word) : (s.goOn pc).inbound = s.inbound := rfl
@[simp] theorem State.goOn_net (s : State) (pc : Word) : (s.goOn pc).net = s.net := rfl
@[simp] theorem State.goOn_mesh (s : State) (pc : Word) : (s.goOn pc).mesh = s.mesh := rfl
@[simp] theorem State.goOn_nodes (s : State) (pc : Word) : (s.goOn pc).nodes = s.nodes := rfl
@[simp] theorem State.goOn_finals (s : State) (pc : Word) : (s.goOn pc).finals = s.finals := rfl
@[simp] theorem State.goOn_parts (s : State) (pc : Word) : (s.goOn pc).parts = s.parts := rfl
@[simp] theorem State.goOn_ifaces (s : State) (pc : Word) : (s.goOn pc).ifaces = s.ifaces := rfl
@[simp] theorem State.goOn_peers (s : State) (pc : Word) : (s.goOn pc).peers = s.peers := rfl
@[simp] theorem State.goOn_shoots (s : State) (pc : Word) : (s.goOn pc).shoots = s.shoots := rfl
@[simp] theorem State.goOn_stalled (s : State) (pc : Word) : (s.goOn pc).stalled = s.stalled := rfl
@[simp] theorem State.goOn_clock (s : State) (pc : Word) : (s.goOn pc).clock = s.clock := rfl
@[simp] theorem State.goOn_hostLines (s : State) (pc : Word) : (s.goOn pc).hostLines = s.hostLines := rfl
@[simp] theorem State.goOn_hostCopies (s : State) (pc : Word) : (s.goOn pc).hostCopies = s.hostCopies := rfl
@[simp] theorem State.goOn_ports (s : State) (pc : Word) : (s.goOn pc).ports = s.ports := rfl
@[simp] theorem State.goOn_board (s : State) (pc : Word) : (s.goOn pc).board = s.board := rfl
@[simp] theorem State.goOn_images (s : State) (pc : Word) : (s.goOn pc).images = s.images := rfl

/-! ## `begin` -/

@[simp] theorem State.begin_cur (s : State) (f : Fields) : (s.begin f).cur = s.cur := rfl
@[simp] theorem State.begin_agenda (s : State) (f : Fields) : (s.begin f).agenda = s.agenda := rfl
@[simp] theorem State.begin_fresh (s : State) (f : Fields) : (s.begin f).fresh = s.fresh := rfl
@[simp] theorem State.begin_mem (s : State) (f : Fields) : (s.begin f).mem = s.mem := rfl
@[simp] theorem State.begin_poison (s : State) (f : Fields) : (s.begin f).poison = s.poison := rfl
@[simp] theorem State.begin_soft (s : State) (f : Fields) : (s.begin f).soft = s.soft := rfl
@[simp] theorem State.begin_objects (s : State) (f : Fields) : (s.begin f).objects = s.objects := rfl
@[simp] theorem State.begin_unsettled (s : State) (f : Fields) : (s.begin f).unsettled = s.unsettled := rfl
@[simp] theorem State.begin_clusters (s : State) (f : Fields) : (s.begin f).clusters = s.clusters := rfl
@[simp] theorem State.begin_stairs (s : State) (f : Fields) : (s.begin f).stairs = s.stairs := rfl
@[simp] theorem State.begin_flight (s : State) (f : Fields) : (s.begin f).flight = s.flight := rfl
@[simp] theorem State.begin_inbound (s : State) (f : Fields) : (s.begin f).inbound = s.inbound := rfl
@[simp] theorem State.begin_net (s : State) (f : Fields) : (s.begin f).net = s.net := rfl
@[simp] theorem State.begin_mesh (s : State) (f : Fields) : (s.begin f).mesh = s.mesh := rfl
@[simp] theorem State.begin_nodes (s : State) (f : Fields) : (s.begin f).nodes = s.nodes := rfl
@[simp] theorem State.begin_finals (s : State) (f : Fields) : (s.begin f).finals = s.finals := rfl
@[simp] theorem State.begin_parts (s : State) (f : Fields) : (s.begin f).parts = s.parts := rfl
@[simp] theorem State.begin_ifaces (s : State) (f : Fields) : (s.begin f).ifaces = s.ifaces := rfl
@[simp] theorem State.begin_peers (s : State) (f : Fields) : (s.begin f).peers = s.peers := rfl
@[simp] theorem State.begin_shoots (s : State) (f : Fields) : (s.begin f).shoots = s.shoots := rfl
@[simp] theorem State.begin_stalled (s : State) (f : Fields) : (s.begin f).stalled = s.stalled := rfl
@[simp] theorem State.begin_clock (s : State) (f : Fields) : (s.begin f).clock = s.clock := rfl
@[simp] theorem State.begin_hostLines (s : State) (f : Fields) : (s.begin f).hostLines = s.hostLines := rfl
@[simp] theorem State.begin_hostCopies (s : State) (f : Fields) : (s.begin f).hostCopies = s.hostCopies := rfl
@[simp] theorem State.begin_ports (s : State) (f : Fields) : (s.begin f).ports = s.ports := rfl
@[simp] theorem State.begin_board (s : State) (f : Fields) : (s.begin f).board = s.board := rfl
@[simp] theorem State.begin_images (s : State) (f : Fields) : (s.begin f).images = s.images := rfl

/-! ## `setCluster` -/

@[simp] theorem State.setCluster_cur (s : State) (i : Nat) (c : Cluster) : (s.setCluster i c).cur = s.cur := rfl
@[simp] theorem State.setCluster_agenda (s : State) (i : Nat) (c : Cluster) :
    (s.setCluster i c).agenda = s.agenda := rfl
@[simp] theorem State.setCluster_free (s : State) (i : Nat) (c : Cluster) : (s.setCluster i c).free = s.free := rfl
@[simp] theorem State.setCluster_fresh (s : State) (i : Nat) (c : Cluster) : (s.setCluster i c).fresh = s.fresh := rfl
@[simp] theorem State.setCluster_mem (s : State) (i : Nat) (c : Cluster) : (s.setCluster i c).mem = s.mem := rfl
@[simp] theorem State.setCluster_poison (s : State) (i : Nat) (c : Cluster) :
    (s.setCluster i c).poison = s.poison := rfl
@[simp] theorem State.setCluster_soft (s : State) (i : Nat) (c : Cluster) : (s.setCluster i c).soft = s.soft := rfl
@[simp] theorem State.setCluster_objects (s : State) (i : Nat) (c : Cluster) :
    (s.setCluster i c).objects = s.objects := rfl
@[simp] theorem State.setCluster_unsettled (s : State) (i : Nat) (c : Cluster) :
    (s.setCluster i c).unsettled = s.unsettled := rfl
@[simp] theorem State.setCluster_cores (s : State) (i : Nat) (c : Cluster) : (s.setCluster i c).cores = s.cores := rfl
@[simp] theorem State.setCluster_stairs (s : State) (i : Nat) (c : Cluster) :
    (s.setCluster i c).stairs = s.stairs := rfl
@[simp] theorem State.setCluster_flight (s : State) (i : Nat) (c : Cluster) :
    (s.setCluster i c).flight = s.flight := rfl
@[simp] theorem State.setCluster_inbound (s : State) (i : Nat) (c : Cluster) :
    (s.setCluster i c).inbound = s.inbound := rfl
@[simp] theorem State.setCluster_net (s : State) (i : Nat) (c : Cluster) : (s.setCluster i c).net = s.net := rfl
@[simp] theorem State.setCluster_mesh (s : State) (i : Nat) (c : Cluster) : (s.setCluster i c).mesh = s.mesh := rfl
@[simp] theorem State.setCluster_nodes (s : State) (i : Nat) (c : Cluster) : (s.setCluster i c).nodes = s.nodes := rfl
@[simp] theorem State.setCluster_finals (s : State) (i : Nat) (c : Cluster) :
    (s.setCluster i c).finals = s.finals := rfl
@[simp] theorem State.setCluster_parts (s : State) (i : Nat) (c : Cluster) : (s.setCluster i c).parts = s.parts := rfl
@[simp] theorem State.setCluster_ifaces (s : State) (i : Nat) (c : Cluster) :
    (s.setCluster i c).ifaces = s.ifaces := rfl
@[simp] theorem State.setCluster_peers (s : State) (i : Nat) (c : Cluster) : (s.setCluster i c).peers = s.peers := rfl
@[simp] theorem State.setCluster_shoots (s : State) (i : Nat) (c : Cluster) :
    (s.setCluster i c).shoots = s.shoots := rfl
@[simp] theorem State.setCluster_stalled (s : State) (i : Nat) (c : Cluster) :
    (s.setCluster i c).stalled = s.stalled := rfl
@[simp] theorem State.setCluster_clock (s : State) (i : Nat) (c : Cluster) : (s.setCluster i c).clock = s.clock := rfl
@[simp] theorem State.setCluster_hostLines (s : State) (i : Nat) (c : Cluster) :
    (s.setCluster i c).hostLines = s.hostLines := rfl
@[simp] theorem State.setCluster_hostCopies (s : State) (i : Nat) (c : Cluster) :
    (s.setCluster i c).hostCopies = s.hostCopies := rfl
@[simp] theorem State.setCluster_ports (s : State) (i : Nat) (c : Cluster) : (s.setCluster i c).ports = s.ports := rfl
@[simp] theorem State.setCluster_board (s : State) (i : Nat) (c : Cluster) : (s.setCluster i c).board = s.board := rfl
@[simp] theorem State.setCluster_images (s : State) (i : Nat) (c : Cluster) :
    (s.setCluster i c).images = s.images := rfl

/-! ## `setPart` -/

@[simp] theorem State.setPart_cur (s : State) (p : Nat) (x : Partition) : (s.setPart p x).cur = s.cur := rfl
@[simp] theorem State.setPart_agenda (s : State) (p : Nat) (x : Partition) : (s.setPart p x).agenda = s.agenda := rfl
@[simp] theorem State.setPart_free (s : State) (p : Nat) (x : Partition) : (s.setPart p x).free = s.free := rfl
@[simp] theorem State.setPart_fresh (s : State) (p : Nat) (x : Partition) : (s.setPart p x).fresh = s.fresh := rfl
@[simp] theorem State.setPart_mem (s : State) (p : Nat) (x : Partition) : (s.setPart p x).mem = s.mem := rfl
@[simp] theorem State.setPart_poison (s : State) (p : Nat) (x : Partition) : (s.setPart p x).poison = s.poison := rfl
@[simp] theorem State.setPart_soft (s : State) (p : Nat) (x : Partition) : (s.setPart p x).soft = s.soft := rfl
@[simp] theorem State.setPart_objects (s : State) (p : Nat) (x : Partition) :
    (s.setPart p x).objects = s.objects := rfl
@[simp] theorem State.setPart_unsettled (s : State) (p : Nat) (x : Partition) :
    (s.setPart p x).unsettled = s.unsettled := rfl
@[simp] theorem State.setPart_cores (s : State) (p : Nat) (x : Partition) : (s.setPart p x).cores = s.cores := rfl
@[simp] theorem State.setPart_clusters (s : State) (p : Nat) (x : Partition) :
    (s.setPart p x).clusters = s.clusters := rfl
@[simp] theorem State.setPart_stairs (s : State) (p : Nat) (x : Partition) : (s.setPart p x).stairs = s.stairs := rfl
@[simp] theorem State.setPart_flight (s : State) (p : Nat) (x : Partition) : (s.setPart p x).flight = s.flight := rfl
@[simp] theorem State.setPart_inbound (s : State) (p : Nat) (x : Partition) :
    (s.setPart p x).inbound = s.inbound := rfl
@[simp] theorem State.setPart_net (s : State) (p : Nat) (x : Partition) : (s.setPart p x).net = s.net := rfl
@[simp] theorem State.setPart_mesh (s : State) (p : Nat) (x : Partition) : (s.setPart p x).mesh = s.mesh := rfl
@[simp] theorem State.setPart_nodes (s : State) (p : Nat) (x : Partition) : (s.setPart p x).nodes = s.nodes := rfl
@[simp] theorem State.setPart_finals (s : State) (p : Nat) (x : Partition) : (s.setPart p x).finals = s.finals := rfl
@[simp] theorem State.setPart_ifaces (s : State) (p : Nat) (x : Partition) : (s.setPart p x).ifaces = s.ifaces := rfl
@[simp] theorem State.setPart_peers (s : State) (p : Nat) (x : Partition) : (s.setPart p x).peers = s.peers := rfl
@[simp] theorem State.setPart_shoots (s : State) (p : Nat) (x : Partition) : (s.setPart p x).shoots = s.shoots := rfl
@[simp] theorem State.setPart_stalled (s : State) (p : Nat) (x : Partition) :
    (s.setPart p x).stalled = s.stalled := rfl
@[simp] theorem State.setPart_clock (s : State) (p : Nat) (x : Partition) : (s.setPart p x).clock = s.clock := rfl
@[simp] theorem State.setPart_hostLines (s : State) (p : Nat) (x : Partition) :
    (s.setPart p x).hostLines = s.hostLines := rfl
@[simp] theorem State.setPart_hostCopies (s : State) (p : Nat) (x : Partition) :
    (s.setPart p x).hostCopies = s.hostCopies := rfl
@[simp] theorem State.setPart_ports (s : State) (p : Nat) (x : Partition) : (s.setPart p x).ports = s.ports := rfl
@[simp] theorem State.setPart_board (s : State) (p : Nat) (x : Partition) : (s.setPart p x).board = s.board := rfl
@[simp] theorem State.setPart_images (s : State) (p : Nat) (x : Partition) : (s.setPart p x).images = s.images := rfl

/-! ## `setIface` -/

@[simp] theorem State.setIface_cur (s : State) (i : Nat) (x : Iface) : (s.setIface i x).cur = s.cur := rfl
@[simp] theorem State.setIface_agenda (s : State) (i : Nat) (x : Iface) : (s.setIface i x).agenda = s.agenda := rfl
@[simp] theorem State.setIface_free (s : State) (i : Nat) (x : Iface) : (s.setIface i x).free = s.free := rfl
@[simp] theorem State.setIface_fresh (s : State) (i : Nat) (x : Iface) : (s.setIface i x).fresh = s.fresh := rfl
@[simp] theorem State.setIface_mem (s : State) (i : Nat) (x : Iface) : (s.setIface i x).mem = s.mem := rfl
@[simp] theorem State.setIface_poison (s : State) (i : Nat) (x : Iface) : (s.setIface i x).poison = s.poison := rfl
@[simp] theorem State.setIface_soft (s : State) (i : Nat) (x : Iface) : (s.setIface i x).soft = s.soft := rfl
@[simp] theorem State.setIface_objects (s : State) (i : Nat) (x : Iface) : (s.setIface i x).objects = s.objects := rfl
@[simp] theorem State.setIface_unsettled (s : State) (i : Nat) (x : Iface) :
    (s.setIface i x).unsettled = s.unsettled := rfl
@[simp] theorem State.setIface_cores (s : State) (i : Nat) (x : Iface) : (s.setIface i x).cores = s.cores := rfl
@[simp] theorem State.setIface_clusters (s : State) (i : Nat) (x : Iface) :
    (s.setIface i x).clusters = s.clusters := rfl
@[simp] theorem State.setIface_stairs (s : State) (i : Nat) (x : Iface) : (s.setIface i x).stairs = s.stairs := rfl
@[simp] theorem State.setIface_flight (s : State) (i : Nat) (x : Iface) : (s.setIface i x).flight = s.flight := rfl
@[simp] theorem State.setIface_inbound (s : State) (i : Nat) (x : Iface) : (s.setIface i x).inbound = s.inbound := rfl
@[simp] theorem State.setIface_net (s : State) (i : Nat) (x : Iface) : (s.setIface i x).net = s.net := rfl
@[simp] theorem State.setIface_mesh (s : State) (i : Nat) (x : Iface) : (s.setIface i x).mesh = s.mesh := rfl
@[simp] theorem State.setIface_nodes (s : State) (i : Nat) (x : Iface) : (s.setIface i x).nodes = s.nodes := rfl
@[simp] theorem State.setIface_finals (s : State) (i : Nat) (x : Iface) : (s.setIface i x).finals = s.finals := rfl
@[simp] theorem State.setIface_parts (s : State) (i : Nat) (x : Iface) : (s.setIface i x).parts = s.parts := rfl
@[simp] theorem State.setIface_peers (s : State) (i : Nat) (x : Iface) : (s.setIface i x).peers = s.peers := rfl
@[simp] theorem State.setIface_shoots (s : State) (i : Nat) (x : Iface) : (s.setIface i x).shoots = s.shoots := rfl
@[simp] theorem State.setIface_stalled (s : State) (i : Nat) (x : Iface) : (s.setIface i x).stalled = s.stalled := rfl
@[simp] theorem State.setIface_clock (s : State) (i : Nat) (x : Iface) : (s.setIface i x).clock = s.clock := rfl
@[simp] theorem State.setIface_hostLines (s : State) (i : Nat) (x : Iface) :
    (s.setIface i x).hostLines = s.hostLines := rfl
@[simp] theorem State.setIface_hostCopies (s : State) (i : Nat) (x : Iface) :
    (s.setIface i x).hostCopies = s.hostCopies := rfl
@[simp] theorem State.setIface_ports (s : State) (i : Nat) (x : Iface) : (s.setIface i x).ports = s.ports := rfl
@[simp] theorem State.setIface_board (s : State) (i : Nat) (x : Iface) : (s.setIface i x).board = s.board := rfl
@[simp] theorem State.setIface_images (s : State) (i : Nat) (x : Iface) : (s.setIface i x).images = s.images := rfl

/-! ## `onStair` -/

@[simp] theorem State.onStair_cur (s : State) (n : Nat) (f : Stair → Stair) : (s.onStair n f).cur = s.cur := rfl
@[simp] theorem State.onStair_agenda (s : State) (n : Nat) (f : Stair → Stair) :
    (s.onStair n f).agenda = s.agenda := rfl
@[simp] theorem State.onStair_free (s : State) (n : Nat) (f : Stair → Stair) : (s.onStair n f).free = s.free := rfl
@[simp] theorem State.onStair_fresh (s : State) (n : Nat) (f : Stair → Stair) : (s.onStair n f).fresh = s.fresh := rfl
@[simp] theorem State.onStair_mem (s : State) (n : Nat) (f : Stair → Stair) : (s.onStair n f).mem = s.mem := rfl
@[simp] theorem State.onStair_poison (s : State) (n : Nat) (f : Stair → Stair) :
    (s.onStair n f).poison = s.poison := rfl
@[simp] theorem State.onStair_soft (s : State) (n : Nat) (f : Stair → Stair) : (s.onStair n f).soft = s.soft := rfl
@[simp] theorem State.onStair_objects (s : State) (n : Nat) (f : Stair → Stair) :
    (s.onStair n f).objects = s.objects := rfl
@[simp] theorem State.onStair_unsettled (s : State) (n : Nat) (f : Stair → Stair) :
    (s.onStair n f).unsettled = s.unsettled := rfl
@[simp] theorem State.onStair_cores (s : State) (n : Nat) (f : Stair → Stair) : (s.onStair n f).cores = s.cores := rfl
@[simp] theorem State.onStair_clusters (s : State) (n : Nat) (f : Stair → Stair) :
    (s.onStair n f).clusters = s.clusters := rfl
@[simp] theorem State.onStair_flight (s : State) (n : Nat) (f : Stair → Stair) :
    (s.onStair n f).flight = s.flight := rfl
@[simp] theorem State.onStair_inbound (s : State) (n : Nat) (f : Stair → Stair) :
    (s.onStair n f).inbound = s.inbound := rfl
@[simp] theorem State.onStair_net (s : State) (n : Nat) (f : Stair → Stair) : (s.onStair n f).net = s.net := rfl
@[simp] theorem State.onStair_mesh (s : State) (n : Nat) (f : Stair → Stair) : (s.onStair n f).mesh = s.mesh := rfl
@[simp] theorem State.onStair_nodes (s : State) (n : Nat) (f : Stair → Stair) : (s.onStair n f).nodes = s.nodes := rfl
@[simp] theorem State.onStair_finals (s : State) (n : Nat) (f : Stair → Stair) :
    (s.onStair n f).finals = s.finals := rfl
@[simp] theorem State.onStair_parts (s : State) (n : Nat) (f : Stair → Stair) : (s.onStair n f).parts = s.parts := rfl
@[simp] theorem State.onStair_ifaces (s : State) (n : Nat) (f : Stair → Stair) :
    (s.onStair n f).ifaces = s.ifaces := rfl
@[simp] theorem State.onStair_peers (s : State) (n : Nat) (f : Stair → Stair) : (s.onStair n f).peers = s.peers := rfl
@[simp] theorem State.onStair_shoots (s : State) (n : Nat) (f : Stair → Stair) :
    (s.onStair n f).shoots = s.shoots := rfl
@[simp] theorem State.onStair_stalled (s : State) (n : Nat) (f : Stair → Stair) :
    (s.onStair n f).stalled = s.stalled := rfl
@[simp] theorem State.onStair_clock (s : State) (n : Nat) (f : Stair → Stair) : (s.onStair n f).clock = s.clock := rfl
@[simp] theorem State.onStair_hostLines (s : State) (n : Nat) (f : Stair → Stair) :
    (s.onStair n f).hostLines = s.hostLines := rfl
@[simp] theorem State.onStair_hostCopies (s : State) (n : Nat) (f : Stair → Stair) :
    (s.onStair n f).hostCopies = s.hostCopies := rfl
@[simp] theorem State.onStair_ports (s : State) (n : Nat) (f : Stair → Stair) : (s.onStair n f).ports = s.ports := rfl
@[simp] theorem State.onStair_board (s : State) (n : Nat) (f : Stair → Stair) : (s.onStair n f).board = s.board := rfl
@[simp] theorem State.onStair_images (s : State) (n : Nat) (f : Stair → Stair) :
    (s.onStair n f).images = s.images := rfl

/-! ## `bump` -/

@[simp] theorem State.bump_cur (s : State) : (s.bump).cur = s.cur := rfl
@[simp] theorem State.bump_agenda (s : State) : (s.bump).agenda = s.agenda := rfl
@[simp] theorem State.bump_free (s : State) : (s.bump).free = s.free := rfl
@[simp] theorem State.bump_mem (s : State) : (s.bump).mem = s.mem := rfl
@[simp] theorem State.bump_poison (s : State) : (s.bump).poison = s.poison := rfl
@[simp] theorem State.bump_soft (s : State) : (s.bump).soft = s.soft := rfl
@[simp] theorem State.bump_objects (s : State) : (s.bump).objects = s.objects := rfl
@[simp] theorem State.bump_unsettled (s : State) : (s.bump).unsettled = s.unsettled := rfl
@[simp] theorem State.bump_cores (s : State) : (s.bump).cores = s.cores := rfl
@[simp] theorem State.bump_clusters (s : State) : (s.bump).clusters = s.clusters := rfl
@[simp] theorem State.bump_stairs (s : State) : (s.bump).stairs = s.stairs := rfl
@[simp] theorem State.bump_flight (s : State) : (s.bump).flight = s.flight := rfl
@[simp] theorem State.bump_inbound (s : State) : (s.bump).inbound = s.inbound := rfl
@[simp] theorem State.bump_net (s : State) : (s.bump).net = s.net := rfl
@[simp] theorem State.bump_mesh (s : State) : (s.bump).mesh = s.mesh := rfl
@[simp] theorem State.bump_nodes (s : State) : (s.bump).nodes = s.nodes := rfl
@[simp] theorem State.bump_finals (s : State) : (s.bump).finals = s.finals := rfl
@[simp] theorem State.bump_parts (s : State) : (s.bump).parts = s.parts := rfl
@[simp] theorem State.bump_ifaces (s : State) : (s.bump).ifaces = s.ifaces := rfl
@[simp] theorem State.bump_peers (s : State) : (s.bump).peers = s.peers := rfl
@[simp] theorem State.bump_shoots (s : State) : (s.bump).shoots = s.shoots := rfl
@[simp] theorem State.bump_stalled (s : State) : (s.bump).stalled = s.stalled := rfl
@[simp] theorem State.bump_clock (s : State) : (s.bump).clock = s.clock := rfl
@[simp] theorem State.bump_hostLines (s : State) : (s.bump).hostLines = s.hostLines := rfl
@[simp] theorem State.bump_hostCopies (s : State) : (s.bump).hostCopies = s.hostCopies := rfl
@[simp] theorem State.bump_ports (s : State) : (s.bump).ports = s.ports := rfl
@[simp] theorem State.bump_board (s : State) : (s.bump).board = s.board := rfl
@[simp] theorem State.bump_images (s : State) : (s.bump).images = s.images := rfl

/-! ## `countErrors` -/

@[simp] theorem State.countErrors_cur (s : State) (owner n : Nat) : (s.countErrors owner n).cur = s.cur := rfl
@[simp] theorem State.countErrors_agenda (s : State) (owner n : Nat) :
    (s.countErrors owner n).agenda = s.agenda := rfl
@[simp] theorem State.countErrors_free (s : State) (owner n : Nat) : (s.countErrors owner n).free = s.free := rfl
@[simp] theorem State.countErrors_fresh (s : State) (owner n : Nat) : (s.countErrors owner n).fresh = s.fresh := rfl
@[simp] theorem State.countErrors_mem (s : State) (owner n : Nat) : (s.countErrors owner n).mem = s.mem := rfl
@[simp] theorem State.countErrors_poison (s : State) (owner n : Nat) :
    (s.countErrors owner n).poison = s.poison := rfl
@[simp] theorem State.countErrors_soft (s : State) (owner n : Nat) : (s.countErrors owner n).soft = s.soft := rfl
@[simp] theorem State.countErrors_objects (s : State) (owner n : Nat) :
    (s.countErrors owner n).objects = s.objects := rfl
@[simp] theorem State.countErrors_unsettled (s : State) (owner n : Nat) :
    (s.countErrors owner n).unsettled = s.unsettled := rfl
@[simp] theorem State.countErrors_cores (s : State) (owner n : Nat) : (s.countErrors owner n).cores = s.cores := rfl
@[simp] theorem State.countErrors_clusters (s : State) (owner n : Nat) :
    (s.countErrors owner n).clusters = s.clusters := rfl
@[simp] theorem State.countErrors_stairs (s : State) (owner n : Nat) :
    (s.countErrors owner n).stairs = s.stairs := rfl
@[simp] theorem State.countErrors_flight (s : State) (owner n : Nat) :
    (s.countErrors owner n).flight = s.flight := rfl
@[simp] theorem State.countErrors_inbound (s : State) (owner n : Nat) :
    (s.countErrors owner n).inbound = s.inbound := rfl
@[simp] theorem State.countErrors_net (s : State) (owner n : Nat) : (s.countErrors owner n).net = s.net := rfl
@[simp] theorem State.countErrors_mesh (s : State) (owner n : Nat) : (s.countErrors owner n).mesh = s.mesh := rfl
@[simp] theorem State.countErrors_nodes (s : State) (owner n : Nat) : (s.countErrors owner n).nodes = s.nodes := rfl
@[simp] theorem State.countErrors_finals (s : State) (owner n : Nat) :
    (s.countErrors owner n).finals = s.finals := rfl
@[simp] theorem State.countErrors_parts (s : State) (owner n : Nat) : (s.countErrors owner n).parts = s.parts := rfl
@[simp] theorem State.countErrors_ifaces (s : State) (owner n : Nat) :
    (s.countErrors owner n).ifaces = s.ifaces := rfl
@[simp] theorem State.countErrors_peers (s : State) (owner n : Nat) : (s.countErrors owner n).peers = s.peers := rfl
@[simp] theorem State.countErrors_shoots (s : State) (owner n : Nat) :
    (s.countErrors owner n).shoots = s.shoots := rfl
@[simp] theorem State.countErrors_stalled (s : State) (owner n : Nat) :
    (s.countErrors owner n).stalled = s.stalled := rfl
@[simp] theorem State.countErrors_clock (s : State) (owner n : Nat) : (s.countErrors owner n).clock = s.clock := rfl
@[simp] theorem State.countErrors_hostLines (s : State) (owner n : Nat) :
    (s.countErrors owner n).hostLines = s.hostLines := rfl
@[simp] theorem State.countErrors_hostCopies (s : State) (owner n : Nat) :
    (s.countErrors owner n).hostCopies = s.hostCopies := rfl
@[simp] theorem State.countErrors_ports (s : State) (owner n : Nat) : (s.countErrors owner n).ports = s.ports := rfl
@[simp] theorem State.countErrors_images (s : State) (owner n : Nat) :
    (s.countErrors owner n).images = s.images := rfl

/-! ## `post` -/

@[simp] theorem State.post_cur (s : State) (code pnum : Nat) (ws : List Word) :
    (s.post code pnum ws).cur = s.cur := rfl
@[simp] theorem State.post_agenda (s : State) (code pnum : Nat) (ws : List Word) :
    (s.post code pnum ws).agenda = s.agenda := rfl
@[simp] theorem State.post_free (s : State) (code pnum : Nat) (ws : List Word) :
    (s.post code pnum ws).free = s.free := rfl
@[simp] theorem State.post_fresh (s : State) (code pnum : Nat) (ws : List Word) :
    (s.post code pnum ws).fresh = s.fresh := rfl
@[simp] theorem State.post_mem (s : State) (code pnum : Nat) (ws : List Word) :
    (s.post code pnum ws).mem = s.mem := rfl
@[simp] theorem State.post_poison (s : State) (code pnum : Nat) (ws : List Word) :
    (s.post code pnum ws).poison = s.poison := rfl
@[simp] theorem State.post_soft (s : State) (code pnum : Nat) (ws : List Word) :
    (s.post code pnum ws).soft = s.soft := rfl
@[simp] theorem State.post_objects (s : State) (code pnum : Nat) (ws : List Word) :
    (s.post code pnum ws).objects = s.objects := rfl
@[simp] theorem State.post_unsettled (s : State) (code pnum : Nat) (ws : List Word) :
    (s.post code pnum ws).unsettled = s.unsettled := rfl
@[simp] theorem State.post_cores (s : State) (code pnum : Nat) (ws : List Word) :
    (s.post code pnum ws).cores = s.cores := rfl
@[simp] theorem State.post_clusters (s : State) (code pnum : Nat) (ws : List Word) :
    (s.post code pnum ws).clusters = s.clusters := rfl
@[simp] theorem State.post_stairs (s : State) (code pnum : Nat) (ws : List Word) :
    (s.post code pnum ws).stairs = s.stairs := rfl
@[simp] theorem State.post_flight (s : State) (code pnum : Nat) (ws : List Word) :
    (s.post code pnum ws).flight = s.flight := rfl
@[simp] theorem State.post_inbound (s : State) (code pnum : Nat) (ws : List Word) :
    (s.post code pnum ws).inbound = s.inbound := rfl
@[simp] theorem State.post_net (s : State) (code pnum : Nat) (ws : List Word) :
    (s.post code pnum ws).net = s.net := rfl
@[simp] theorem State.post_mesh (s : State) (code pnum : Nat) (ws : List Word) :
    (s.post code pnum ws).mesh = s.mesh := rfl
@[simp] theorem State.post_nodes (s : State) (code pnum : Nat) (ws : List Word) :
    (s.post code pnum ws).nodes = s.nodes := rfl
@[simp] theorem State.post_finals (s : State) (code pnum : Nat) (ws : List Word) :
    (s.post code pnum ws).finals = s.finals := rfl
@[simp] theorem State.post_parts (s : State) (code pnum : Nat) (ws : List Word) :
    (s.post code pnum ws).parts = s.parts := rfl
@[simp] theorem State.post_ifaces (s : State) (code pnum : Nat) (ws : List Word) :
    (s.post code pnum ws).ifaces = s.ifaces := rfl
@[simp] theorem State.post_peers (s : State) (code pnum : Nat) (ws : List Word) :
    (s.post code pnum ws).peers = s.peers := rfl
@[simp] theorem State.post_shoots (s : State) (code pnum : Nat) (ws : List Word) :
    (s.post code pnum ws).shoots = s.shoots := rfl
@[simp] theorem State.post_stalled (s : State) (code pnum : Nat) (ws : List Word) :
    (s.post code pnum ws).stalled = s.stalled := rfl
@[simp] theorem State.post_clock (s : State) (code pnum : Nat) (ws : List Word) :
    (s.post code pnum ws).clock = s.clock := rfl
@[simp] theorem State.post_hostLines (s : State) (code pnum : Nat) (ws : List Word) :
    (s.post code pnum ws).hostLines = s.hostLines := rfl
@[simp] theorem State.post_hostCopies (s : State) (code pnum : Nat) (ws : List Word) :
    (s.post code pnum ws).hostCopies = s.hostCopies := rfl
@[simp] theorem State.post_ports (s : State) (code pnum : Nat) (ws : List Word) :
    (s.post code pnum ws).ports = s.ports := rfl
@[simp] theorem State.post_images (s : State) (code pnum : Nat) (ws : List Word) :
    (s.post code pnum ws).images = s.images := rfl

/-! ## `storeBytes` -/

@[simp] theorem storeBytes_cur (s : State) (k : Nat) (bs : List Byte) : (storeBytes s k bs).cur = s.cur := rfl
@[simp] theorem storeBytes_agenda (s : State) (k : Nat) (bs : List Byte) :
    (storeBytes s k bs).agenda = s.agenda := rfl
@[simp] theorem storeBytes_free (s : State) (k : Nat) (bs : List Byte) : (storeBytes s k bs).free = s.free := rfl
@[simp] theorem storeBytes_fresh (s : State) (k : Nat) (bs : List Byte) : (storeBytes s k bs).fresh = s.fresh := rfl
@[simp] theorem storeBytes_objects (s : State) (k : Nat) (bs : List Byte) :
    (storeBytes s k bs).objects = s.objects := rfl
@[simp] theorem storeBytes_unsettled (s : State) (k : Nat) (bs : List Byte) :
    (storeBytes s k bs).unsettled = s.unsettled := rfl
@[simp] theorem storeBytes_cores (s : State) (k : Nat) (bs : List Byte) : (storeBytes s k bs).cores = s.cores := rfl
@[simp] theorem storeBytes_clusters (s : State) (k : Nat) (bs : List Byte) :
    (storeBytes s k bs).clusters = s.clusters := rfl
@[simp] theorem storeBytes_stairs (s : State) (k : Nat) (bs : List Byte) :
    (storeBytes s k bs).stairs = s.stairs := rfl
@[simp] theorem storeBytes_flight (s : State) (k : Nat) (bs : List Byte) :
    (storeBytes s k bs).flight = s.flight := rfl
@[simp] theorem storeBytes_inbound (s : State) (k : Nat) (bs : List Byte) :
    (storeBytes s k bs).inbound = s.inbound := rfl
@[simp] theorem storeBytes_net (s : State) (k : Nat) (bs : List Byte) : (storeBytes s k bs).net = s.net := rfl
@[simp] theorem storeBytes_mesh (s : State) (k : Nat) (bs : List Byte) : (storeBytes s k bs).mesh = s.mesh := rfl
@[simp] theorem storeBytes_nodes (s : State) (k : Nat) (bs : List Byte) : (storeBytes s k bs).nodes = s.nodes := rfl
@[simp] theorem storeBytes_finals (s : State) (k : Nat) (bs : List Byte) :
    (storeBytes s k bs).finals = s.finals := rfl
@[simp] theorem storeBytes_parts (s : State) (k : Nat) (bs : List Byte) : (storeBytes s k bs).parts = s.parts := rfl
@[simp] theorem storeBytes_ifaces (s : State) (k : Nat) (bs : List Byte) :
    (storeBytes s k bs).ifaces = s.ifaces := rfl
@[simp] theorem storeBytes_peers (s : State) (k : Nat) (bs : List Byte) : (storeBytes s k bs).peers = s.peers := rfl
@[simp] theorem storeBytes_shoots (s : State) (k : Nat) (bs : List Byte) :
    (storeBytes s k bs).shoots = s.shoots := rfl
@[simp] theorem storeBytes_stalled (s : State) (k : Nat) (bs : List Byte) :
    (storeBytes s k bs).stalled = s.stalled := rfl
@[simp] theorem storeBytes_clock (s : State) (k : Nat) (bs : List Byte) : (storeBytes s k bs).clock = s.clock := rfl
@[simp] theorem storeBytes_hostLines (s : State) (k : Nat) (bs : List Byte) :
    (storeBytes s k bs).hostLines = s.hostLines := rfl
@[simp] theorem storeBytes_hostCopies (s : State) (k : Nat) (bs : List Byte) :
    (storeBytes s k bs).hostCopies = s.hostCopies := rfl
@[simp] theorem storeBytes_ports (s : State) (k : Nat) (bs : List Byte) : (storeBytes s k bs).ports = s.ports := rfl
@[simp] theorem storeBytes_board (s : State) (k : Nat) (bs : List Byte) : (storeBytes s k bs).board = s.board := rfl
@[simp] theorem storeBytes_images (s : State) (k : Nat) (bs : List Byte) :
    (storeBytes s k bs).images = s.images := rfl

/-! ## `clearRange` -/

@[simp] theorem State.clearRange_cur (s : State) (k n : Nat) : (s.clearRange k n).cur = s.cur := rfl
@[simp] theorem State.clearRange_agenda (s : State) (k n : Nat) : (s.clearRange k n).agenda = s.agenda := rfl
@[simp] theorem State.clearRange_free (s : State) (k n : Nat) : (s.clearRange k n).free = s.free := rfl
@[simp] theorem State.clearRange_fresh (s : State) (k n : Nat) : (s.clearRange k n).fresh = s.fresh := rfl
@[simp] theorem State.clearRange_unsettled (s : State) (k n : Nat) : (s.clearRange k n).unsettled = s.unsettled := rfl
@[simp] theorem State.clearRange_cores (s : State) (k n : Nat) : (s.clearRange k n).cores = s.cores := rfl
@[simp] theorem State.clearRange_clusters (s : State) (k n : Nat) : (s.clearRange k n).clusters = s.clusters := rfl
@[simp] theorem State.clearRange_stairs (s : State) (k n : Nat) : (s.clearRange k n).stairs = s.stairs := rfl
@[simp] theorem State.clearRange_flight (s : State) (k n : Nat) : (s.clearRange k n).flight = s.flight := rfl
@[simp] theorem State.clearRange_inbound (s : State) (k n : Nat) : (s.clearRange k n).inbound = s.inbound := rfl
@[simp] theorem State.clearRange_net (s : State) (k n : Nat) : (s.clearRange k n).net = s.net := rfl
@[simp] theorem State.clearRange_mesh (s : State) (k n : Nat) : (s.clearRange k n).mesh = s.mesh := rfl
@[simp] theorem State.clearRange_nodes (s : State) (k n : Nat) : (s.clearRange k n).nodes = s.nodes := rfl
@[simp] theorem State.clearRange_finals (s : State) (k n : Nat) : (s.clearRange k n).finals = s.finals := rfl
@[simp] theorem State.clearRange_parts (s : State) (k n : Nat) : (s.clearRange k n).parts = s.parts := rfl
@[simp] theorem State.clearRange_ifaces (s : State) (k n : Nat) : (s.clearRange k n).ifaces = s.ifaces := rfl
@[simp] theorem State.clearRange_peers (s : State) (k n : Nat) : (s.clearRange k n).peers = s.peers := rfl
@[simp] theorem State.clearRange_shoots (s : State) (k n : Nat) : (s.clearRange k n).shoots = s.shoots := rfl
@[simp] theorem State.clearRange_stalled (s : State) (k n : Nat) : (s.clearRange k n).stalled = s.stalled := rfl
@[simp] theorem State.clearRange_clock (s : State) (k n : Nat) : (s.clearRange k n).clock = s.clock := rfl
@[simp] theorem State.clearRange_hostLines (s : State) (k n : Nat) : (s.clearRange k n).hostLines = s.hostLines := rfl
@[simp] theorem State.clearRange_hostCopies (s : State) (k n : Nat) :
    (s.clearRange k n).hostCopies = s.hostCopies := rfl
@[simp] theorem State.clearRange_ports (s : State) (k n : Nat) : (s.clearRange k n).ports = s.ports := rfl
@[simp] theorem State.clearRange_board (s : State) (k n : Nat) : (s.clearRange k n).board = s.board := rfl
@[simp] theorem State.clearRange_images (s : State) (k n : Nat) : (s.clearRange k n).images = s.images := rfl

/-! ## `poisonRange` -/

@[simp] theorem State.poisonRange_cur (s : State) (k n : Nat) : (s.poisonRange k n).cur = s.cur := rfl
@[simp] theorem State.poisonRange_agenda (s : State) (k n : Nat) : (s.poisonRange k n).agenda = s.agenda := rfl
@[simp] theorem State.poisonRange_free (s : State) (k n : Nat) : (s.poisonRange k n).free = s.free := rfl
@[simp] theorem State.poisonRange_fresh (s : State) (k n : Nat) : (s.poisonRange k n).fresh = s.fresh := rfl
@[simp] theorem State.poisonRange_mem (s : State) (k n : Nat) : (s.poisonRange k n).mem = s.mem := rfl
@[simp] theorem State.poisonRange_soft (s : State) (k n : Nat) : (s.poisonRange k n).soft = s.soft := rfl
@[simp] theorem State.poisonRange_objects (s : State) (k n : Nat) : (s.poisonRange k n).objects = s.objects := rfl
@[simp] theorem State.poisonRange_unsettled (s : State) (k n : Nat) :
    (s.poisonRange k n).unsettled = s.unsettled := rfl
@[simp] theorem State.poisonRange_cores (s : State) (k n : Nat) : (s.poisonRange k n).cores = s.cores := rfl
@[simp] theorem State.poisonRange_clusters (s : State) (k n : Nat) : (s.poisonRange k n).clusters = s.clusters := rfl
@[simp] theorem State.poisonRange_stairs (s : State) (k n : Nat) : (s.poisonRange k n).stairs = s.stairs := rfl
@[simp] theorem State.poisonRange_flight (s : State) (k n : Nat) : (s.poisonRange k n).flight = s.flight := rfl
@[simp] theorem State.poisonRange_inbound (s : State) (k n : Nat) : (s.poisonRange k n).inbound = s.inbound := rfl
@[simp] theorem State.poisonRange_net (s : State) (k n : Nat) : (s.poisonRange k n).net = s.net := rfl
@[simp] theorem State.poisonRange_mesh (s : State) (k n : Nat) : (s.poisonRange k n).mesh = s.mesh := rfl
@[simp] theorem State.poisonRange_nodes (s : State) (k n : Nat) : (s.poisonRange k n).nodes = s.nodes := rfl
@[simp] theorem State.poisonRange_finals (s : State) (k n : Nat) : (s.poisonRange k n).finals = s.finals := rfl
@[simp] theorem State.poisonRange_parts (s : State) (k n : Nat) : (s.poisonRange k n).parts = s.parts := rfl
@[simp] theorem State.poisonRange_ifaces (s : State) (k n : Nat) : (s.poisonRange k n).ifaces = s.ifaces := rfl
@[simp] theorem State.poisonRange_peers (s : State) (k n : Nat) : (s.poisonRange k n).peers = s.peers := rfl
@[simp] theorem State.poisonRange_shoots (s : State) (k n : Nat) : (s.poisonRange k n).shoots = s.shoots := rfl
@[simp] theorem State.poisonRange_stalled (s : State) (k n : Nat) : (s.poisonRange k n).stalled = s.stalled := rfl
@[simp] theorem State.poisonRange_clock (s : State) (k n : Nat) : (s.poisonRange k n).clock = s.clock := rfl
@[simp] theorem State.poisonRange_hostLines (s : State) (k n : Nat) :
    (s.poisonRange k n).hostLines = s.hostLines := rfl
@[simp] theorem State.poisonRange_hostCopies (s : State) (k n : Nat) :
    (s.poisonRange k n).hostCopies = s.hostCopies := rfl
@[simp] theorem State.poisonRange_ports (s : State) (k n : Nat) : (s.poisonRange k n).ports = s.ports := rfl
@[simp] theorem State.poisonRange_board (s : State) (k n : Nat) : (s.poisonRange k n).board = s.board := rfl
@[simp] theorem State.poisonRange_images (s : State) (k n : Nat) : (s.poisonRange k n).images = s.images := rfl

/-! ## `storeTcm` -/

@[simp] theorem State.storeTcm_cur (s : State) (i off : Nat) (bs : List Byte) :
    (s.storeTcm i off bs).cur = s.cur := rfl
@[simp] theorem State.storeTcm_agenda (s : State) (i off : Nat) (bs : List Byte) :
    (s.storeTcm i off bs).agenda = s.agenda := rfl
@[simp] theorem State.storeTcm_free (s : State) (i off : Nat) (bs : List Byte) :
    (s.storeTcm i off bs).free = s.free := rfl
@[simp] theorem State.storeTcm_fresh (s : State) (i off : Nat) (bs : List Byte) :
    (s.storeTcm i off bs).fresh = s.fresh := rfl
@[simp] theorem State.storeTcm_objects (s : State) (i off : Nat) (bs : List Byte) :
    (s.storeTcm i off bs).objects = s.objects := rfl
@[simp] theorem State.storeTcm_unsettled (s : State) (i off : Nat) (bs : List Byte) :
    (s.storeTcm i off bs).unsettled = s.unsettled := rfl
@[simp] theorem State.storeTcm_clusters (s : State) (i off : Nat) (bs : List Byte) :
    (s.storeTcm i off bs).clusters = s.clusters := rfl
@[simp] theorem State.storeTcm_stairs (s : State) (i off : Nat) (bs : List Byte) :
    (s.storeTcm i off bs).stairs = s.stairs := rfl
@[simp] theorem State.storeTcm_flight (s : State) (i off : Nat) (bs : List Byte) :
    (s.storeTcm i off bs).flight = s.flight := rfl
@[simp] theorem State.storeTcm_inbound (s : State) (i off : Nat) (bs : List Byte) :
    (s.storeTcm i off bs).inbound = s.inbound := rfl
@[simp] theorem State.storeTcm_net (s : State) (i off : Nat) (bs : List Byte) :
    (s.storeTcm i off bs).net = s.net := rfl
@[simp] theorem State.storeTcm_mesh (s : State) (i off : Nat) (bs : List Byte) :
    (s.storeTcm i off bs).mesh = s.mesh := rfl
@[simp] theorem State.storeTcm_nodes (s : State) (i off : Nat) (bs : List Byte) :
    (s.storeTcm i off bs).nodes = s.nodes := rfl
@[simp] theorem State.storeTcm_finals (s : State) (i off : Nat) (bs : List Byte) :
    (s.storeTcm i off bs).finals = s.finals := rfl
@[simp] theorem State.storeTcm_parts (s : State) (i off : Nat) (bs : List Byte) :
    (s.storeTcm i off bs).parts = s.parts := rfl
@[simp] theorem State.storeTcm_ifaces (s : State) (i off : Nat) (bs : List Byte) :
    (s.storeTcm i off bs).ifaces = s.ifaces := rfl
@[simp] theorem State.storeTcm_peers (s : State) (i off : Nat) (bs : List Byte) :
    (s.storeTcm i off bs).peers = s.peers := rfl
@[simp] theorem State.storeTcm_shoots (s : State) (i off : Nat) (bs : List Byte) :
    (s.storeTcm i off bs).shoots = s.shoots := rfl
@[simp] theorem State.storeTcm_stalled (s : State) (i off : Nat) (bs : List Byte) :
    (s.storeTcm i off bs).stalled = s.stalled := rfl
@[simp] theorem State.storeTcm_clock (s : State) (i off : Nat) (bs : List Byte) :
    (s.storeTcm i off bs).clock = s.clock := rfl
@[simp] theorem State.storeTcm_hostLines (s : State) (i off : Nat) (bs : List Byte) :
    (s.storeTcm i off bs).hostLines = s.hostLines := rfl
@[simp] theorem State.storeTcm_hostCopies (s : State) (i off : Nat) (bs : List Byte) :
    (s.storeTcm i off bs).hostCopies = s.hostCopies := rfl
@[simp] theorem State.storeTcm_ports (s : State) (i off : Nat) (bs : List Byte) :
    (s.storeTcm i off bs).ports = s.ports := rfl
@[simp] theorem State.storeTcm_board (s : State) (i off : Nat) (bs : List Byte) :
    (s.storeTcm i off bs).board = s.board := rfl
@[simp] theorem State.storeTcm_images (s : State) (i off : Nat) (bs : List Byte) :
    (s.storeTcm i off bs).images = s.images := rfl

/-! ## Units read after they are set -/

@[simp] theorem State.core_setCore (s : State) (i : Nat) (c : Core) : (s.setCore i c).core i = c := by
  simp [State.core, State.setCore]

theorem State.core_setCore_ne (s : State) (i j : Nat) (c : Core) (h : j ≠ i) : (s.setCore i c).core j = s.core j :=
  tget_tset_ne _ _ _ _ _ h

@[simp] theorem State.core_onCore (s : State) (i : Nat) (f : Core → Core) : (s.onCore i f).core i = f (s.core i) :=
  s.core_setCore i _

theorem State.core_onCore_ne (s : State) (i j : Nat) (f : Core → Core) (h : j ≠ i) : (s.onCore i f).core j = s.core j :=
  s.core_setCore_ne i j _ h

@[simp] theorem State.setCore_setCore (s : State) (i : Nat) (c d : Core) : (s.setCore i c).setCore i d = s.setCore i d := by
  simp [State.setCore]

@[simp] theorem State.setCore_onCore (s : State) (i : Nat) (f : Core → Core) (d : Core) :
    (s.onCore i f).setCore i d = s.setCore i d := by simp [State.onCore]

@[simp] theorem State.onCore_setCore (s : State) (i : Nat) (c : Core) (f : Core → Core) :
    (s.setCore i c).onCore i f = s.setCore i (f c) := by simp [State.onCore]

@[simp] theorem State.onCore_onCore (s : State) (i : Nat) (f g : Core → Core) :
    (s.onCore i f).onCore i g = s.onCore i (g ∘ f) := by simp [State.onCore]

@[simp] theorem State.self_setSelf (s : State) (c : Core) : (s.setSelf c).self = c := s.core_setCore s.cur c

theorem State.self_setCore_ne (s : State) (i : Nat) (c : Core) (h : s.cur ≠ i) : (s.setCore i c).self = s.self :=
  s.core_setCore_ne i s.cur c h

@[simp] theorem State.setSelf_setSelf (s : State) (c d : Core) : (s.setSelf c).setSelf d = s.setSelf d :=
  s.setCore_setCore s.cur c d

@[simp] theorem State.self_goOn (s : State) (pc : Word) : (s.goOn pc).self = { s.self with pc := pc, wait := none } :=
  s.core_onCore s.cur _

theorem State.core_goOn_ne (s : State) (pc : Word) (j : Nat) (h : j ≠ s.cur) : (s.goOn pc).core j = s.core j :=
  s.core_onCore_ne s.cur j _ h

@[simp] theorem State.self_begin (s : State) (f : Fields) : (s.begin f).self = s.self.freeLast f :=
  State.core_onCore _ s.cur _

theorem State.core_begin_ne (s : State) (f : Fields) (j : Nat) (h : j ≠ s.cur) : (s.begin f).core j = s.core j :=
  State.core_onCore_ne _ s.cur j _ h

@[simp] theorem State.begin_free (s : State) (f : Fields) : (s.begin f).free = s.free + 1 := rfl

@[simp] theorem State.bump_fresh (s : State) : s.bump.fresh = s.fresh + 1 := rfl

@[simp] theorem State.cluster_setCluster (s : State) (i : Nat) (c : Cluster) : (s.setCluster i c).cluster i = c := by
  simp [State.cluster, State.setCluster]

theorem State.cluster_setCluster_ne (s : State) (i j : Nat) (c : Cluster) (h : j ≠ i) :
    (s.setCluster i c).cluster j = s.cluster j := tget_tset_ne _ _ _ _ _ h

@[simp] theorem State.part?_setPart (s : State) (p : Nat) (x : Partition) : (s.setPart p x).part? p = some x := by
  simp [State.part?, State.setPart]

theorem State.part?_setPart_ne (s : State) (p j : Nat) (x : Partition) (h : j ≠ p) :
    (s.setPart p x).part? j = s.part? j := tget?_tset_ne _ _ _ _ h

@[simp] theorem State.iface_setIface (s : State) (i : Nat) (x : Iface) : (s.setIface i x).iface i = x := by
  simp [State.iface, State.setIface]

theorem State.iface_setIface_ne (s : State) (i j : Nat) (x : Iface) (h : j ≠ i) :
    (s.setIface i x).iface j = s.iface j := tget_tset_ne _ _ _ _ _ h

/-- What a state tells of partitions is the same wherever its partitions are. -/
theorem State.partOf?_congr {s t : State} (h : t.parts = s.parts) (i : Nat) : t.partOf? i = s.partOf? i := by
  simp [State.partOf?, h]

@[simp] theorem storeBytes_mem (s : State) (k : Nat) (bs : List Byte) :
    (storeBytes s k bs).mem = writeBytes s.mem k bs := rfl

@[simp] theorem State.storeTcm_mem (s : State) (i off : Nat) (bs : List Byte) :
    (s.storeTcm i off bs).mem = writeBytes s.mem (tcmKey i off) bs := rfl

@[simp] theorem State.core_storeTcm (s : State) (i off : Nat) (bs : List Byte) :
    (s.storeTcm i off bs).core i = (s.core i).touchTcm off bs.length := State.core_onCore _ i _

theorem State.core_storeTcm_ne (s : State) (i off : Nat) (bs : List Byte) (j : Nat) (h : j ≠ i) :
    (s.storeTcm i off bs).core j = s.core j := State.core_onCore_ne _ i j _ h

/-! ## `Core.touchTcm` -/

@[simp] theorem Core.touchTcm_pc (c : Core) (off n : Nat) : (c.touchTcm off n).pc = c.pc := rfl
@[simp] theorem Core.touchTcm_g (c : Core) (off n : Nat) : (c.touchTcm off n).g = c.g := rfl
@[simp] theorem Core.touchTcm_v (c : Core) (off n : Nat) : (c.touchTcm off n).v = c.v := rfl
@[simp] theorem Core.touchTcm_q (c : Core) (off n : Nat) : (c.touchTcm off n).q = c.q := rfl
@[simp] theorem Core.touchTcm_gFreed (c : Core) (off n : Nat) : (c.touchTcm off n).gFreed = c.gFreed := rfl
@[simp] theorem Core.touchTcm_vFreed (c : Core) (off n : Nat) : (c.touchTcm off n).vFreed = c.vFreed := rfl
@[simp] theorem Core.touchTcm_qFreed (c : Core) (off n : Nat) : (c.touchTcm off n).qFreed = c.qFreed := rfl
@[simp] theorem Core.touchTcm_eps (c : Core) (off n : Nat) : (c.touchTcm off n).eps = c.eps := rfl
@[simp] theorem Core.touchTcm_kept (c : Core) (off n : Nat) : (c.touchTcm off n).kept = c.kept := rfl
@[simp] theorem Core.touchTcm_issued (c : Core) (off n : Nat) : (c.touchTcm off n).issued = c.issued := rfl
@[simp] theorem Core.touchTcm_tl (c : Core) (off n : Nat) : (c.touchTcm off n).tl = c.tl := rfl
@[simp] theorem Core.touchTcm_faultQ (c : Core) (off n : Nat) : (c.touchTcm off n).faultQ = c.faultQ := rfl
@[simp] theorem Core.touchTcm_postedQ (c : Core) (off n : Nat) : (c.touchTcm off n).postedQ = c.postedQ := rfl
@[simp] theorem Core.touchTcm_bstall (c : Core) (off n : Nat) : (c.touchTcm off n).bstall = c.bstall := rfl
@[simp] theorem Core.touchTcm_cmds (c : Core) (off n : Nat) : (c.touchTcm off n).cmds = c.cmds := rfl
@[simp] theorem Core.touchTcm_acc (c : Core) (off n : Nat) : (c.touchTcm off n).acc = c.acc := rfl
@[simp] theorem Core.touchTcm_bank (c : Core) (off n : Nat) : (c.touchTcm off n).bank = c.bank := rfl
@[simp] theorem Core.touchTcm_bankOcc (c : Core) (off n : Nat) : (c.touchTcm off n).bankOcc = c.bankOcc := rfl
@[simp] theorem Core.touchTcm_stackOcc (c : Core) (off n : Nat) : (c.touchTcm off n).stackOcc = c.stackOcc := rfl
@[simp] theorem Core.touchTcm_parkUndef (c : Core) (off n : Nat) : (c.touchTcm off n).parkUndef = c.parkUndef := rfl
@[simp] theorem Core.touchTcm_kcore (c : Core) (off n : Nat) : (c.touchTcm off n).kcore = c.kcore := rfl
@[simp] theorem Core.touchTcm_kstatus (c : Core) (off n : Nat) : (c.touchTcm off n).kstatus = c.kstatus := rfl
@[simp] theorem Core.touchTcm_kcause (c : Core) (off n : Nat) : (c.touchTcm off n).kcause = c.kcause := rfl
@[simp] theorem Core.touchTcm_ktval (c : Core) (off n : Nat) : (c.touchTcm off n).ktval = c.ktval := rfl
@[simp] theorem Core.touchTcm_kvec (c : Core) (off n : Nat) : (c.touchTcm off n).kvec = c.kvec := rfl
@[simp] theorem Core.touchTcm_kepc (c : Core) (off n : Nat) : (c.touchTcm off n).kepc = c.kepc := rfl
@[simp] theorem Core.touchTcm_kpriv (c : Core) (off n : Nat) : (c.touchTcm off n).kpriv = c.kpriv := rfl
@[simp] theorem Core.touchTcm_kcoord (c : Core) (off n : Nat) : (c.touchTcm off n).kcoord = c.kcoord := rfl
@[simp] theorem Core.touchTcm_kgroup (c : Core) (off n : Nat) : (c.touchTcm off n).kgroup = c.kgroup := rfl
@[simp] theorem Core.touchTcm_kstair (c : Core) (off n : Nat) : (c.touchTcm off n).kstair = c.kstair := rfl
@[simp] theorem Core.touchTcm_kdom (c : Core) (off n : Nat) : (c.touchTcm off n).kdom = c.kdom := rfl
@[simp] theorem Core.touchTcm_ktick (c : Core) (off n : Nat) : (c.touchTcm off n).ktick = c.ktick := rfl
@[simp] theorem Core.touchTcm_kwdog (c : Core) (off n : Nat) : (c.touchTcm off n).kwdog = c.kwdog := rfl
@[simp] theorem Core.touchTcm_kwait (c : Core) (off n : Nat) : (c.touchTcm off n).kwait = c.kwait := rfl
@[simp] theorem Core.touchTcm_kfp (c : Core) (off n : Nat) : (c.touchTcm off n).kfp = c.kfp := rfl
@[simp] theorem Core.touchTcm_kev (c : Core) (off n : Nat) : (c.touchTcm off n).kev = c.kev := rfl
@[simp] theorem Core.touchTcm_kspill (c : Core) (off n : Nat) : (c.touchTcm off n).kspill = c.kspill := rfl
@[simp] theorem Core.touchTcm_ksave (c : Core) (off n : Nat) : (c.touchTcm off n).ksave = c.ksave := rfl
@[simp] theorem Core.touchTcm_kguard (c : Core) (off n : Nat) : (c.touchTcm off n).kguard = c.kguard := rfl
@[simp] theorem Core.touchTcm_counts (c : Core) (off n : Nat) : (c.touchTcm off n).counts = c.counts := rfl
@[simp] theorem Core.touchTcm_pendCsum (c : Core) (off n : Nat) : (c.touchTcm off n).pendCsum = c.pendCsum := rfl
@[simp] theorem Core.touchTcm_results (c : Core) (off n : Nat) : (c.touchTcm off n).results = c.results := rfl
@[simp] theorem Core.touchTcm_sent (c : Core) (off n : Nat) : (c.touchTcm off n).sent = c.sent := rfl
@[simp] theorem Core.touchTcm_rcvd (c : Core) (off n : Nat) : (c.touchTcm off n).rcvd = c.rcvd := rfl
@[simp] theorem Core.touchTcm_idle (c : Core) (off n : Nat) : (c.touchTcm off n).idle = c.idle := rfl
@[simp] theorem Core.touchTcm_trapSeq (c : Core) (off n : Nat) : (c.touchTcm off n).trapSeq = c.trapSeq := rfl
@[simp] theorem Core.touchTcm_latched (c : Core) (off n : Nat) : (c.touchTcm off n).latched = c.latched := rfl
@[simp] theorem Core.touchTcm_accepted (c : Core) (off n : Nat) : (c.touchTcm off n).accepted = c.accepted := rfl
@[simp] theorem Core.touchTcm_carried (c : Core) (off n : Nat) : (c.touchTcm off n).carried = c.carried := rfl
@[simp] theorem Core.touchTcm_thread (c : Core) (off n : Nat) : (c.touchTcm off n).thread = c.thread := rfl
@[simp] theorem Core.touchTcm_halted (c : Core) (off n : Nat) : (c.touchTcm off n).halted = c.halted := rfl
@[simp] theorem Core.touchTcm_monitored (c : Core) (off n : Nat) : (c.touchTcm off n).monitored = c.monitored := rfl
@[simp] theorem Core.touchTcm_enteredFrom (c : Core) (off n : Nat) : (c.touchTcm off n).enteredFrom = c.enteredFrom := rfl
@[simp] theorem Core.touchTcm_fromLine (c : Core) (off n : Nat) : (c.touchTcm off n).fromLine = c.fromLine := rfl
@[simp] theorem Core.touchTcm_preempted (c : Core) (off n : Nat) : (c.touchTcm off n).preempted = c.preempted := rfl
@[simp] theorem Core.touchTcm_diverting (c : Core) (off n : Nat) : (c.touchTcm off n).diverting = c.diverting := rfl
@[simp] theorem Core.touchTcm_saving (c : Core) (off n : Nat) : (c.touchTcm off n).saving = c.saving := rfl
@[simp] theorem Core.touchTcm_headed (c : Core) (off n : Nat) : (c.touchTcm off n).headed = c.headed := rfl
@[simp] theorem Core.touchTcm_queueIds (c : Core) (off n : Nat) : (c.touchTcm off n).queueIds = c.queueIds := rfl
@[simp] theorem Core.touchTcm_queueFailed (c : Core) (off n : Nat) : (c.touchTcm off n).queueFailed = c.queueFailed := rfl
@[simp] theorem Core.touchTcm_returning (c : Core) (off n : Nat) : (c.touchTcm off n).returning = c.returning := rfl
@[simp] theorem Core.touchTcm_calls (c : Core) (off n : Nat) : (c.touchTcm off n).calls = c.calls := rfl
@[simp] theorem Core.touchTcm_spill (c : Core) (off n : Nat) : (c.touchTcm off n).spill = c.spill := rfl
@[simp] theorem Core.touchTcm_wait (c : Core) (off n : Nat) : (c.touchTcm off n).wait = c.wait := rfl
@[simp] theorem Core.touchTcm_restored (c : Core) (off n : Nat) : (c.touchTcm off n).restored = c.restored := rfl
@[simp] theorem Core.touchTcm_resumeDue (c : Core) (off n : Nat) : (c.touchTcm off n).resumeDue = c.resumeDue := rfl
@[simp] theorem Core.touchTcm_request (c : Core) (off n : Nat) : (c.touchTcm off n).request = c.request := rfl
@[simp] theorem Core.touchTcm_wdogPending (c : Core) (off n : Nat) : (c.touchTcm off n).wdogPending = c.wdogPending := rfl
@[simp] theorem Core.touchTcm_haltOnBreak (c : Core) (off n : Nat) : (c.touchTcm off n).haltOnBreak = c.haltOnBreak := rfl
@[simp] theorem Core.touchTcm_stepping (c : Core) (off n : Nat) : (c.touchTcm off n).stepping = c.stepping := rfl
@[simp] theorem Core.touchTcm_icache (c : Core) (off n : Nat) : (c.touchTcm off n).icache = c.icache := rfl
@[simp] theorem Core.touchTcm_place (c : Core) (off n : Nat) : (c.touchTcm off n).place = c.place := rfl
@[simp] theorem Core.touchTcm_claimed (c : Core) (off n : Nat) : (c.touchTcm off n).claimed = c.claimed := rfl
@[simp] theorem Core.touchTcm_chb (c : Core) (off n : Nat) : (c.touchTcm off n).chb = c.chb := rfl
@[simp] theorem Core.touchTcm_epsN (c : Core) (off n : Nat) : (c.touchTcm off n).epsN = c.epsN := rfl
@[simp] theorem Core.touchTcm_prio (c : Core) (off n : Nat) : (c.touchTcm off n).prio = c.prio := rfl
@[simp] theorem Core.touchTcm_launch (c : Core) (off n : Nat) : (c.touchTcm off n).launch = c.launch := rfl
@[simp] theorem Core.touchTcm_group (c : Core) (off n : Nat) : (c.touchTcm off n).group = c.group := rfl
@[simp] theorem Core.touchTcm_part (c : Core) (off n : Nat) : (c.touchTcm off n).part = c.part := rfl

/-! ## `Core.saveTrap` -/

@[simp] theorem Core.saveTrap_pc (c : Core) (t : Trap) : (c.saveTrap t).pc = c.pc := rfl
@[simp] theorem Core.saveTrap_g (c : Core) (t : Trap) : (c.saveTrap t).g = c.g := rfl
@[simp] theorem Core.saveTrap_v (c : Core) (t : Trap) : (c.saveTrap t).v = c.v := rfl
@[simp] theorem Core.saveTrap_q (c : Core) (t : Trap) : (c.saveTrap t).q = c.q := rfl
@[simp] theorem Core.saveTrap_gFreed (c : Core) (t : Trap) : (c.saveTrap t).gFreed = c.gFreed := rfl
@[simp] theorem Core.saveTrap_vFreed (c : Core) (t : Trap) : (c.saveTrap t).vFreed = c.vFreed := rfl
@[simp] theorem Core.saveTrap_qFreed (c : Core) (t : Trap) : (c.saveTrap t).qFreed = c.qFreed := rfl
@[simp] theorem Core.saveTrap_eps (c : Core) (t : Trap) : (c.saveTrap t).eps = c.eps := rfl
@[simp] theorem Core.saveTrap_kept (c : Core) (t : Trap) : (c.saveTrap t).kept = c.kept := rfl
@[simp] theorem Core.saveTrap_issued (c : Core) (t : Trap) : (c.saveTrap t).issued = c.issued := rfl
@[simp] theorem Core.saveTrap_tl (c : Core) (t : Trap) : (c.saveTrap t).tl = c.tl := rfl
@[simp] theorem Core.saveTrap_faultQ (c : Core) (t : Trap) : (c.saveTrap t).faultQ = c.faultQ := rfl
@[simp] theorem Core.saveTrap_postedQ (c : Core) (t : Trap) : (c.saveTrap t).postedQ = c.postedQ := rfl
@[simp] theorem Core.saveTrap_bstall (c : Core) (t : Trap) : (c.saveTrap t).bstall = c.bstall := rfl
@[simp] theorem Core.saveTrap_cmds (c : Core) (t : Trap) : (c.saveTrap t).cmds = c.cmds := rfl
@[simp] theorem Core.saveTrap_acc (c : Core) (t : Trap) : (c.saveTrap t).acc = c.acc := rfl
@[simp] theorem Core.saveTrap_bank (c : Core) (t : Trap) : (c.saveTrap t).bank = c.bank := rfl
@[simp] theorem Core.saveTrap_bankOcc (c : Core) (t : Trap) : (c.saveTrap t).bankOcc = c.bankOcc := rfl
@[simp] theorem Core.saveTrap_stackOcc (c : Core) (t : Trap) : (c.saveTrap t).stackOcc = c.stackOcc := rfl
@[simp] theorem Core.saveTrap_parkUndef (c : Core) (t : Trap) : (c.saveTrap t).parkUndef = c.parkUndef := rfl
@[simp] theorem Core.saveTrap_kcore (c : Core) (t : Trap) : (c.saveTrap t).kcore = c.kcore := rfl
@[simp] theorem Core.saveTrap_kvec (c : Core) (t : Trap) : (c.saveTrap t).kvec = c.kvec := rfl
@[simp] theorem Core.saveTrap_kpriv (c : Core) (t : Trap) : (c.saveTrap t).kpriv = c.kpriv := rfl
@[simp] theorem Core.saveTrap_kcoord (c : Core) (t : Trap) : (c.saveTrap t).kcoord = c.kcoord := rfl
@[simp] theorem Core.saveTrap_kgroup (c : Core) (t : Trap) : (c.saveTrap t).kgroup = c.kgroup := rfl
@[simp] theorem Core.saveTrap_kstair (c : Core) (t : Trap) : (c.saveTrap t).kstair = c.kstair := rfl
@[simp] theorem Core.saveTrap_kdom (c : Core) (t : Trap) : (c.saveTrap t).kdom = c.kdom := rfl
@[simp] theorem Core.saveTrap_ktick (c : Core) (t : Trap) : (c.saveTrap t).ktick = c.ktick := rfl
@[simp] theorem Core.saveTrap_kwdog (c : Core) (t : Trap) : (c.saveTrap t).kwdog = c.kwdog := rfl
@[simp] theorem Core.saveTrap_kwait (c : Core) (t : Trap) : (c.saveTrap t).kwait = c.kwait := rfl
@[simp] theorem Core.saveTrap_kfp (c : Core) (t : Trap) : (c.saveTrap t).kfp = c.kfp := rfl
@[simp] theorem Core.saveTrap_kev (c : Core) (t : Trap) : (c.saveTrap t).kev = c.kev := rfl
@[simp] theorem Core.saveTrap_kspill (c : Core) (t : Trap) : (c.saveTrap t).kspill = c.kspill := rfl
@[simp] theorem Core.saveTrap_ksave (c : Core) (t : Trap) : (c.saveTrap t).ksave = c.ksave := rfl
@[simp] theorem Core.saveTrap_kguard (c : Core) (t : Trap) : (c.saveTrap t).kguard = c.kguard := rfl
@[simp] theorem Core.saveTrap_counts (c : Core) (t : Trap) : (c.saveTrap t).counts = c.counts := rfl
@[simp] theorem Core.saveTrap_pendCsum (c : Core) (t : Trap) : (c.saveTrap t).pendCsum = c.pendCsum := rfl
@[simp] theorem Core.saveTrap_results (c : Core) (t : Trap) : (c.saveTrap t).results = c.results := rfl
@[simp] theorem Core.saveTrap_sent (c : Core) (t : Trap) : (c.saveTrap t).sent = c.sent := rfl
@[simp] theorem Core.saveTrap_rcvd (c : Core) (t : Trap) : (c.saveTrap t).rcvd = c.rcvd := rfl
@[simp] theorem Core.saveTrap_idle (c : Core) (t : Trap) : (c.saveTrap t).idle = c.idle := rfl
@[simp] theorem Core.saveTrap_dirty (c : Core) (t : Trap) : (c.saveTrap t).dirty = c.dirty := rfl
@[simp] theorem Core.saveTrap_latched (c : Core) (t : Trap) : (c.saveTrap t).latched = c.latched := rfl
@[simp] theorem Core.saveTrap_accepted (c : Core) (t : Trap) : (c.saveTrap t).accepted = c.accepted := rfl
@[simp] theorem Core.saveTrap_carried (c : Core) (t : Trap) : (c.saveTrap t).carried = c.carried := rfl
@[simp] theorem Core.saveTrap_thread (c : Core) (t : Trap) : (c.saveTrap t).thread = c.thread := rfl
@[simp] theorem Core.saveTrap_halted (c : Core) (t : Trap) : (c.saveTrap t).halted = c.halted := rfl
@[simp] theorem Core.saveTrap_monitored (c : Core) (t : Trap) : (c.saveTrap t).monitored = c.monitored := rfl
@[simp] theorem Core.saveTrap_enteredFrom (c : Core) (t : Trap) : (c.saveTrap t).enteredFrom = c.enteredFrom := rfl
@[simp] theorem Core.saveTrap_fromLine (c : Core) (t : Trap) : (c.saveTrap t).fromLine = c.fromLine := rfl
@[simp] theorem Core.saveTrap_preempted (c : Core) (t : Trap) : (c.saveTrap t).preempted = c.preempted := rfl
@[simp] theorem Core.saveTrap_diverting (c : Core) (t : Trap) : (c.saveTrap t).diverting = c.diverting := rfl
@[simp] theorem Core.saveTrap_saving (c : Core) (t : Trap) : (c.saveTrap t).saving = c.saving := rfl
@[simp] theorem Core.saveTrap_headed (c : Core) (t : Trap) : (c.saveTrap t).headed = c.headed := rfl
@[simp] theorem Core.saveTrap_queueIds (c : Core) (t : Trap) : (c.saveTrap t).queueIds = c.queueIds := rfl
@[simp] theorem Core.saveTrap_queueFailed (c : Core) (t : Trap) : (c.saveTrap t).queueFailed = c.queueFailed := rfl
@[simp] theorem Core.saveTrap_returning (c : Core) (t : Trap) : (c.saveTrap t).returning = c.returning := rfl
@[simp] theorem Core.saveTrap_spill (c : Core) (t : Trap) : (c.saveTrap t).spill = c.spill := rfl
@[simp] theorem Core.saveTrap_restored (c : Core) (t : Trap) : (c.saveTrap t).restored = c.restored := rfl
@[simp] theorem Core.saveTrap_resumeDue (c : Core) (t : Trap) : (c.saveTrap t).resumeDue = c.resumeDue := rfl
@[simp] theorem Core.saveTrap_request (c : Core) (t : Trap) : (c.saveTrap t).request = c.request := rfl
@[simp] theorem Core.saveTrap_wdogPending (c : Core) (t : Trap) : (c.saveTrap t).wdogPending = c.wdogPending := rfl
@[simp] theorem Core.saveTrap_haltOnBreak (c : Core) (t : Trap) : (c.saveTrap t).haltOnBreak = c.haltOnBreak := rfl
@[simp] theorem Core.saveTrap_stepping (c : Core) (t : Trap) : (c.saveTrap t).stepping = c.stepping := rfl
@[simp] theorem Core.saveTrap_icache (c : Core) (t : Trap) : (c.saveTrap t).icache = c.icache := rfl
@[simp] theorem Core.saveTrap_place (c : Core) (t : Trap) : (c.saveTrap t).place = c.place := rfl
@[simp] theorem Core.saveTrap_claimed (c : Core) (t : Trap) : (c.saveTrap t).claimed = c.claimed := rfl
@[simp] theorem Core.saveTrap_chb (c : Core) (t : Trap) : (c.saveTrap t).chb = c.chb := rfl
@[simp] theorem Core.saveTrap_epsN (c : Core) (t : Trap) : (c.saveTrap t).epsN = c.epsN := rfl
@[simp] theorem Core.saveTrap_prio (c : Core) (t : Trap) : (c.saveTrap t).prio = c.prio := rfl
@[simp] theorem Core.saveTrap_launch (c : Core) (t : Trap) : (c.saveTrap t).launch = c.launch := rfl
@[simp] theorem Core.saveTrap_group (c : Core) (t : Trap) : (c.saveTrap t).group = c.group := rfl
@[simp] theorem Core.saveTrap_part (c : Core) (t : Trap) : (c.saveTrap t).part = c.part := rfl

/-! ## `Core.enterHandler` -/

@[simp] theorem Core.enterHandler_g (c : Core) : (c.enterHandler).g = c.g := rfl
@[simp] theorem Core.enterHandler_v (c : Core) : (c.enterHandler).v = c.v := rfl
@[simp] theorem Core.enterHandler_q (c : Core) : (c.enterHandler).q = c.q := rfl
@[simp] theorem Core.enterHandler_gFreed (c : Core) : (c.enterHandler).gFreed = c.gFreed := rfl
@[simp] theorem Core.enterHandler_vFreed (c : Core) : (c.enterHandler).vFreed = c.vFreed := rfl
@[simp] theorem Core.enterHandler_qFreed (c : Core) : (c.enterHandler).qFreed = c.qFreed := rfl
@[simp] theorem Core.enterHandler_eps (c : Core) : (c.enterHandler).eps = c.eps := rfl
@[simp] theorem Core.enterHandler_kept (c : Core) : (c.enterHandler).kept = c.kept := rfl
@[simp] theorem Core.enterHandler_issued (c : Core) : (c.enterHandler).issued = c.issued := rfl
@[simp] theorem Core.enterHandler_tl (c : Core) : (c.enterHandler).tl = c.tl := rfl
@[simp] theorem Core.enterHandler_faultQ (c : Core) : (c.enterHandler).faultQ = c.faultQ := rfl
@[simp] theorem Core.enterHandler_postedQ (c : Core) : (c.enterHandler).postedQ = c.postedQ := rfl
@[simp] theorem Core.enterHandler_bstall (c : Core) : (c.enterHandler).bstall = c.bstall := rfl
@[simp] theorem Core.enterHandler_cmds (c : Core) : (c.enterHandler).cmds = c.cmds := rfl
@[simp] theorem Core.enterHandler_acc (c : Core) : (c.enterHandler).acc = c.acc := rfl
@[simp] theorem Core.enterHandler_bank (c : Core) : (c.enterHandler).bank = c.bank := rfl
@[simp] theorem Core.enterHandler_bankOcc (c : Core) : (c.enterHandler).bankOcc = c.bankOcc := rfl
@[simp] theorem Core.enterHandler_stackOcc (c : Core) : (c.enterHandler).stackOcc = c.stackOcc := rfl
@[simp] theorem Core.enterHandler_parkUndef (c : Core) : (c.enterHandler).parkUndef = c.parkUndef := rfl
@[simp] theorem Core.enterHandler_kstatus (c : Core) : (c.enterHandler).kstatus = c.kstatus := rfl
@[simp] theorem Core.enterHandler_kcause (c : Core) : (c.enterHandler).kcause = c.kcause := rfl
@[simp] theorem Core.enterHandler_ktval (c : Core) : (c.enterHandler).ktval = c.ktval := rfl
@[simp] theorem Core.enterHandler_kvec (c : Core) : (c.enterHandler).kvec = c.kvec := rfl
@[simp] theorem Core.enterHandler_kepc (c : Core) : (c.enterHandler).kepc = c.kepc := rfl
@[simp] theorem Core.enterHandler_kcoord (c : Core) : (c.enterHandler).kcoord = c.kcoord := rfl
@[simp] theorem Core.enterHandler_kgroup (c : Core) : (c.enterHandler).kgroup = c.kgroup := rfl
@[simp] theorem Core.enterHandler_kstair (c : Core) : (c.enterHandler).kstair = c.kstair := rfl
@[simp] theorem Core.enterHandler_kdom (c : Core) : (c.enterHandler).kdom = c.kdom := rfl
@[simp] theorem Core.enterHandler_ktick (c : Core) : (c.enterHandler).ktick = c.ktick := rfl
@[simp] theorem Core.enterHandler_kwdog (c : Core) : (c.enterHandler).kwdog = c.kwdog := rfl
@[simp] theorem Core.enterHandler_kwait (c : Core) : (c.enterHandler).kwait = c.kwait := rfl
@[simp] theorem Core.enterHandler_kfp (c : Core) : (c.enterHandler).kfp = c.kfp := rfl
@[simp] theorem Core.enterHandler_kev (c : Core) : (c.enterHandler).kev = c.kev := rfl
@[simp] theorem Core.enterHandler_kspill (c : Core) : (c.enterHandler).kspill = c.kspill := rfl
@[simp] theorem Core.enterHandler_ksave (c : Core) : (c.enterHandler).ksave = c.ksave := rfl
@[simp] theorem Core.enterHandler_kguard (c : Core) : (c.enterHandler).kguard = c.kguard := rfl
@[simp] theorem Core.enterHandler_counts (c : Core) : (c.enterHandler).counts = c.counts := rfl
@[simp] theorem Core.enterHandler_pendCsum (c : Core) : (c.enterHandler).pendCsum = c.pendCsum := rfl
@[simp] theorem Core.enterHandler_results (c : Core) : (c.enterHandler).results = c.results := rfl
@[simp] theorem Core.enterHandler_sent (c : Core) : (c.enterHandler).sent = c.sent := rfl
@[simp] theorem Core.enterHandler_rcvd (c : Core) : (c.enterHandler).rcvd = c.rcvd := rfl
@[simp] theorem Core.enterHandler_idle (c : Core) : (c.enterHandler).idle = c.idle := rfl
@[simp] theorem Core.enterHandler_trapSeq (c : Core) : (c.enterHandler).trapSeq = c.trapSeq := rfl
@[simp] theorem Core.enterHandler_dirty (c : Core) : (c.enterHandler).dirty = c.dirty := rfl
@[simp] theorem Core.enterHandler_latched (c : Core) : (c.enterHandler).latched = c.latched := rfl
@[simp] theorem Core.enterHandler_accepted (c : Core) : (c.enterHandler).accepted = c.accepted := rfl
@[simp] theorem Core.enterHandler_carried (c : Core) : (c.enterHandler).carried = c.carried := rfl
@[simp] theorem Core.enterHandler_thread (c : Core) : (c.enterHandler).thread = c.thread := rfl
@[simp] theorem Core.enterHandler_halted (c : Core) : (c.enterHandler).halted = c.halted := rfl
@[simp] theorem Core.enterHandler_monitored (c : Core) : (c.enterHandler).monitored = c.monitored := rfl
@[simp] theorem Core.enterHandler_enteredFrom (c : Core) : (c.enterHandler).enteredFrom = c.enteredFrom := rfl
@[simp] theorem Core.enterHandler_fromLine (c : Core) : (c.enterHandler).fromLine = c.fromLine := rfl
@[simp] theorem Core.enterHandler_preempted (c : Core) : (c.enterHandler).preempted = c.preempted := rfl
@[simp] theorem Core.enterHandler_diverting (c : Core) : (c.enterHandler).diverting = c.diverting := rfl
@[simp] theorem Core.enterHandler_saving (c : Core) : (c.enterHandler).saving = c.saving := rfl
@[simp] theorem Core.enterHandler_headed (c : Core) : (c.enterHandler).headed = c.headed := rfl
@[simp] theorem Core.enterHandler_queueIds (c : Core) : (c.enterHandler).queueIds = c.queueIds := rfl
@[simp] theorem Core.enterHandler_queueFailed (c : Core) : (c.enterHandler).queueFailed = c.queueFailed := rfl
@[simp] theorem Core.enterHandler_returning (c : Core) : (c.enterHandler).returning = c.returning := rfl
@[simp] theorem Core.enterHandler_calls (c : Core) : (c.enterHandler).calls = c.calls := rfl
@[simp] theorem Core.enterHandler_spill (c : Core) : (c.enterHandler).spill = c.spill := rfl
@[simp] theorem Core.enterHandler_wait (c : Core) : (c.enterHandler).wait = c.wait := rfl
@[simp] theorem Core.enterHandler_restored (c : Core) : (c.enterHandler).restored = c.restored := rfl
@[simp] theorem Core.enterHandler_resumeDue (c : Core) : (c.enterHandler).resumeDue = c.resumeDue := rfl
@[simp] theorem Core.enterHandler_request (c : Core) : (c.enterHandler).request = c.request := rfl
@[simp] theorem Core.enterHandler_wdogPending (c : Core) : (c.enterHandler).wdogPending = c.wdogPending := rfl
@[simp] theorem Core.enterHandler_haltOnBreak (c : Core) : (c.enterHandler).haltOnBreak = c.haltOnBreak := rfl
@[simp] theorem Core.enterHandler_stepping (c : Core) : (c.enterHandler).stepping = c.stepping := rfl
@[simp] theorem Core.enterHandler_icache (c : Core) : (c.enterHandler).icache = c.icache := rfl
@[simp] theorem Core.enterHandler_place (c : Core) : (c.enterHandler).place = c.place := rfl
@[simp] theorem Core.enterHandler_claimed (c : Core) : (c.enterHandler).claimed = c.claimed := rfl
@[simp] theorem Core.enterHandler_chb (c : Core) : (c.enterHandler).chb = c.chb := rfl
@[simp] theorem Core.enterHandler_epsN (c : Core) : (c.enterHandler).epsN = c.epsN := rfl
@[simp] theorem Core.enterHandler_prio (c : Core) : (c.enterHandler).prio = c.prio := rfl
@[simp] theorem Core.enterHandler_launch (c : Core) : (c.enterHandler).launch = c.launch := rfl
@[simp] theorem Core.enterHandler_group (c : Core) : (c.enterHandler).group = c.group := rfl
@[simp] theorem Core.enterHandler_part (c : Core) : (c.enterHandler).part = c.part := rfl

/-! ## `Core.trapReturn` -/

@[simp] theorem Core.trapReturn_g (c : Core) : (c.trapReturn).g = c.g := rfl
@[simp] theorem Core.trapReturn_v (c : Core) : (c.trapReturn).v = c.v := rfl
@[simp] theorem Core.trapReturn_q (c : Core) : (c.trapReturn).q = c.q := rfl
@[simp] theorem Core.trapReturn_gFreed (c : Core) : (c.trapReturn).gFreed = c.gFreed := rfl
@[simp] theorem Core.trapReturn_vFreed (c : Core) : (c.trapReturn).vFreed = c.vFreed := rfl
@[simp] theorem Core.trapReturn_qFreed (c : Core) : (c.trapReturn).qFreed = c.qFreed := rfl
@[simp] theorem Core.trapReturn_eps (c : Core) : (c.trapReturn).eps = c.eps := rfl
@[simp] theorem Core.trapReturn_kept (c : Core) : (c.trapReturn).kept = c.kept := rfl
@[simp] theorem Core.trapReturn_issued (c : Core) : (c.trapReturn).issued = c.issued := rfl
@[simp] theorem Core.trapReturn_tl (c : Core) : (c.trapReturn).tl = c.tl := rfl
@[simp] theorem Core.trapReturn_faultQ (c : Core) : (c.trapReturn).faultQ = c.faultQ := rfl
@[simp] theorem Core.trapReturn_postedQ (c : Core) : (c.trapReturn).postedQ = c.postedQ := rfl
@[simp] theorem Core.trapReturn_bstall (c : Core) : (c.trapReturn).bstall = c.bstall := rfl
@[simp] theorem Core.trapReturn_cmds (c : Core) : (c.trapReturn).cmds = c.cmds := rfl
@[simp] theorem Core.trapReturn_acc (c : Core) : (c.trapReturn).acc = c.acc := rfl
@[simp] theorem Core.trapReturn_bank (c : Core) : (c.trapReturn).bank = c.bank := rfl
@[simp] theorem Core.trapReturn_bankOcc (c : Core) : (c.trapReturn).bankOcc = c.bankOcc := rfl
@[simp] theorem Core.trapReturn_stackOcc (c : Core) : (c.trapReturn).stackOcc = c.stackOcc := rfl
@[simp] theorem Core.trapReturn_parkUndef (c : Core) : (c.trapReturn).parkUndef = c.parkUndef := rfl
@[simp] theorem Core.trapReturn_kcause (c : Core) : (c.trapReturn).kcause = c.kcause := rfl
@[simp] theorem Core.trapReturn_ktval (c : Core) : (c.trapReturn).ktval = c.ktval := rfl
@[simp] theorem Core.trapReturn_kvec (c : Core) : (c.trapReturn).kvec = c.kvec := rfl
@[simp] theorem Core.trapReturn_kepc (c : Core) : (c.trapReturn).kepc = c.kepc := rfl
@[simp] theorem Core.trapReturn_kcoord (c : Core) : (c.trapReturn).kcoord = c.kcoord := rfl
@[simp] theorem Core.trapReturn_kgroup (c : Core) : (c.trapReturn).kgroup = c.kgroup := rfl
@[simp] theorem Core.trapReturn_kstair (c : Core) : (c.trapReturn).kstair = c.kstair := rfl
@[simp] theorem Core.trapReturn_kdom (c : Core) : (c.trapReturn).kdom = c.kdom := rfl
@[simp] theorem Core.trapReturn_ktick (c : Core) : (c.trapReturn).ktick = c.ktick := rfl
@[simp] theorem Core.trapReturn_kwdog (c : Core) : (c.trapReturn).kwdog = c.kwdog := rfl
@[simp] theorem Core.trapReturn_kwait (c : Core) : (c.trapReturn).kwait = c.kwait := rfl
@[simp] theorem Core.trapReturn_kfp (c : Core) : (c.trapReturn).kfp = c.kfp := rfl
@[simp] theorem Core.trapReturn_kev (c : Core) : (c.trapReturn).kev = c.kev := rfl
@[simp] theorem Core.trapReturn_kspill (c : Core) : (c.trapReturn).kspill = c.kspill := rfl
@[simp] theorem Core.trapReturn_ksave (c : Core) : (c.trapReturn).ksave = c.ksave := rfl
@[simp] theorem Core.trapReturn_kguard (c : Core) : (c.trapReturn).kguard = c.kguard := rfl
@[simp] theorem Core.trapReturn_counts (c : Core) : (c.trapReturn).counts = c.counts := rfl
@[simp] theorem Core.trapReturn_pendCsum (c : Core) : (c.trapReturn).pendCsum = c.pendCsum := rfl
@[simp] theorem Core.trapReturn_results (c : Core) : (c.trapReturn).results = c.results := rfl
@[simp] theorem Core.trapReturn_sent (c : Core) : (c.trapReturn).sent = c.sent := rfl
@[simp] theorem Core.trapReturn_rcvd (c : Core) : (c.trapReturn).rcvd = c.rcvd := rfl
@[simp] theorem Core.trapReturn_idle (c : Core) : (c.trapReturn).idle = c.idle := rfl
@[simp] theorem Core.trapReturn_trapSeq (c : Core) : (c.trapReturn).trapSeq = c.trapSeq := rfl
@[simp] theorem Core.trapReturn_dirty (c : Core) : (c.trapReturn).dirty = c.dirty := rfl
@[simp] theorem Core.trapReturn_latched (c : Core) : (c.trapReturn).latched = c.latched := rfl
@[simp] theorem Core.trapReturn_accepted (c : Core) : (c.trapReturn).accepted = c.accepted := rfl
@[simp] theorem Core.trapReturn_carried (c : Core) : (c.trapReturn).carried = c.carried := rfl
@[simp] theorem Core.trapReturn_thread (c : Core) : (c.trapReturn).thread = c.thread := rfl
@[simp] theorem Core.trapReturn_halted (c : Core) : (c.trapReturn).halted = c.halted := rfl
@[simp] theorem Core.trapReturn_monitored (c : Core) : (c.trapReturn).monitored = c.monitored := rfl
@[simp] theorem Core.trapReturn_enteredFrom (c : Core) : (c.trapReturn).enteredFrom = c.enteredFrom := rfl
@[simp] theorem Core.trapReturn_fromLine (c : Core) : (c.trapReturn).fromLine = c.fromLine := rfl
@[simp] theorem Core.trapReturn_preempted (c : Core) : (c.trapReturn).preempted = c.preempted := rfl
@[simp] theorem Core.trapReturn_diverting (c : Core) : (c.trapReturn).diverting = c.diverting := rfl
@[simp] theorem Core.trapReturn_saving (c : Core) : (c.trapReturn).saving = c.saving := rfl
@[simp] theorem Core.trapReturn_headed (c : Core) : (c.trapReturn).headed = c.headed := rfl
@[simp] theorem Core.trapReturn_queueIds (c : Core) : (c.trapReturn).queueIds = c.queueIds := rfl
@[simp] theorem Core.trapReturn_queueFailed (c : Core) : (c.trapReturn).queueFailed = c.queueFailed := rfl
@[simp] theorem Core.trapReturn_returning (c : Core) : (c.trapReturn).returning = c.returning := rfl
@[simp] theorem Core.trapReturn_spill (c : Core) : (c.trapReturn).spill = c.spill := rfl
@[simp] theorem Core.trapReturn_wait (c : Core) : (c.trapReturn).wait = c.wait := rfl
@[simp] theorem Core.trapReturn_restored (c : Core) : (c.trapReturn).restored = c.restored := rfl
@[simp] theorem Core.trapReturn_resumeDue (c : Core) : (c.trapReturn).resumeDue = c.resumeDue := rfl
@[simp] theorem Core.trapReturn_request (c : Core) : (c.trapReturn).request = c.request := rfl
@[simp] theorem Core.trapReturn_wdogPending (c : Core) : (c.trapReturn).wdogPending = c.wdogPending := rfl
@[simp] theorem Core.trapReturn_haltOnBreak (c : Core) : (c.trapReturn).haltOnBreak = c.haltOnBreak := rfl
@[simp] theorem Core.trapReturn_stepping (c : Core) : (c.trapReturn).stepping = c.stepping := rfl
@[simp] theorem Core.trapReturn_icache (c : Core) : (c.trapReturn).icache = c.icache := rfl
@[simp] theorem Core.trapReturn_place (c : Core) : (c.trapReturn).place = c.place := rfl
@[simp] theorem Core.trapReturn_claimed (c : Core) : (c.trapReturn).claimed = c.claimed := rfl
@[simp] theorem Core.trapReturn_chb (c : Core) : (c.trapReturn).chb = c.chb := rfl
@[simp] theorem Core.trapReturn_epsN (c : Core) : (c.trapReturn).epsN = c.epsN := rfl
@[simp] theorem Core.trapReturn_prio (c : Core) : (c.trapReturn).prio = c.prio := rfl
@[simp] theorem Core.trapReturn_launch (c : Core) : (c.trapReturn).launch = c.launch := rfl
@[simp] theorem Core.trapReturn_group (c : Core) : (c.trapReturn).group = c.group := rfl
@[simp] theorem Core.trapReturn_part (c : Core) : (c.trapReturn).part = c.part := rfl

end Sys2Proof.Machine
end

