-- ==== Sys2Proof/Laws/Registers.lean ====
section
/-! SUPPORT. Registers: a register reads as it was written, the others are kept, g0 and q0 are fixed (R26), and a
register that is freed reads as a free value (R30). -/
namespace Sys2Proof.Machine

/-! ## What a write changes -/

/-- A write of a g register changes the g registers and their freed marks alone. -/
theorem Core.setG_eq (c : Core) (r : Fin 64) (x : Word) :
    c.setG r x = { c with g := (c.setG r x).g, gFreed := (c.setG r x).gFreed } := by
  unfold Core.setG; split <;> rfl

/-- A write of a v register changes the v registers and their freed marks alone. -/
theorem Core.setV_eq (c : Core) (r : Fin 32) (x : VReg) :
    c.setV r x = { c with v := (c.setV r x).v, vFreed := (c.setV r x).vFreed } := rfl

/-- A write of a q register changes the q registers and their freed marks alone. -/
theorem Core.setQ_eq (c : Core) (r : Fin 8) (x : QReg) :
    c.setQ r x = { c with q := (c.setQ r x).q, qFreed := (c.setQ r x).qFreed } := by
  unfold Core.setQ; split <;> rfl

/-- A destination write changes g and q registers and their freed marks alone. -/
theorem Core.setDst_eq (c : Core) (o : Opnd) (x : Word) :
    c.setDst o x = { c with g := (c.setDst o x).g, gFreed := (c.setDst o x).gFreed,
                            q := (c.setDst o x).q, qFreed := (c.setDst o x).qFreed } := by
  cases o <;> simp only [Core.setDst, Core.setG, Core.setQ] <;> (try split) <;> rfl

/-- Freeing a register changes the freed marks alone. -/
theorem Core.freeReg_eq (c : Core) (o : Opnd) :
    c.freeReg o = { c with gFreed := (c.freeReg o).gFreed, vFreed := (c.freeReg o).vFreed,
                           qFreed := (c.freeReg o).qFreed } := by
  cases o <;> simp only [Core.freeReg] <;> (try split) <;> rfl

/-- The last uses of an instruction change the freed marks alone (R30). -/
theorem Core.freeLast_eq (c : Core) (f : Fields) :
    c.freeLast f = { c with gFreed := (c.freeLast f).gFreed, vFreed := (c.freeLast f).vFreed,
                            qFreed := (c.freeLast f).qFreed } := by
  have h (d : Core) (b : Bool) (o : Opnd) : ∃ x y z, (if b then d.freeReg o else d) =
      { d with gFreed := x, vFreed := y, qFreed := z } := by
    cases b
    · exact ⟨_, _, _, rfl⟩
    · exact ⟨_, _, _, d.freeReg_eq o⟩
  obtain ⟨x1, y1, z1, h1⟩ := h c f.l1 f.s1
  simp only [Core.freeLast, h1]
  obtain ⟨x2, y2, z2, h2⟩ := h { c with gFreed := x1, vFreed := y1, qFreed := z1 } f.l2 f.s2
  simp only [h2]
  obtain ⟨x3, y3, z3, h3⟩ := h { c with gFreed := x2, vFreed := y2, qFreed := z2 } f.l3 f.s3
  simp only [h3]

/-! ## g registers -/

@[simp] theorem Core.gVal_zero (c : Core) (n k : Nat) : c.gVal n k 0 = 0 := by simp [Core.gVal]

@[simp] theorem Core.setG_zero (c : Core) (x : Word) : c.setG 0 x = c := by simp [Core.setG]

theorem Core.gVal_live {c : Core} {r : Fin 64} (n k : Nat) (h0 : r ≠ 0) (h : c.gFreed.getLsbD r.val = false) :
    c.gVal n k r = c.g[r] := by rw [Core.gVal, if_neg h0, if_neg (by rw [h]; decide)]

/-- A register that was freed reads as a free value (R30). -/
theorem Core.gVal_freed {c : Core} {r : Fin 64} (n k : Nat) (h0 : r ≠ 0) (h : c.gFreed.getLsbD r.val = true) :
    c.gVal n k r = Config.freeBits n k 64 := by rw [Core.gVal, if_neg h0, if_pos h]

/-- A g register reads as it was written. -/
theorem Core.gVal_setG (c : Core) (n k : Nat) {r : Fin 64} (x : Word) (h : r ≠ 0) : (c.setG r x).gVal n k r = x := by
  have hr : r.val < 64 := r.isLt
  simp [Core.gVal, Core.setG, h, hr]

/-- The other g registers are kept. -/
theorem Core.gVal_setG_ne (c : Core) (n k : Nat) {r j : Fin 64} (x : Word) (h : j ≠ r) :
    (c.setG r x).gVal n k j = c.gVal n k j := by
  have hj : j.val < 64 := j.isLt
  have hv : r.val ≠ j.val := fun e => h (Fin.ext e.symm)
  have hb : (~~~(1#64 <<< r.val)).getLsbD j.val = true := by
    simp only [BitVec.getLsbD_not, BitVec.getLsbD_shiftLeft, hj, decide_true, Bool.true_and]
    rcases Nat.lt_or_gt_of_ne hv with e | e
    · have : j.val - r.val ≠ 0 := by omega
      simp [this]
    · simp [e]
  unfold Core.setG
  split
  · rfl
  · simp only [Core.gVal, BitVec.getLsbD_and, hb, Bool.and_true]
    split
    · rfl
    · split
      · rfl
      · simp [Vector.getElem_set_ne _ _ hv]

/-! ## v registers -/

/-- A v register reads as it was written. -/
theorem Core.vVal_setV (c : Core) (n k : Nat) (r : Fin 32) (x : VReg) : (c.setV r x).vVal n k r = x := by
  have hr : r.val < 32 := r.isLt
  simp [Core.vVal, Core.setV, hr]

/-- The other v registers are kept. -/
theorem Core.vVal_setV_ne (c : Core) (n k : Nat) {r j : Fin 32} (x : VReg) (h : j ≠ r) :
    (c.setV r x).vVal n k j = c.vVal n k j := by
  have hj : j.val < 32 := j.isLt
  have hv : r.val ≠ j.val := fun e => h (Fin.ext e.symm)
  have hb : (~~~(1#32 <<< r.val)).getLsbD j.val = true := by
    simp only [BitVec.getLsbD_not, BitVec.getLsbD_shiftLeft, hj, decide_true, Bool.true_and]
    rcases Nat.lt_or_gt_of_ne hv with e | e
    · have : j.val - r.val ≠ 0 := by omega
      simp [this]
    · simp [e]
  simp only [Core.vVal, Core.setV, BitVec.getLsbD_and, hb, Bool.and_true]
  split
  · rfl
  · simp [Vector.getElem_set_ne _ _ hv]

/-! ## q registers -/

@[simp] theorem Core.qVal_zero (c : Core) (n k : Nat) : c.qVal n k 0 = BitVec.allOnes 32 := by simp [Core.qVal]

@[simp] theorem Core.setQ_zero (c : Core) (x : QReg) : c.setQ 0 x = c := by simp [Core.setQ]

/-- A q register reads as it was written. -/
theorem Core.qVal_setQ (c : Core) (n k : Nat) {r : Fin 8} (x : QReg) (h : r ≠ 0) : (c.setQ r x).qVal n k r = x := by
  have hr : r.val < 8 := r.isLt
  simp [Core.qVal, Core.setQ, h, hr]

/-- The other q registers are kept. -/
theorem Core.qVal_setQ_ne (c : Core) (n k : Nat) {r j : Fin 8} (x : QReg) (h : j ≠ r) :
    (c.setQ r x).qVal n k j = c.qVal n k j := by
  have hj : j.val < 8 := j.isLt
  have hv : r.val ≠ j.val := fun e => h (Fin.ext e.symm)
  have hb : (~~~(1#8 <<< r.val)).getLsbD j.val = true := by
    simp only [BitVec.getLsbD_not, BitVec.getLsbD_shiftLeft, hj, decide_true, Bool.true_and]
    rcases Nat.lt_or_gt_of_ne hv with e | e
    · have : j.val - r.val ≠ 0 := by omega
      simp [this]
    · simp [e]
  unfold Core.setQ
  split
  · rfl
  · simp only [Core.qVal, BitVec.getLsbD_and, hb, Bool.and_true]
    split
    · rfl
    · split
      · rfl
      · simp [Vector.getElem_set_ne _ _ hv]

end Sys2Proof.Machine
end

