-- ==== Sys2Proof/Laws/Issue.lean ====
section
/-! SUPPORT. What an instruction does around its own effect: it reads, pops, frees and goes on; or it has no effect, traps
or waits. What taking a trap and one step do. -/
namespace Sys2Proof.Machine

/-! ## The sources -/

/-- A field that names no port pops nothing. -/
theorem State.popSrc_plain (s : State) {o : Opnd} (h : ∀ p f, o ≠ .port p f) : s.popSrc o = .word 0 s := by
  cases o with
  | port p f => exact absurd rfl (h p f)
  | _ => rfl

/-- Whether a field names a port. -/
def isPort : Opnd → Bool
  | .port _ _ => true
  | _ => false

theorem State.popSrc_of_not_port (s : State) {o : Opnd} (h : isPort o = false) : s.popSrc o = .word 0 s := by
  cases o <;> first | rfl | exact absurd h (by simp [isPort])

/-- Without ports no pop is refused. -/
theorem State.popRefused?_plain (s : State) (i : Nat) (l : List Opnd) (h : l.all (!isPort ·) = true) :
    s.popRefused? i l = none := by
  induction l with
  | nil => rfl
  | cons o r ih =>
    simp only [List.all_cons, Bool.and_eq_true] at h
    cases o with
    | port p f => simp [isPort] at h
    | _ => exact ih h.2

/-- Without ports the sources are the registers, and nothing is popped. -/
theorem sourcesOf_plain (f : Fields) (s : State) (h1 : isPort f.s1 = false) (h2 : isPort f.s2 = false)
    (h3 : isPort f.s3 = false) :
    sourcesOf f s = some ({ s1 := s.self.srcWord s.free 1 f.s1 0, s2 := s.self.srcWord s.free 2 f.s2 0,
                            s3 := s.self.srcWord s.free 3 f.s3 0 }, s) := by
  simp [sourcesOf, State.popSrc_of_not_port, State.popRefused?_plain, h1, h2, h3]

/-- The pops of an instruction, where they all answer. -/
theorem withPops_of_sources {f : Fields} {s u : State} {x : Srcs} (h : sourcesOf f s = some (x, u))
    (k : Srcs → State → Result) :
    withPops f s (fun a b d t =>
      k { s1 := s.self.srcWord s.free 1 f.s1 a, s2 := s.self.srcWord s.free 2 f.s2 b,
          s3 := s.self.srcWord s.free 3 f.s3 d } t) = k x u := by
  simp only [sourcesOf] at h
  simp only [withPops]
  split at h
  · split at h
    · split at h
      · obtain ⟨rfl, rfl⟩ := Prod.mk.inj (Option.some.inj h)
        simp [*]
      · cases h
    · cases h
  · cases h

/-! ## Executing -/

/-- Where an instruction meets nothing before its own effect, executing it is that effect. -/
theorem executing_of_reads {f : Fields} {priv : Core → Option Trap} {also : List Opnd} {s u : State} {x : Srcs}
    (h : Reads f priv also s x u) (body : Srcs → State → State → Result) :
    executing f priv also s body = body x s (u.begin f) := by
  simp only [executing, h.allowed, h.live]
  exact withPops_of_sources h.sources fun x t => body x s (t.begin f)

/-- Where an instruction issues, it ends as its own effect does. -/
theorem issued_of_issues {f : Fields} {priv : Core → Option Trap} {also : List Opnd} {s u : State} {x : Srcs}
    (h : Issues f priv also s x u) (body : Srcs → State → State → Result) :
    issued f priv also s body = .next (body x s (u.begin f)).state := by
  simp only [issued, h.pred, h.executes, if_true, executing_of_reads h.toReads]

/-- Where its predicate bit forbids it, an instruction has no effect and the core goes on (R28). -/
theorem issued_off {f : Fields} (priv : Core → Option Trap) (also : List Opnd) {s : State}
    (hq : s.self.predTrap? f.pg = none) (h : s.self.executes s.free f.pg f.pn = false) (body : Srcs → State → State → Result) :
    issued f priv also s body = .next (s.goOn (nextAddr s.self.pc)) := by
  simp [issued, hq, h, Result.state]

/-- A freed predicate register traps where LUTRAP is set (R30). -/
theorem issued_pred {f : Fields} (priv : Core → Option Trap) (also : List Opnd) {s : State} {t : Trap}
    (h : s.self.predTrap? f.pg = some t) (body : Srcs → State → State → Result) :
    issued f priv also s body = .next (s.takeTrap s.cur t) := by
  simp [issued, h, Result.state]

/-- An instruction that the level does not permit takes its trap (R61, R391). -/
theorem issued_denied {f : Fields} {priv : Core → Option Trap} (also : List Opnd) {s : State} {t : Trap}
    (hq : s.self.predTrap? f.pg = none) (h : s.self.executes s.free f.pg f.pn = true) (hp : priv s.self = some t)
    (body : Srcs → State → State → Result) : issued f priv also s body = .next (s.takeTrap s.cur t) := by
  simp [issued, hq, h, executing, hp, Result.state]

/-- A use after the last use traps where LUTRAP is set (R30, R61). -/
theorem issued_used {f : Fields} {priv : Core → Option Trap} {also : List Opnd} {s : State} {o : Opnd}
    (hq : s.self.predTrap? f.pg = none) (h : s.self.executes s.free f.pg f.pn = true) (hp : priv s.self = none)
    (ho : s.self.usedFreed? ([f.s1, f.s2, f.s3] ++ also) = some o) (body : Srcs → State → State → Result) :
    issued f priv also s body = .next (s.takeTrap s.cur { cls := 0x06, detail := 0, tval := word (opndCode o) }) := by
  simp only [issued, hq, h, if_true, executing, hp, ho, Result.state]

/-- Everything that an instruction can do: a trap of its predicate register, nothing, a trap of its level or of a freed
source, a trap or a wait of a pop, or its own effect. -/
theorem issued_cases {f : Fields} {priv : Core → Option Trap} {also : List Opnd} {s t : State}
    {body : Srcs → State → State → Result} (h : issued f priv also s body = .next t) :
    (∃ p, s.self.predTrap? f.pg = some p ∧ t = s.takeTrap s.cur p) ∨
    (s.self.predTrap? f.pg = none ∧ s.self.executes s.free f.pg f.pn = false ∧ t = s.goOn (nextAddr s.self.pc)) ∨
    (s.self.predTrap? f.pg = none ∧ s.self.executes s.free f.pg f.pn = true ∧
      ((∃ p, priv s.self = some p ∧ t = s.takeTrap s.cur p) ∨
       (priv s.self = none ∧ ∃ o, s.self.usedFreed? ([f.s1, f.s2, f.s3] ++ also) = some o ∧
          t = s.takeTrap s.cur { cls := 0x06, detail := 0, tval := word (opndCode o) }) ∨
       (priv s.self = none ∧ sourcesOf f s = none ∧
          ((∃ p, t = s.takeTrap s.cur p) ∨ (∃ e p, t = (s.failEp s.cur e 0x04).takeTrap (s.failEp s.cur e 0x04).cur p) ∨
           ∃ w : Wait, t = s.onCore s.cur fun c => { c with wait := some { w with pc := c.pc } })) ∨
       ∃ x u, Issues f priv also s x u ∧ t = (body x s (u.begin f)).state)) := by
  cases hq : s.self.predTrap? f.pg with
  | some p =>
    rw [issued_pred priv also hq] at h
    exact .inl ⟨p, rfl, (Host.Outcome.next.inj h).symm⟩
  | none =>
  right
  cases hx : s.self.executes s.free f.pg f.pn
  · rw [issued_off priv also hq hx] at h
    exact .inl ⟨rfl, rfl, (Host.Outcome.next.inj h).symm⟩
  · refine .inr ⟨rfl, rfl, ?_⟩
    have ht : t = (executing f priv also s body).state := by
      simpa only [issued, hq, hx, if_true] using (Host.Outcome.next.inj h).symm
    cases hp : priv s.self with
    | some p => exact .inl ⟨p, rfl, by simpa [executing, hp, Result.state] using ht⟩
    | none =>
      right
      cases ho : s.self.usedFreed? ([f.s1, f.s2, f.s3] ++ also) with
      | some o => exact .inl ⟨rfl, o, rfl, by simpa only [executing, hp, ho, Result.state] using ht⟩
      | none =>
        right
        cases hs : sourcesOf f s with
        | some xu =>
          obtain ⟨x, u⟩ := xu
          exact .inr ⟨x, u, ⟨⟨hq, hp, ho, hs⟩, hx⟩, by rw [ht, executing_of_reads ⟨hq, hp, ho, hs⟩]⟩
        | none =>
          refine .inl ⟨rfl, rfl, ?_⟩
          simp only [executing, hp, ho, withPops] at ht
          simp only [sourcesOf] at hs
          split at ht
          · exact .inl ⟨_, ht⟩
          · split at ht
            · exact .inr (.inl ⟨_, _, ht⟩)
            · exact .inr (.inr ⟨_, ht⟩)
            · split at ht
              · exact .inr (.inl ⟨_, _, ht⟩)
              · exact .inr (.inr ⟨_, ht⟩)
              · split at ht
                · exact .inr (.inl ⟨_, _, ht⟩)
                · exact .inr (.inr ⟨_, ht⟩)
                · simp [*] at hs

/-! ## Register instructions -/

@[simp] theorem Core.freeLast_pc (c : Core) (f : Fields) : (c.freeLast f).pc = c.pc := by rw [Core.freeLast_eq]

@[simp] theorem Core.setDst_pc (c : Core) (o : Opnd) (x : Word) : (c.setDst o x).pc = c.pc := by rw [Core.setDst_eq]

/-- A scalar instruction that issues writes its value to D and goes on (R45, R76). -/
theorem scalarOp_of_issues {o : OpA} {s u : State} {x : Srcs} (h : Issues (fieldsA o) anyLevel [] s x u)
    (val : Srcs → Word) : scalarOp o s val = .next (wrote u (fieldsA o) o.d (val x)) := by
  simp [scalarOp, issued_of_issues h, Result.state, wrote, wroteTo]

/-- An instruction that changes its own core, and not its pc, goes on at its FallThrough. -/
theorem coreOp_of_issues {o : OpA} {s u : State} {x : Srcs} (h : Issues (fieldsA o) anyLevel [] s x u)
    (f : Srcs → Core → Core) :
    coreOp o s f = .next (((u.begin (fieldsA o)).setSelf (f x (u.begin (fieldsA o)).self)).goOn
      (nextAddr (f x (u.begin (fieldsA o)).self).pc)) := by
  simp only [coreOp, issued_of_issues h, Result.state, State.self_setSelf]

/-! ## Traps -/

/-- A trap at P2 is a monitor event with its own cause (R394). -/
theorem State.takeTrap_monitor (s : State) (i : Nat) (t : Trap) (h : (s.core i).level = 2) :
    s.takeTrap i t = s.monitorEvent i (word (t.detail * 256 + t.cls)) := by
  simp [State.takeTrap, h]

/-- A trap inside a handler is a monitor event with the cause of the first (R394). -/
theorem State.takeTrap_double (s : State) (i : Nat) (t : Trap) (h : (s.core i).level ≠ 2) (hi : (s.core i).intrap = true) :
    s.takeTrap i t = s.monitorEvent i (s.core i).kcause := by
  simp [State.takeTrap, h, hi]

/-- The state in which a trap has been saved: the registers and the trap record (R392, R393). -/
def State.saved (s : State) (i : Nat) (t : Trap) : State :=
  (s.setCore i ((s.core i).saveTrap t).stepOff).storeTcm i (s.core i).recordAt (trapRecord t ((s.core i).trapSeq + 1))

/-- A trap without a handler is a monitor event once it is saved (R394). -/
theorem State.takeTrap_unhandled (s : State) (i : Nat) (t : Trap) (h : (s.core i).level ≠ 2)
    (hi : (s.core i).intrap = false) (hv : bits (s.core i).kvec 6 58 = 0) :
    s.takeTrap i t = (s.saved i t).monitorEvent i (word (t.detail * 256 + t.cls)) := by
  simp only [State.takeTrap, h, hi, hv, if_true, if_false, State.saved, Bool.false_eq_true]

/-- Every other trap enters the handler at kvec.BASE (R393). -/
theorem State.takeTrap_handled (s : State) (i : Nat) (t : Trap) (h : (s.core i).level ≠ 2)
    (hi : (s.core i).intrap = false) (hv : bits (s.core i).kvec 6 58 ≠ 0) :
    s.takeTrap i t = (s.saved i t).onCore i Core.enterHandler := by
  simp only [State.takeTrap, h, hi, hv, if_false, State.saved, Bool.false_eq_true]

/-! ## One step -/

/-- What a step can do, in the order of the agenda. -/
theorem step_cases {s t : State} (h : step s = .next t) :
    s.cur < Config.coreCount ∧
    ((∃ i rest, s.agenda = .event i :: rest ∧
        (if isEvent i then exec i { s with agenda := rest } = .next t else t = { s with agenda := rest })) ∨
     (∃ n rest, s.agenda = .run n :: rest ∧
        t = { s with cur := if n < Config.coreCount then n else s.cur, agenda := rest }) ∨
     (∃ n rest, s.agenda = .elapse n :: rest ∧ t = pass s n rest) ∨
     (∃ n e rest, s.agenda = .evict n e :: rest ∧ t = evict { s with agenda := rest } n e) ∨
     (s.agenda = [] ∧ s.accepts s.cur = true ∧ t = s.accept s.cur) ∨
     (s.agenda = [] ∧ s.accepts s.cur = false ∧ runPlan s (plan s) = .next t)) := by
  unfold step at h
  split at h
  · cases h
  · refine ⟨by omega, ?_⟩
    split at h
    · rename_i i rest ha
      refine .inl ⟨i, rest, ha, ?_⟩
      split at h
      · simp_all
      · simp_all
    · exact .inr (.inl ⟨_, _, ‹_›, by simpa using h.symm⟩)
    · exact .inr (.inr (.inl ⟨_, _, ‹_›, by simpa using h.symm⟩))
    · exact .inr (.inr (.inr (.inl ⟨_, _, _, ‹_›, by simpa using h.symm⟩)))
    · split at h
      · exact .inr (.inr (.inr (.inr (.inl ⟨‹_›, ‹_›, by simpa using h.symm⟩))))
      · exact .inr (.inr (.inr (.inr (.inr ⟨‹_›, Bool.eq_false_iff.mpr ‹_›, h⟩))))

/-- A step whose agenda is empty issues the current core, unless it accepts a pre-emption request (R403). -/
theorem step_issues {s : State} (h : s.cur < Config.coreCount) (ha : s.agenda = []) (hr : s.accepts s.cur = false) :
    step s = runPlan s (plan s) := by
  have : ¬ Config.coreCount ≤ s.cur := by omega
  simp [step, this, ha, hr]

/-- A step whose agenda begins with an event runs it. -/
theorem step_event {s : State} {i : Instr} {rest : List Turn} (h : s.cur < Config.coreCount)
    (ha : s.agenda = .event i :: rest) (hi : isEvent i = true) : step s = exec i { s with agenda := rest } := by
  have : ¬ Config.coreCount ≤ s.cur := by omega
  simp [step, this, ha, hi]

end Sys2Proof.Machine
end

