-- ==== Sys2Proof/Laws/Keep.lean ====
section
/-! SUPPORT. The shared operations and the current core and memory: most of them change neither, and those that store
keep the canonical form of memory. -/
namespace Sys2Proof.Machine

/-- From s to t the current core is the same, and memory keeps its canonical form. -/
structure Keeps (s t : State) : Prop where
  cur : t.cur = s.cur
  form : Memory.wf s.mem = true → Memory.wf t.mem = true

theorem Keeps.refl (s : State) : Keeps s s := ⟨rfl, id⟩

theorem Keeps.trans {s t u : State} (h : Keeps s t) (g : Keeps t u) : Keeps s u :=
  ⟨g.cur.trans h.cur, g.form ∘ h.form⟩

/-- Where neither the current core nor memory differs. -/
theorem Keeps.of_eq {s t : State} (h : t.cur = s.cur ∧ t.mem = s.mem) : Keeps s t := ⟨h.1, by rw [h.2]; exact id⟩

theorem Keeps.foldl {α : Type} {f : State → α → State} (h : ∀ s x, Keeps s (f s x)) (l : List α) (s : State) :
    Keeps s (l.foldl f s) := by
  induction l generalizing s with
  | nil => exact .refl s
  | cons x r ih => exact (h s x).trans (ih (f s x))

/-- A fold of updates that change neither changes neither. -/
theorem foldl_same {α : Type} {f : State → α → State} (h : ∀ s x, (f s x).cur = s.cur ∧ (f s x).mem = s.mem)
    (l : List α) (s : State) : (l.foldl f s).cur = s.cur ∧ (l.foldl f s).mem = s.mem := by
  induction l generalizing s with
  | nil => exact ⟨rfl, rfl⟩
  | cons x r ih => exact ⟨(ih _).1.trans (h s x).1, (ih _).2.trans (h s x).2⟩

/-! ## Stores -/

theorem storeBytes_keeps (s : State) (k : Nat) (bs : List Byte) : Keeps s (storeBytes s k bs) :=
  ⟨rfl, writeBytes_wf k bs⟩

theorem storeEach_keeps (s : State) (bs : List (Nat × Byte)) : Keeps s (storeEach s bs) := by
  induction bs generalizing s with
  | nil => exact .refl s
  | cons b r ih =>
    have h : Keeps s { s with mem := writeByte s.mem b.1 b.2 } := ⟨rfl, writeByte_wf b.1 b.2⟩
    exact h.trans (ih _)

theorem State.clearRange_keeps (s : State) (k n : Nat) : Keeps s (s.clearRange k n) := ⟨rfl, filter_wf _⟩

theorem State.storeTcm_keeps (s : State) (i off : Nat) (bs : List Byte) : Keeps s (s.storeTcm i off bs) :=
  ⟨rfl, writeBytes_wf _ bs⟩

/-! ## Operations that change neither -/

@[simp] theorem State.correct_same (s : State) (k n : Nat) :
    (s.correct k n).cur = s.cur ∧ (s.correct k n).mem = s.mem := by
  unfold State.correct
  dsimp only
  split
  · simp
  · split <;> simp

@[simp] theorem State.leave_same (s : State) (pkg : Nat) (x : Transfer) :
    (s.leave pkg x).cur = s.cur ∧ (s.leave pkg x).mem = s.mem := by
  unfold State.leave
  split <;> simp

@[simp] theorem State.send_same (s : State) (dst ep chan src : Nat) (cls : Cls) (b : Body) :
    (s.send dst ep chan src cls b).cur = s.cur ∧ (s.send dst ep chan src cls b).mem = s.mem := ⟨rfl, rfl⟩

@[simp] theorem State.holdEndpoints_same (s : State) (i : Nat) (on : Bool) :
    (s.holdEndpoints i on).cur = s.cur ∧ (s.holdEndpoints i on).mem = s.mem := by
  unfold State.holdEndpoints
  refine foldl_same (fun s e => ?_) _ s
  dsimp only
  split
  · simp
  · split
    · split <;> simp
    · split
      · simp
      · split <;> simp
    · simp

@[simp] theorem State.monitorEvent_same (s : State) (i : Nat) (w : Word) :
    (s.monitorEvent i w).cur = s.cur ∧ (s.monitorEvent i w).mem = s.mem := by
  simp [State.monitorEvent]

@[simp] theorem State.launchAccess_same (s : State) (a : Access) :
    (s.launchAccess a).cur = s.cur ∧ (s.launchAccess a).mem = s.mem := ⟨rfl, rfl⟩

@[simp] theorem State.onAccess_same (s : State) (id : Nat) (f : Access → Access) :
    (s.onAccess id f).cur = s.cur ∧ (s.onAccess id f).mem = s.mem := ⟨rfl, rfl⟩

@[simp] theorem State.dropAccess_same (s : State) (id : Nat) :
    (s.dropAccess id).cur = s.cur ∧ (s.dropAccess id).mem = s.mem := ⟨rfl, rfl⟩

@[simp] theorem State.offerNotices_same (s : State) (p : Nat) :
    (s.offerNotices p).cur = s.cur ∧ (s.offerNotices p).mem = s.mem := by
  unfold State.offerNotices
  split
  · simp
  · simp
  · dsimp only
    split
    · simp
    · split <;> simp

@[simp] theorem State.notice_same (s : State) (p code : Nat) (w0 w1 : Word) (arg : Nat) :
    (s.notice p code w0 w1 arg).cur = s.cur ∧ (s.notice p code w0 w1 arg).mem = s.mem := by
  unfold State.notice
  split
  · simp
  · dsimp only
    split <;> simp

@[simp] theorem State.noticeWritten_same (s : State) (p st : Nat) :
    (s.noticeWritten p st).cur = s.cur ∧ (s.noticeWritten p st).mem = s.mem := by
  unfold State.noticeWritten
  split
  · simp
  · split <;> simp

@[simp] theorem State.onEp_same (s : State) (i e : Nat) (f : Endpoint → Endpoint) :
    (s.onEp i e f).cur = s.cur ∧ (s.onEp i e f).mem = s.mem := ⟨rfl, rfl⟩

@[simp] theorem State.countSent_same (s : State) (i : Nat) :
    (s.countSent i).cur = s.cur ∧ (s.countSent i).mem = s.mem := ⟨rfl, rfl⟩

@[simp] theorem State.countRcvd_same (s : State) (i : Nat) :
    (s.countRcvd i).cur = s.cur ∧ (s.countRcvd i).mem = s.mem := ⟨rfl, rfl⟩

@[simp] theorem State.sendPeer_same (s : State) (i e : Nat) (cls : Cls) (b : Body) :
    (s.sendPeer i e cls b).cur = s.cur ∧ (s.sendPeer i e cls b).mem = s.mem := by
  unfold State.sendPeer
  dsimp only
  split
  · split <;> simp
  · simp

@[simp] theorem State.transmit_same (s : State) (i e act mt : Nat) (cls : Cls) (data : List Byte) (poison : Bool)
    (d : Option Delegation) :
    (s.transmit i e act mt cls data poison d).cur = s.cur ∧ (s.transmit i e act mt cls data poison d).mem = s.mem := by
  simp [State.transmit]

@[simp] theorem State.linkSend_same (s : State) (i e : Nat) (w : Word) :
    (s.linkSend i e w).cur = s.cur ∧ (s.linkSend i e w).mem = s.mem := by
  simp [State.linkSend]

@[simp] theorem State.takeMsg_same (s : State) (i e act mt : Nat) :
    (s.takeMsg i e act mt).cur = s.cur ∧ (s.takeMsg i e act mt).mem = s.mem := by
  simp [State.takeMsg]

@[simp] theorem State.keepBuffer_same (s : State) (i e : Nat) :
    (s.keepBuffer i e).cur = s.cur ∧ (s.keepBuffer i e).mem = s.mem := by
  unfold State.keepBuffer
  dsimp only
  split <;> simp

@[simp] theorem State.closedNotice_same (s : State) (i e node : Nat) (w : Word) :
    (s.closedNotice i e node w).cur = s.cur ∧ (s.closedNotice i e node w).mem = s.mem := by
  simp [State.closedNotice]

@[simp] theorem State.peerFailed_same (s : State) (i e node : Nat) (w : Word) :
    (s.peerFailed i e node w).cur = s.cur ∧ (s.peerFailed i e node w).mem = s.mem := by
  unfold State.peerFailed
  split <;> simp

theorem State.orphanFuel_same (i n : Nat) : ∀ (s : State) (d : Delegation) (cause : Nat) (failed : Bool),
    (State.orphanFuel i n s d cause failed).cur = s.cur ∧ (State.orphanFuel i n s d cause failed).mem = s.mem := by
  induction n with
  | zero => exact fun s d cause failed => ⟨rfl, rfl⟩
  | succ n ih =>
    intro s d cause failed
    have hf : ∀ (l : List (Arrived × List Byte × Bool)) (t : State), (t.cur = s.cur ∧ t.mem = s.mem) →
        (l.foldl (fun (t : State) m => match m.1.deleg with
          | some e => State.orphanFuel i n t e cause failed
          | none => t) t).cur = s.cur ∧
        (l.foldl (fun (t : State) m => match m.1.deleg with
          | some e => State.orphanFuel i n t e cause failed
          | none => t) t).mem = s.mem := by
      intro l t ht
      have h := foldl_same (f := fun (t : State) (m : Arrived × List Byte × Bool) => match m.1.deleg with
          | some e => State.orphanFuel i n t e cause failed
          | none => t) (fun t m => by
            split
            · exact ih _ _ _ _
            · exact ⟨rfl, rfl⟩) l t
      exact ⟨h.1.trans ht.1, h.2.trans ht.2⟩
    unfold State.orphanFuel
    split
    · simp
    · split
      · simp
      · split
        · simp
        · split
          · simp
          · apply hf
            dsimp only
            split
            · simp
            · split <;> simp

@[simp] theorem State.orphan_same (s : State) (i : Nat) (d : Delegation) (cause : Nat) (failed : Bool) :
    (s.orphan i d cause failed).cur = s.cur ∧ (s.orphan i d cause failed).mem = s.mem :=
  State.orphanFuel_same i 16 s d cause failed

@[simp] theorem State.orphanAll_same (s : State) (i : Nat) (ms : List Arrived) (cause : Nat) (failed : Bool) :
    (s.orphanAll i ms cause failed).cur = s.cur ∧ (s.orphanAll i ms cause failed).mem = s.mem := by
  unfold State.orphanAll
  refine foldl_same (fun s m => ?_) _ s
  split <;> simp

@[simp] theorem State.unbindEp_same (s : State) (i e cause : Nat) (failed : Bool) :
    (s.unbindEp i e cause failed).cur = s.cur ∧ (s.unbindEp i e cause failed).mem = s.mem := by
  simp [State.unbindEp]

@[simp] theorem State.abortEp_same (s : State) (i e cause : Nat) (failed : Bool) :
    (s.abortEp i e cause failed).cur = s.cur ∧ (s.abortEp i e cause failed).mem = s.mem := by
  simp [State.abortEp]

@[simp] theorem State.failEp_same (s : State) (i e cause : Nat) :
    (s.failEp i e cause).cur = s.cur ∧ (s.failEp i e cause).mem = s.mem := by
  unfold State.failEp
  dsimp only
  split <;> simp

@[simp] theorem State.endStair_same (s : State) (n : Nat) :
    (s.endStair n).cur = s.cur ∧ (s.endStair n).mem = s.mem := by
  unfold State.endStair
  split
  · simp
  · dsimp only
    split
    · simp
    · have h := foldl_same (f := fun (t : State) i =>
        if ((t.core i).inStair n && (t.core i).memb && (t.core i).detached) = true then t.onCore i Core.independent else t)
        (fun t i => by split <;> simp)
      split
      · exact h _ s
      · have g := foldl_same (f := fun (t : State) i =>
          if (t.core i).inStair n = true then t.onCore i fun c => { c with place := none } else t)
          (fun t i => by split <;> simp)
        exact ⟨(g _ _).1.trans (h _ s).1, (g _ _).2.trans (h _ s).2⟩

@[simp] theorem State.forward_same (s : State) (i n : Nat) (f : Instr × Word × Bool) :
    (s.forward i n f).cur = s.cur ∧ (s.forward i n f).mem = s.mem := ⟨rfl, rfl⟩

@[simp] theorem elapse_same (s : State) (n : Nat) : (elapse s n).cur = s.cur ∧ (elapse s n).mem = s.mem := ⟨rfl, rfl⟩

@[simp] theorem pass_same (s : State) (n : Nat) (rest : List Turn) :
    (pass s n rest).cur = s.cur ∧ (pass s n rest).mem = s.mem := by
  unfold pass
  dsimp only
  split <;> simp

@[simp] theorem evict_same (s : State) (i n : Nat) : (evict s i n).cur = s.cur ∧ (evict s i n).mem = s.mem := ⟨rfl, rfl⟩

/-! ## Pops -/

/-- A pop of a port changes neither the current core nor memory (R173). -/
theorem State.forwardWord_same {s t : State} {i p : Nat} {w x : Word} (h : s.forwardWord i p w = .word x t) :
    x = w ∧ t.cur = s.cur ∧ t.mem = s.mem := by
  unfold State.forwardWord at h
  dsimp only at h
  split at h
  · obtain ⟨rfl, rfl⟩ := Popped.word.inj h; simp
  · split at h
    · cases h
    · split at h <;> (obtain ⟨rfl, rfl⟩ := Popped.word.inj h; simp)

@[simp] theorem State.popLink_same (s : State) (i e : Nat) :
    (s.popLink i e).cur = s.cur ∧ (s.popLink i e).mem = s.mem := by
  unfold State.popLink
  dsimp only
  split <;> simp

theorem State.popPort_same {s t : State} {i p : Nat} {fwd : Bool} {w : Word} (h : s.popPort i p fwd = .word w t) :
    t.cur = s.cur ∧ t.mem = s.mem := by
  unfold State.popPort at h
  dsimp only at h
  split at h
  · split at h
    · cases h
    · split at h
      · simpa using (State.forwardWord_same h).2
      · obtain ⟨rfl, rfl⟩ := Popped.word.inj h; simp
  · split at h
    · cases h
    · split at h
      · cases h
      · split at h
        · simpa using (State.forwardWord_same h).2
        · obtain ⟨rfl, rfl⟩ := Popped.word.inj h; simp

theorem State.popSrc_same {s t : State} {o : Opnd} {w : Word} (h : s.popSrc o = .word w t) :
    t.cur = s.cur ∧ t.mem = s.mem := by
  cases ho : isPort o with
  | true => cases o with
    | port p f => exact State.popPort_same h
    | _ => cases ho
  | false =>
    rw [State.popSrc_of_not_port s ho] at h
    rw [← (Popped.word.inj h).2]
    exact ⟨rfl, rfl⟩

/-- The pops of an instruction change neither (R78). -/
theorem sourcesOf_same {f : Fields} {s u : State} {x : Srcs} (h : sourcesOf f s = some (x, u)) :
    u.cur = s.cur ∧ u.mem = s.mem := by
  unfold sourcesOf at h
  split at h
  · split at h
    · split at h
      · rename_i _ h1 _ _ _ h2 _ _ _ h3
        obtain ⟨-, rfl⟩ := Prod.mk.inj (Option.some.inj h)
        have e1 := State.popSrc_same h1
        have e2 := State.popSrc_same h2
        have e3 := State.popSrc_same h3
        exact ⟨by rw [e3.1, e2.1, e1.1], by rw [e3.2, e2.2, e1.2]⟩
      · cases h
    · cases h
  · cases h

/-! ## Traps and ends of instructions -/

/-- Taking a trap stores its record and nothing else, and memory keeps its form (R392, R393). -/
theorem State.takeTrap_keeps (s : State) (i : Nat) (t : Trap) : Keeps s (s.takeTrap i t) := by
  unfold State.takeTrap
  dsimp only
  split
  · exact .of_eq (by simp)
  · split
    · exact .of_eq (by simp)
    · have h : Keeps s ((s.setCore i ((s.core i).saveTrap t).stepOff).storeTcm i (s.core i).recordAt
          (trapRecord t ((s.core i).trapSeq + 1))) :=
        Keeps.trans (t := s.setCore i ((s.core i).saveTrap t).stepOff) (.of_eq ⟨rfl, rfl⟩)
          (State.storeTcm_keeps _ i _ _)
      split
      · exact h.trans (.of_eq (State.monitorEvent_same _ _ _))
      · exact h.trans (.of_eq ⟨State.onCore_cur _ _ _, State.onCore_mem _ _ _⟩)

/-- A result on a state that keeps the form of s. -/
def Result.Keeps (s : State) : Result → Prop
  | .ok t | .jump t _ | .trap t _ | .wait t _ | .stay t => Machine.Keeps s t

theorem Result.state_keeps {s : State} {r : Result} (h : r.Keeps s) : Machine.Keeps s r.state := by
  cases r with
  | ok t => exact h.trans (.of_eq (by simp [Result.state]))
  | jump t pc => exact h.trans (.of_eq (by simp [Result.state]))
  | trap t x => exact h.trans (State.takeTrap_keeps t t.cur x)
  | wait t w => exact h.trans (.of_eq (by simp [Result.state]))
  | stay t => exact h

/-- An instruction keeps the form where its own effect does. -/
theorem issued_keeps {f : Fields} {priv : Core → Option Trap} {also : List Opnd} {s t : State}
    {body : Srcs → State → State → Result} (h : issued f priv also s body = .next t)
    (hb : ∀ x u, Issues f priv also s x u → (body x s (u.begin f)).Keeps s) : Keeps s t := by
  obtain ⟨p, -, rfl⟩ | ⟨-, -, rfl⟩ | ⟨-, -, ⟨p, -, rfl⟩ | ⟨-, o, -, rfl⟩ | ⟨-, -, ⟨p, rfl⟩ | ⟨e, p, rfl⟩ | ⟨w, rfl⟩⟩ |
    ⟨x, u, hi, rfl⟩⟩ := issued_cases h
  · exact State.takeTrap_keeps s s.cur p
  · exact .of_eq (by simp)
  · exact State.takeTrap_keeps s s.cur p
  · exact State.takeTrap_keeps s s.cur _
  · exact State.takeTrap_keeps s s.cur p
  · exact Keeps.trans (.of_eq (by simp)) (State.takeTrap_keeps _ _ p)
  · exact .of_eq (by simp)
  · exact Result.state_keeps (hb x u hi)

/-- The state in which an instruction writes keeps the form of the state it began on. -/
theorem Issues.begin_keeps {f : Fields} {priv : Core → Option Trap} {also : List Opnd} {s u : State} {x : Srcs}
    (h : Issues f priv also s x u) : Keeps s (u.begin f) :=
  (Keeps.of_eq (sourcesOf_same h.sources)).trans (.of_eq (by simp))

/-- A scalar instruction keeps the form. -/
theorem scalarOp_keeps {o : OpA} {s t : State} {val : Srcs → Word} (h : scalarOp o s val = .next t) : Keeps s t :=
  issued_keeps h fun _ _ hi => hi.begin_keeps.trans (.of_eq (by simp))

/-- So does one that changes its own core. -/
theorem coreOp_keeps {o : OpA} {s t : State} {f : Srcs → Core → Core} (h : coreOp o s f = .next t) : Keeps s t :=
  issued_keeps h fun _ _ hi => hi.begin_keeps.trans (.of_eq (by simp))

/-- The illegal-encoding trap keeps the form (R60). -/
theorem illegalAt_keeps (s : State) (d : Illegal) : Keeps s (illegalAt s d) := by
  unfold illegalAt
  exact State.takeTrap_keeps s s.cur _

/-- What follows an instruction keeps the form. -/
theorem finishIssue_keeps (s t : State) (fwd : Option (Instr × Word × Bool)) (f : Finish) :
    Keeps t (finishIssue s t fwd f) := by
  have h1 : ∀ u : State, Keeps t u → Keeps t (if (f.dstep && completed s t && !(u.core s.cur).wdogPending) = true
      then (u.takeTrap s.cur { cls := 0x0C, detail := 0x02, epc := some (nextAddr s.self.pc) }).endStair s.self.stairNo
      else u) := fun u hu => by
    split
    · exact (hu.trans (State.takeTrap_keeps u s.cur _)).trans (.of_eq (State.endStair_same _ _))
    · exact hu
  have h2 : ∀ u : State, Keeps t u → Keeps t (if completed s t = true then
      u.onCore s.cur fun c => { c with stepping := false } else u) := fun u hu => by
    split
    · exact hu.trans (.of_eq (by simp))
    · exact hu
  have h3 : ∀ u : State, Keeps t u → Keeps t (match f.item with
      | some x => if (u.core s.cur).wait.isSome = true then u
          else (u.onCore s.cur fun c => c.afterItem x (completed s t) (u.lastItem c)).endStair s.self.stairNo
      | none => u) := fun u hu => by
    split
    · split
      · exact hu
      · exact hu.trans (.of_eq (by simp))
    · exact hu
  unfold finishIssue
  dsimp only
  refine h1 _ (h2 _ (h3 _ ?_))
  split
  · split
    · exact .of_eq (by simp)
    · split
      · split
        · exact .of_eq (by simp)
        · exact .refl t
      · exact .of_eq (by simp)
  · exact .refl t

end Sys2Proof.Machine
end

