-- ==== Sys2Proof/Laws/PerInstr.lean ====
section
/-! SUPPORT. The family F: every constructor agrees with its operation number and its format, and the fields behind an
instruction give it back (R57, R58, R299, R413); the events of the part have no word. -/
namespace Sys2Proof.Laws.F
open Sys2Proof Sys2Proof.Machine

/-- What the encoding of one constructor rests on. -/
def Statement (i : Instr) : Prop :=
  match view i with
  | .a op o => fmtOfOp op = .a ∧ op < 512 ∧ isEvent i = false ∧ (formOk i = true → buildA op o = some i)
  | .m op o => fmtOfOp op = .m ∧ op < 512 ∧ isEvent i = false ∧ (formOk i = true → buildM op o = some i)
  | .c op o => fmtOfOp op = .c ∧ op < 512 ∧ isEvent i = false ∧ (formOk i = true → buildC op o = some i)
  | .event => isEvent i = true ∧ encode i = none


theorem add (o : OpA) : Statement (.add o) := ⟨rfl, by decide, rfl, fun _ => rfl⟩
theorem sub (o : OpA) : Statement (.sub o) := ⟨rfl, by decide, rfl, fun _ => rfl⟩
theorem addi (o : OpA) : Statement (.addi o) := ⟨rfl, by decide, rfl, fun _ => rfl⟩
theorem mul (o : OpA) : Statement (.mul o) := ⟨rfl, by decide, rfl, fun _ => rfl⟩
theorem mulh (o : OpA) : Statement (.mulh o) := ⟨rfl, by decide, rfl, fun _ => rfl⟩
theorem mulhn (o : OpA) : Statement (.mulhn o) := ⟨rfl, by decide, rfl, fun _ => rfl⟩
theorem div (o : OpA) : Statement (.div o) := ⟨rfl, by decide, rfl, fun _ => rfl⟩
theorem divn (o : OpA) : Statement (.divn o) := ⟨rfl, by decide, rfl, fun _ => rfl⟩
theorem rem (o : OpA) : Statement (.rem o) := ⟨rfl, by decide, rfl, fun _ => rfl⟩
theorem remn (o : OpA) : Statement (.remn o) := ⟨rfl, by decide, rfl, fun _ => rfl⟩
theorem and (o : OpA) : Statement (.and o) := ⟨rfl, by decide, rfl, fun _ => rfl⟩
theorem or (o : OpA) : Statement (.or o) := ⟨rfl, by decide, rfl, fun _ => rfl⟩
theorem xor (o : OpA) : Statement (.xor o) := ⟨rfl, by decide, rfl, fun _ => rfl⟩
theorem andn (o : OpA) : Statement (.andn o) := ⟨rfl, by decide, rfl, fun _ => rfl⟩
theorem orn (o : OpA) : Statement (.orn o) := ⟨rfl, by decide, rfl, fun _ => rfl⟩
theorem shl (o : OpA) : Statement (.shl o) := ⟨rfl, by decide, rfl, fun _ => rfl⟩
theorem shr (o : OpA) : Statement (.shr o) := ⟨rfl, by decide, rfl, fun _ => rfl⟩
theorem shra (o : OpA) : Statement (.shra o) := ⟨rfl, by decide, rfl, fun _ => rfl⟩
theorem rotl (o : OpA) : Statement (.rotl o) := ⟨rfl, by decide, rfl, fun _ => rfl⟩
theorem rotr (o : OpA) : Statement (.rotr o) := ⟨rfl, by decide, rfl, fun _ => rfl⟩
theorem clz (o : OpA) : Statement (.clz o) := ⟨rfl, by decide, rfl, fun _ => rfl⟩
theorem ctz (o : OpA) : Statement (.ctz o) := ⟨rfl, by decide, rfl, fun _ => rfl⟩
theorem popc (o : OpA) : Statement (.popc o) := ⟨rfl, by decide, rfl, fun _ => rfl⟩
theorem min (o : OpA) : Statement (.min o) := ⟨rfl, by decide, rfl, fun _ => rfl⟩
theorem max (o : OpA) : Statement (.max o) := ⟨rfl, by decide, rfl, fun _ => rfl⟩
theorem minn (o : OpA) : Statement (.minn o) := ⟨rfl, by decide, rfl, fun _ => rfl⟩
theorem maxn (o : OpA) : Statement (.maxn o) := ⟨rfl, by decide, rfl, fun _ => rfl⟩
theorem sel (o : OpA) : Statement (.sel o) := ⟨rfl, by decide, rfl, fun _ => rfl⟩
theorem mov (o : OpA) : Statement (.mov o) := ⟨rfl, by decide, rfl, fun _ => rfl⟩
theorem movi (o : OpA) : Statement (.movi o) := ⟨rfl, by decide, rfl, fun _ => rfl⟩
theorem movhi (o : OpA) : Statement (.movhi o) := ⟨rfl, by decide, rfl, fun _ => rfl⟩
theorem lea (o : OpA) : Statement (.lea o) := ⟨rfl, by decide, rfl, fun _ => rfl⟩
theorem cmp (o : OpA) : Statement (.cmp o) := ⟨rfl, by decide, rfl, fun _ => rfl⟩
theorem qand (o : OpA) : Statement (.qand o) := ⟨rfl, by decide, rfl, fun _ => rfl⟩
theorem qor (o : OpA) : Statement (.qor o) := ⟨rfl, by decide, rfl, fun _ => rfl⟩
theorem qxor (o : OpA) : Statement (.qxor o) := ⟨rfl, by decide, rfl, fun _ => rfl⟩
theorem qnot (o : OpA) : Statement (.qnot o) := ⟨rfl, by decide, rfl, fun _ => rfl⟩
theorem bfx (o : OpA) : Statement (.bfx o) := ⟨rfl, by decide, rfl, fun _ => rfl⟩
theorem bfi (o : OpA) : Statement (.bfi o) := ⟨rfl, by decide, rfl, fun _ => rfl⟩
theorem exts (o : OpA) : Statement (.exts o) := ⟨rfl, by decide, rfl, fun _ => rfl⟩
theorem extz (o : OpA) : Statement (.extz o) := ⟨rfl, by decide, rfl, fun _ => rfl⟩
theorem crd (o : OpA) : Statement (.crd o) := ⟨rfl, by decide, rfl, fun _ => rfl⟩
theorem cwr (o : OpA) : Statement (.cwr o) := ⟨rfl, by decide, rfl, fun _ => rfl⟩
theorem br (o : OpA) : Statement (.br o) := ⟨rfl, by decide, rfl, fun _ => rfl⟩
theorem brc (o : OpA) : Statement (.brc o) := ⟨rfl, by decide, rfl, fun _ => rfl⟩
theorem jmp (o : OpA) : Statement (.jmp o) := ⟨rfl, by decide, rfl, fun _ => rfl⟩
theorem callDirect (o : OpA) : Statement (.callDirect o) := ⟨rfl, by decide, rfl, fun h => by simp_all [formOk, buildA]⟩
theorem callIndirect (o : OpA) : Statement (.callIndirect o) := ⟨rfl, by decide, rfl, fun h => by simp_all [formOk, buildA]⟩
theorem ret (o : OpA) : Statement (.ret o) := ⟨rfl, by decide, rfl, fun _ => rfl⟩
theorem loop (o : OpA) : Statement (.loop o) := ⟨rfl, by decide, rfl, fun _ => rfl⟩
theorem nop (o : OpA) : Statement (.nop o) := ⟨rfl, by decide, rfl, fun _ => rfl⟩
theorem exit (o : OpA) : Statement (.exit o) := ⟨rfl, by decide, rfl, fun _ => rfl⟩
theorem syscall (o : OpA) : Statement (.syscall o) := ⟨rfl, by decide, rfl, fun _ => rfl⟩
theorem stair (o : OpA) : Statement (.stair o) := ⟨rfl, by decide, rfl, fun _ => rfl⟩
theorem follow (o : OpA) : Statement (.follow o) := ⟨rfl, by decide, rfl, fun _ => rfl⟩
theorem leave (o : OpA) : Statement (.leave o) := ⟨rfl, by decide, rfl, fun _ => rfl⟩
theorem land (o : OpA) : Statement (.land o) := ⟨rfl, by decide, rfl, fun _ => rfl⟩
theorem ifence (o : OpA) : Statement (.ifence o) := ⟨rfl, by decide, rfl, fun _ => rfl⟩
theorem launch (o : OpA) : Statement (.launch o) := ⟨rfl, by decide, rfl, fun _ => rfl⟩
theorem spawn (o : OpA) : Statement (.spawn o) := ⟨rfl, by decide, rfl, fun _ => rfl⟩
theorem take (o : OpA) : Statement (.take o) := ⟨rfl, by decide, rfl, fun _ => rfl⟩
theorem join (o : OpA) : Statement (.join o) := ⟨rfl, by decide, rfl, fun _ => rfl⟩
theorem done (o : OpA) : Statement (.done o) := ⟨rfl, by decide, rfl, fun _ => rfl⟩
theorem sstep (o : OpA) : Statement (.sstep o) := ⟨rfl, by decide, rfl, fun _ => rfl⟩
theorem yield (o : OpA) : Statement (.yield o) := ⟨rfl, by decide, rfl, fun _ => rfl⟩
theorem wdog (o : OpA) : Statement (.wdog o) := ⟨rfl, by decide, rfl, fun _ => rfl⟩
theorem ld (o : OpA) : Statement (.ld o) := ⟨rfl, by decide, rfl, fun _ => rfl⟩
theorem st (o : OpA) : Statement (.st o) := ⟨rfl, by decide, rfl, fun _ => rfl⟩
theorem ldp (o : OpA) : Statement (.ldp o) := ⟨rfl, by decide, rfl, fun _ => rfl⟩
theorem stp (o : OpA) : Statement (.stp o) := ⟨rfl, by decide, rfl, fun _ => rfl⟩
theorem vld (o : OpA) : Statement (.vld o) := ⟨rfl, by decide, rfl, fun _ => rfl⟩
theorem vst (o : OpA) : Statement (.vst o) := ⟨rfl, by decide, rfl, fun _ => rfl⟩
theorem latom (o : OpA) : Statement (.latom o) := ⟨rfl, by decide, rfl, fun _ => rfl⟩
theorem park (o : OpA) : Statement (.park o) := ⟨rfl, by decide, rfl, fun _ => rfl⟩
theorem unpark (o : OpA) : Statement (.unpark o) := ⟨rfl, by decide, rfl, fun _ => rfl⟩
theorem connect (o : OpC) : Statement (.connect o) := ⟨rfl, by decide, rfl, fun _ => rfl⟩
theorem accept (o : OpC) : Statement (.accept o) := ⟨rfl, by decide, rfl, fun _ => rfl⟩
theorem send (o : OpC) : Statement (.send o) := ⟨rfl, by decide, rfl, fun _ => rfl⟩
theorem sendv (o : OpC) : Statement (.sendv o) := ⟨rfl, by decide, rfl, fun _ => rfl⟩
theorem sendt (o : OpC) : Statement (.sendt o) := ⟨rfl, by decide, rfl, fun _ => rfl⟩
theorem recv (o : OpC) : Statement (.recv o) := ⟨rfl, by decide, rfl, fun _ => rfl⟩
theorem recvv (o : OpC) : Statement (.recvv o) := ⟨rfl, by decide, rfl, fun _ => rfl⟩
theorem recvt (o : OpC) : Statement (.recvt o) := ⟨rfl, by decide, rfl, fun _ => rfl⟩
theorem offer (o : OpC) : Statement (.offer o) := ⟨rfl, by decide, rfl, fun _ => rfl⟩
theorem select (o : OpC) : Statement (.select o) := ⟨rfl, by decide, rfl, fun _ => rfl⟩
theorem probe (o : OpC) : Statement (.probe o) := ⟨rfl, by decide, rfl, fun _ => rfl⟩
theorem deleg (o : OpC) : Statement (.deleg o) := ⟨rfl, by decide, rfl, fun _ => rfl⟩
theorem adopt (o : OpC) : Statement (.adopt o) := ⟨rfl, by decide, rfl, fun _ => rfl⟩
theorem close (o : OpC) : Statement (.close o) := ⟨rfl, by decide, rfl, fun _ => rfl⟩
theorem abort (o : OpC) : Statement (.abort o) := ⟨rfl, by decide, rfl, fun _ => rfl⟩
theorem epstat (o : OpC) : Statement (.epstat o) := ⟨rfl, by decide, rfl, fun _ => rfl⟩
theorem pload (o : OpC) : Statement (.pload o) := ⟨rfl, by decide, rfl, fun _ => rfl⟩
theorem get (o : OpM) : Statement (.get o) := ⟨rfl, by decide, rfl, fun _ => rfl⟩
theorem put (o : OpM) : Statement (.put o) := ⟨rfl, by decide, rfl, fun _ => rfl⟩
theorem rst (o : OpM) : Statement (.rst o) := ⟨rfl, by decide, rfl, fun _ => rfl⟩
theorem rstv (o : OpM) : Statement (.rstv o) := ⟨rfl, by decide, rfl, fun _ => rfl⟩
theorem copy (o : OpM) : Statement (.copy o) := ⟨rfl, by decide, rfl, fun _ => rfl⟩
theorem gather (o : OpM) : Statement (.gather o) := ⟨rfl, by decide, rfl, fun _ => rfl⟩
theorem scatter (o : OpM) : Statement (.scatter o) := ⟨rfl, by decide, rfl, fun _ => rfl⟩
theorem mcast (o : OpM) : Statement (.mcast o) := ⟨rfl, by decide, rfl, fun _ => rfl⟩
theorem rflush (o : OpM) : Statement (.rflush o) := ⟨rfl, by decide, rfl, fun _ => rfl⟩
theorem binit (o : OpM) : Statement (.binit o) := ⟨rfl, by decide, rfl, fun _ => rfl⟩
theorem arrive (o : OpM) : Statement (.arrive o) := ⟨rfl, by decide, rfl, fun _ => rfl⟩
theorem bwait (o : OpM) : Statement (.bwait o) := ⟨rfl, by decide, rfl, fun _ => rfl⟩
theorem btest (o : OpM) : Statement (.btest o) := ⟨rfl, by decide, rfl, fun _ => rfl⟩
theorem tlwait (o : OpM) : Statement (.tlwait o) := ⟨rfl, by decide, rfl, fun _ => rfl⟩
theorem tlread (o : OpM) : Statement (.tlread o) := ⟨rfl, by decide, rfl, fun _ => rfl⟩
theorem fence (o : OpM) : Statement (.fence o) := ⟨rfl, by decide, rfl, fun _ => rfl⟩
theorem fencex (o : OpM) : Statement (.fencex o) := ⟨rfl, by decide, rfl, fun _ => rfl⟩
theorem ratom (o : OpM) : Statement (.ratom o) := ⟨rfl, by decide, rfl, fun _ => rfl⟩
theorem ratomp (o : OpM) : Statement (.ratomp o) := ⟨rfl, by decide, rfl, fun _ => rfl⟩
theorem waita (o : OpM) : Statement (.waita o) := ⟨rfl, by decide, rfl, fun _ => rfl⟩
theorem vadd (o : OpA) : Statement (.vadd o) := ⟨rfl, by decide, rfl, fun _ => rfl⟩
theorem vsub (o : OpA) : Statement (.vsub o) := ⟨rfl, by decide, rfl, fun _ => rfl⟩
theorem vmul (o : OpA) : Statement (.vmul o) := ⟨rfl, by decide, rfl, fun _ => rfl⟩
theorem vfma (o : OpA) : Statement (.vfma o) := ⟨rfl, by decide, rfl, fun _ => rfl⟩
theorem vfms (o : OpA) : Statement (.vfms o) := ⟨rfl, by decide, rfl, fun _ => rfl⟩
theorem vfnma (o : OpA) : Statement (.vfnma o) := ⟨rfl, by decide, rfl, fun _ => rfl⟩
theorem vmin (o : OpA) : Statement (.vmin o) := ⟨rfl, by decide, rfl, fun _ => rfl⟩
theorem vmax (o : OpA) : Statement (.vmax o) := ⟨rfl, by decide, rfl, fun _ => rfl⟩
theorem vabs (o : OpA) : Statement (.vabs o) := ⟨rfl, by decide, rfl, fun _ => rfl⟩
theorem vneg (o : OpA) : Statement (.vneg o) := ⟨rfl, by decide, rfl, fun _ => rfl⟩
theorem vdiv (o : OpA) : Statement (.vdiv o) := ⟨rfl, by decide, rfl, fun _ => rfl⟩
theorem vsqrt (o : OpA) : Statement (.vsqrt o) := ⟨rfl, by decide, rfl, fun _ => rfl⟩
theorem vrcp (o : OpA) : Statement (.vrcp o) := ⟨rfl, by decide, rfl, fun _ => rfl⟩
theorem vrsq (o : OpA) : Statement (.vrsq o) := ⟨rfl, by decide, rfl, fun _ => rfl⟩
theorem vexp2 (o : OpA) : Statement (.vexp2 o) := ⟨rfl, by decide, rfl, fun _ => rfl⟩
theorem vlog2 (o : OpA) : Statement (.vlog2 o) := ⟨rfl, by decide, rfl, fun _ => rfl⟩
theorem vand (o : OpA) : Statement (.vand o) := ⟨rfl, by decide, rfl, fun _ => rfl⟩
theorem vor (o : OpA) : Statement (.vor o) := ⟨rfl, by decide, rfl, fun _ => rfl⟩
theorem vxor (o : OpA) : Statement (.vxor o) := ⟨rfl, by decide, rfl, fun _ => rfl⟩
theorem vshl (o : OpA) : Statement (.vshl o) := ⟨rfl, by decide, rfl, fun _ => rfl⟩
theorem vshr (o : OpA) : Statement (.vshr o) := ⟨rfl, by decide, rfl, fun _ => rfl⟩
theorem vshra (o : OpA) : Statement (.vshra o) := ⟨rfl, by decide, rfl, fun _ => rfl⟩
theorem vcmp (o : OpA) : Statement (.vcmp o) := ⟨rfl, by decide, rfl, fun _ => rfl⟩
theorem vsel (o : OpA) : Statement (.vsel o) := ⟨rfl, by decide, rfl, fun _ => rfl⟩
theorem vperm (o : OpA) : Statement (.vperm o) := ⟨rfl, by decide, rfl, fun _ => rfl⟩
theorem vbcast (o : OpA) : Statement (.vbcast o) := ⟨rfl, by decide, rfl, fun _ => rfl⟩
theorem vext (o : OpA) : Statement (.vext o) := ⟨rfl, by decide, rfl, fun _ => rfl⟩
theorem vins (o : OpA) : Statement (.vins o) := ⟨rfl, by decide, rfl, fun _ => rfl⟩
theorem vred (o : OpA) : Statement (.vred o) := ⟨rfl, by decide, rfl, fun _ => rfl⟩
theorem vdot (o : OpA) : Statement (.vdot o) := ⟨rfl, by decide, rfl, fun _ => rfl⟩
theorem vcvt (o : OpA) : Statement (.vcvt o) := ⟨rfl, by decide, rfl, fun _ => rfl⟩
theorem vquant (o : OpA) : Statement (.vquant o) := ⟨rfl, by decide, rfl, fun _ => rfl⟩
theorem vdeq (o : OpA) : Statement (.vdeq o) := ⟨rfl, by decide, rfl, fun _ => rfl⟩
theorem vpack (o : OpA) : Statement (.vpack o) := ⟨rfl, by decide, rfl, fun _ => rfl⟩
theorem vunpk (o : OpA) : Statement (.vunpk o) := ⟨rfl, by decide, rfl, fun _ => rfl⟩
theorem vmov (o : OpA) : Statement (.vmov o) := ⟨rfl, by decide, rfl, fun _ => rfl⟩
theorem vmovi (o : OpA) : Statement (.vmovi o) := ⟨rfl, by decide, rfl, fun _ => rfl⟩
theorem cevrd (o : OpA) : Statement (.cevrd o) := ⟨rfl, by decide, rfl, fun _ => rfl⟩
theorem mloadw (o : OpM) : Statement (.mloadw o) := ⟨rfl, by decide, rfl, fun _ => rfl⟩
theorem mstream (o : OpM) : Statement (.mstream o) := ⟨rfl, by decide, rfl, fun _ => rfl⟩
theorem mfmt (o : OpM) : Statement (.mfmt o) := ⟨rfl, by decide, rfl, fun _ => rfl⟩
theorem mclr (o : OpM) : Statement (.mclr o) := ⟨rfl, by decide, rfl, fun _ => rfl⟩
theorem mdrain (o : OpM) : Statement (.mdrain o) := ⟨rfl, by decide, rfl, fun _ => rfl⟩
theorem amovRead (o : OpM) : Statement (.amovRead o) := ⟨rfl, by decide, rfl, fun h => by simp_all [formOk, buildM]⟩
theorem amovWrite (o : OpM) : Statement (.amovWrite o) := ⟨rfl, by decide, rfl, fun h => by simp_all [formOk, buildM]⟩
theorem mstat (o : OpM) : Statement (.mstat o) := ⟨rfl, by decide, rfl, fun _ => rfl⟩
theorem mcmd (o : OpM) : Statement (.mcmd o) := ⟨rfl, by decide, rfl, fun _ => rfl⟩
theorem mcap (o : OpM) : Statement (.mcap o) := ⟨rfl, by decide, rfl, fun _ => rfl⟩
theorem red (o : OpM) : Statement (.red o) := ⟨rfl, by decide, rfl, fun _ => rfl⟩
theorem redw (o : OpM) : Statement (.redw o) := ⟨rfl, by decide, rfl, fun _ => rfl⟩
theorem csum (o : OpM) : Statement (.csum o) := ⟨rfl, by decide, rfl, fun _ => rfl⟩
theorem vote (o : OpM) : Statement (.vote o) := ⟨rfl, by decide, rfl, fun _ => rfl⟩
theorem guard (o : OpA) : Statement (.guard o) := ⟨rfl, by decide, rfl, fun _ => rfl⟩
theorem budget (o : OpA) : Statement (.budget o) := ⟨rfl, by decide, rfl, fun _ => rfl⟩
theorem tret (o : OpA) : Statement (.tret o) := ⟨rfl, by decide, rfl, fun _ => rfl⟩
theorem brk (o : OpA) : Statement (.brk o) := ⟨rfl, by decide, rfl, fun _ => rfl⟩
theorem csave (o : OpA) : Statement (.csave o) := ⟨rfl, by decide, rfl, fun h => by simp_all [formOk, buildA]⟩
theorem csaveRect (o : OpA) : Statement (.csaveRect o) := ⟨rfl, by decide, rfl, fun h => by simp_all [formOk, buildA]⟩
theorem crest (o : OpA) : Statement (.crest o) := ⟨rfl, by decide, rfl, fun h => by simp_all [formOk, buildA]⟩
theorem crestRect (o : OpA) : Statement (.crestRect o) := ⟨rfl, by decide, rfl, fun h => by simp_all [formOk, buildA]⟩
theorem shoot (o : OpA) : Statement (.shoot o) := ⟨rfl, by decide, rfl, fun _ => rfl⟩
theorem stairFormation (head : Nat) : Statement (.stairFormation head) := ⟨rfl, rfl⟩
theorem landing (head : Nat) : Statement (.landing head) := ⟨rfl, rfl⟩
theorem lineFill (core : Nat) (line : Word) : Statement (.lineFill core line) := ⟨rfl, rfl⟩
theorem entryDrain (cluster : Nat) (entry : Nat) : Statement (.entryDrain cluster entry) := ⟨rfl, rfl⟩
theorem remoteAccessArrival (access : AccessRef) : Statement (.remoteAccessArrival access) := ⟨rfl, rfl⟩
theorem pageRequestPost (iface : Nat) : Statement (.pageRequestPost iface) := ⟨rfl, rfl⟩
theorem pageReply (pnum : Nat) (stage : Nat) : Statement (.pageReply pnum stage) := ⟨rfl, rfl⟩
theorem acknowledgement (access : Nat) (outside : Reply) : Statement (.acknowledgement access outside) := ⟨rfl, rfl⟩
theorem engineItemEnd (item : ItemRef) (outside : Reply) : Statement (.engineItemEnd item outside) := ⟨rfl, rfl⟩
theorem combinedAcknowledgement (item : ItemRef) (outside : List (Nat × Nat)) : Statement (.combinedAcknowledgement item outside) := ⟨rfl, rfl⟩
theorem messageArrival (packet : Nat) : Statement (.messageArrival packet) := ⟨rfl, rfl⟩
theorem creditReturn (packet : Nat) : Statement (.creditReturn packet) := ⟨rfl, rfl⟩
theorem closeNotice (packet : Nat) : Statement (.closeNotice packet) := ⟨rfl, rfl⟩
theorem holdNotice (packet : Nat) : Statement (.holdNotice packet) := ⟨rfl, rfl⟩
theorem releaseNotice (packet : Nat) : Statement (.releaseNotice packet) := ⟨rfl, rfl⟩
theorem connectionRequest (packet : Nat) : Statement (.connectionRequest packet) := ⟨rfl, rfl⟩
theorem acceptorAnswer (packet : Nat) : Statement (.acceptorAnswer packet) := ⟨rfl, rfl⟩
theorem confirmation (packet : Nat) : Statement (.confirmation packet) := ⟨rfl, rfl⟩
theorem withdrawal (packet : Nat) : Statement (.withdrawal packet) := ⟨rfl, rfl⟩
theorem memoryPeerRequest (chan : Nat) : Statement (.memoryPeerRequest chan) := ⟨rfl, rfl⟩
theorem adoptedNotice (packet : Nat) : Statement (.adoptedNotice packet) := ⟨rfl, rfl⟩
theorem redirect (packet : Nat) : Statement (.redirect packet) := ⟨rfl, rfl⟩
theorem redirectAnswer (packet : Nat) : Statement (.redirectAnswer packet) := ⟨rfl, rfl⟩
theorem remoteArrival (packet : Nat) : Statement (.remoteArrival packet) := ⟨rfl, rfl⟩
theorem contribution (packet : Nat) : Statement (.contribution packet) := ⟨rfl, rfl⟩
theorem nodeTimerExpiry (node : Nat) : Statement (.nodeTimerExpiry node) := ⟨rfl, rfl⟩
theorem resultArrival (packet : Nat) : Statement (.resultArrival packet) := ⟨rfl, rfl⟩
theorem superstepComplete (tree : Nat) : Statement (.superstepComplete tree) := ⟨rfl, rfl⟩
theorem voteComplete (tree : Nat) : Statement (.voteComplete tree) := ⟨rfl, rfl⟩
theorem waitaWake (core : Nat) : Statement (.waitaWake core) := ⟨rfl, rfl⟩
theorem capWord (chan : Nat) : Statement (.capWord chan) := ⟨rfl, rfl⟩
theorem commandVector (chan : Nat) : Statement (.commandVector chan) := ⟨rfl, rfl⟩
theorem matrixQueueRun (core : Nat) : Statement (.matrixQueueRun core) := ⟨rfl, rfl⟩
theorem schedulerTurn (pnum : Nat) : Statement (.schedulerTurn pnum) := ⟨rfl, rfl⟩
theorem kernelEntry (core : Nat) : Statement (.kernelEntry core) := ⟨rfl, rfl⟩
theorem groupFreed (pnum : Nat) (group : Nat) : Statement (.groupFreed pnum group) := ⟨rfl, rfl⟩
theorem quiescenceSweep (pnum : Nat) (launch : Nat) : Statement (.quiescenceSweep pnum launch) := ⟨rfl, rfl⟩
theorem waitExpiry (core : Nat) : Statement (.waitExpiry core) := ⟨rfl, rfl⟩
theorem watchdogExpiry (core : Nat) : Statement (.watchdogExpiry core) := ⟨rfl, rfl⟩
theorem meshInterrupt (core : Nat) : Statement (.meshInterrupt core) := ⟨rfl, rfl⟩
theorem preEmption (core : Nat) : Statement (.preEmption core) := ⟨rfl, rfl⟩
theorem budgetPeriod : Statement .budgetPeriod := ⟨rfl, rfl⟩
theorem shootDown (shoot : Nat) (cache : Nat) : Statement (.shootDown shoot cache) := ⟨rfl, rfl⟩
theorem shootDownComplete (shoot : Nat) : Statement (.shootDownComplete shoot) := ⟨rfl, rfl⟩
theorem scrub (part : Nat) : Statement (.scrub part) := ⟨rfl, rfl⟩
theorem refresh (controller : Nat) : Statement (.refresh controller) := ⟨rfl, rfl⟩
theorem create (entry : CmdEntry) : Statement (.create entry) := ⟨rfl, rfl⟩
theorem destroy (entry : CmdEntry) : Statement (.destroy entry) := ⟨rfl, rfl⟩
theorem setroot (entry : CmdEntry) : Statement (.setroot entry) := ⟨rfl, rfl⟩
theorem shoot2 (entry : CmdEntry) : Statement (.shoot2 entry) := ⟨rfl, rfl⟩
theorem setlimit (entry : CmdEntry) : Statement (.setlimit entry) := ⟨rfl, rfl⟩
theorem peermap (entry : CmdEntry) : Statement (.peermap entry) := ⟨rfl, rfl⟩
theorem grouptab (entry : CmdEntry) : Statement (.grouptab entry) := ⟨rfl, rfl⟩
theorem loadimg (entry : CmdEntry) : Statement (.loadimg entry) := ⟨rfl, rfl⟩
theorem start (entry : CmdEntry) : Statement (.start entry) := ⟨rfl, rfl⟩
theorem halt (entry : CmdEntry) : Statement (.halt entry) := ⟨rfl, rfl⟩
theorem save (entry : CmdEntry) : Statement (.save entry) := ⟨rfl, rfl⟩
theorem restore (entry : CmdEntry) : Statement (.restore entry) := ⟨rfl, rfl⟩
theorem resume (entry : CmdEntry) : Statement (.resume entry) := ⟨rfl, rfl⟩
theorem rdcount (entry : CmdEntry) : Statement (.rdcount entry) := ⟨rfl, rfl⟩
theorem setpeer (entry : CmdEntry) : Statement (.setpeer entry) := ⟨rfl, rfl⟩
theorem eventPost : Statement .eventPost := ⟨rfl, rfl⟩
theorem registerWrite (block : RegBlock) (offset : Nat) (value : Word) : Statement (.registerWrite block offset value) := ⟨rfl, rfl⟩
theorem tripRead : Statement .tripRead := ⟨rfl, rfl⟩
theorem hostMemRead (dpa : Nat) (len : Nat) : Statement (.hostMemRead dpa len) := ⟨rfl, rfl⟩
theorem hostMemWrite (dpa : Nat) (bytes : List Byte) : Statement (.hostMemWrite dpa bytes) := ⟨rfl, rfl⟩
theorem hostSnoop (line : Nat) : Statement (.hostSnoop line) := ⟨rfl, rfl⟩
theorem getVersion (fn : Nat) : Statement (.getVersion fn) := ⟨rfl, rfl⟩
theorem getCapabilities (fn : Nat) : Statement (.getCapabilities fn) := ⟨rfl, rfl⟩
theorem negotiateAlgorithms (fn : Nat) (asym hash : List Nat) : Statement (.negotiateAlgorithms fn asym hash) := ⟨rfl, rfl⟩
theorem getDigests (fn : Nat) : Statement (.getDigests fn) := ⟨rfl, rfl⟩
theorem getCertificate (fn : Nat) (offset len : Nat) : Statement (.getCertificate fn offset len) := ⟨rfl, rfl⟩
theorem challenge (fn : Nat) (nonce : BitVec 256) : Statement (.challenge fn nonce) := ⟨rfl, rfl⟩
theorem getMeasurements (fn : Nat) (index : Nat) (nonce : BitVec 256) : Statement (.getMeasurements fn index nonce) := ⟨rfl, rfl⟩
theorem flitReceive (port : Nat) (flit : Flit) (intact : Bool) : Statement (.flitReceive port flit intact) := ⟨rfl, rfl⟩
theorem negativeAcknowledgement (port : Nat) (seq : Nat) : Statement (.negativeAcknowledgement port seq) := ⟨rfl, rfl⟩
theorem retrain (port : Nat) (trained : Bool) : Statement (.retrain port trained) := ⟨rfl, rfl⟩
theorem pwrgdRise (firmware : Option (List Byte)) (selfCheck : Bool) : Statement (.pwrgdRise firmware selfCheck) := ⟨rfl, rfl⟩
theorem perstAssert : Statement .perstAssert := ⟨rfl, rfl⟩
theorem perstDeassert : Statement .perstDeassert := ⟨rfl, rfl⟩
theorem powerWindowEnd (watts : Nat) : Statement (.powerWindowEnd watts) := ⟨rfl, rfl⟩
theorem thermalThrottle (die : Nat) (eighths : Nat) : Statement (.thermalThrottle die eighths) := ⟨rfl, rfl⟩
theorem dieReset (die : Nat) : Statement (.dieReset die) := ⟨rfl, rfl⟩
theorem dieRecover (die : Nat) (eighths : Nat) (selfCheck : Bool) : Statement (.dieRecover die eighths selfCheck) := ⟨rfl, rfl⟩
theorem interfaceLockLoss (loop : IfLoop) : Statement (.interfaceLockLoss loop) := ⟨rfl, rfl⟩
theorem idcode : Statement .idcode := ⟨rfl, rfl⟩
theorem bypass (bit : Bool) : Statement (.bypass bit) := ⟨rfl, rfl⟩
theorem samplePreload (pins : List Bool) (preload : List Bool) : Statement (.samplePreload pins preload) := ⟨rfl, rfl⟩
theorem extest (pins : List Bool) : Statement (.extest pins) := ⟨rfl, rfl⟩
theorem debugHalt (core : Nat) : Statement (.debugHalt core) := ⟨rfl, rfl⟩
theorem debugStep (core : Nat) : Statement (.debugStep core) := ⟨rfl, rfl⟩
theorem haltOnBreak (core : Nat) : Statement (.haltOnBreak core) := ⟨rfl, rfl⟩
theorem debugRead (core : Nat) (what : DebugSel) : Statement (.debugRead core what) := ⟨rfl, rfl⟩
theorem softError (place : ErrPlace) : Statement (.softError place) := ⟨rfl, rfl⟩
theorem haltEnd (core : Nat) : Statement (.haltEnd core) := ⟨rfl, rfl⟩
theorem supervisorEndsGroup (pnum : Nat) (group : Nat) : Statement (.supervisorEndsGroup pnum group) := ⟨rfl, rfl⟩
theorem hallReset (hall : Nat) : Statement (.hallReset hall) := ⟨rfl, rfl⟩
theorem interfacePowerDown (node : Nat) : Statement (.interfacePowerDown node) := ⟨rfl, rfl⟩
theorem interfaceWake (node : Nat) : Statement (.interfaceWake node) := ⟨rfl, rfl⟩
theorem pwrgdDeassert : Statement .pwrgdDeassert := ⟨rfl, rfl⟩

end Sys2Proof.Laws.F
end

