-- ==== Sys2Proof/Laws/Store.lean ====
section
/-! SUPPORT. Stores to local memory and at interfaces: each keeps the current core and the canonical form of memory, and
what a store leaves in memory. -/
namespace Sys2Proof.Machine

/-! ## Local stores -/

@[simp] theorem State.touchScratch_same (s : State) (k o : Nat) :
    (s.touchScratch k o).cur = s.cur ∧ (s.touchScratch k o).mem = s.mem := by simp [State.touchScratch]

/-- A store to a scratchpad writes its bytes and nothing else of memory. -/
theorem State.storeScratch_mem (s : State) (k o : Nat) (bs : List Byte) :
    (s.storeScratch k o bs).cur = s.cur ∧ (s.storeScratch k o bs).mem = writeBytes s.mem (scratchKey k o) bs := by
  have h : ∀ t : State, ((List.range bs.length).foldl (fun (t : State) (n : Nat) =>
      if n = 0 ∨ (o + n) % 128 = 0 then t.touchScratch k (o + n) else t) t).cur = t.cur ∧
      ((List.range bs.length).foldl (fun (t : State) (n : Nat) =>
      if n = 0 ∨ (o + n) % 128 = 0 then t.touchScratch k (o + n) else t) t).mem = t.mem :=
    foldl_same (fun t n => by split <;> simp) _
  unfold State.storeScratch
  dsimp only
  split
  · exact ⟨(h _).1, (h _).2⟩
  · rw [State.setCluster_cur, State.setCluster_mem]
    exact ⟨(h _).1, (h _).2⟩

/-- The key of a local address of core i: in its TCM, or in its cluster's scratchpad. -/
theorem State.storeLocal_mem (s : State) (i : Nat) (a : Word) (bs : List Byte) :
    (s.storeLocal i a bs).cur = s.cur ∧
      (s.storeLocal i a bs).mem = writeBytes s.mem
        (if a.toNat < scratchBase then tcmKey i (a.toNat - tcmBase) else scratchKey (clusterOf i) (a.toNat - scratchBase))
        bs := by
  unfold State.storeLocal
  split
  · exact ⟨rfl, rfl⟩
  · exact s.storeScratch_mem _ _ _

@[simp] theorem State.taintObjects_same (s : State) (k n : Nat) :
    (s.taintObjects k n).cur = s.cur ∧ (s.taintObjects k n).mem = s.mem := ⟨rfl, rfl⟩

/-- Keeping the old value of a range changes neither the current core nor memory. -/
@[simp] theorem State.keepOld_same (s : State) (k n : Nat) (x : OldPart) :
    (s.keepOld k n x).cur = s.cur ∧ (s.keepOld k n x).mem = s.mem := ⟨rfl, rfl⟩

@[simp] theorem State.storing_same (s : State) (i k : Nat) (bs : List Byte) :
    (s.storing i k bs).cur = s.cur ∧ (s.storing i k bs).mem = s.mem := ⟨rfl, rfl⟩

/-- A store of the core's own program writes its bytes and nothing else of memory. -/
theorem State.progStore_mem (s : State) (a : Word) (bs : List Byte) :
    (s.progStore a bs).cur = s.cur ∧
      (s.progStore a bs).mem = writeBytes s.mem
        (if a.toNat < scratchBase then tcmKey s.cur (a.toNat - tcmBase)
         else scratchKey (clusterOf s.cur) (a.toNat - scratchBase)) bs := by
  have g := s.storing_same s.cur (localKey s.cur a) bs
  have h := (s.storing s.cur (localKey s.cur a) bs).storeLocal_mem s.cur a bs
  rw [g.2] at h
  replace h : _ ∧ _ := ⟨h.1.trans g.1, h.2⟩
  have e := ((s.storing s.cur (localKey s.cur a) bs).storeLocal s.cur a bs).taintObjects_same (localKey s.cur a) bs.length
  generalize (if a.toNat < scratchBase then tcmKey s.cur (a.toNat - tcmBase)
    else scratchKey (clusterOf s.cur) (a.toNat - scratchBase)) = k at h ⊢
  unfold State.progStore
  dsimp only
  rw [g.1]
  rw [← e.1, ← e.2] at h
  split
  · split
    · exact h
    · rw [State.onCore_cur, State.onCore_mem]
      exact h
  · exact h

theorem State.progStore_keeps (s : State) (a : Word) (bs : List Byte) : Keeps s (s.progStore a bs) :=
  ⟨(s.progStore_mem a bs).1, fun h => by rw [(s.progStore_mem a bs).2]; exact writeBytes_wf _ _ h⟩

/-- After a store of its program every byte of memory outside those stored reads as before. -/
theorem State.progStore_off {s : State} (h : Memory.wf s.mem = true) (a : Word) (bs : List Byte) {k : Nat}
    (hk : ∀ n, n < bs.length → k ≠ (if a.toNat < scratchBase then tcmKey s.cur (a.toNat - tcmBase)
        else scratchKey (clusterOf s.cur) (a.toNat - scratchBase)) + n) :
    readByte (s.progStore a bs).mem k = readByte s.mem k := by
  rw [(s.progStore_mem a bs).2]
  apply readByte_writeBytes_off h
  generalize (if a.toNat < scratchBase then tcmKey s.cur (a.toNat - tcmBase)
    else scratchKey (clusterOf s.cur) (a.toNat - scratchBase)) = b at hk
  rcases Nat.lt_or_ge k b with e | e
  · exact .inl e
  · right
    rcases Nat.lt_or_ge k (b + bs.length) with g | g
    · exact absurd (by omega : k = b + (k - b)) (hk (k - b) (by omega))
    · exact g

/-! ## Places and entries of parked registers -/

theorem State.takePlace_keeps (s : State) (i : Nat) (p : Place) (fmt : Ty) (b : VReg) : Keeps s (s.takePlace i p fmt b) := by
  cases p with
  | column n => exact .of_eq (by simp [State.takePlace])
  | bank n => exact .of_eq (by simp [State.takePlace])
  | stack n =>
    exact (s.storeTcm_keeps i _ _).trans (.of_eq ⟨State.onCore_cur _ _ _, State.onCore_mem _ _ _⟩)

@[simp] theorem State.freePlaceAt_same (s : State) (i : Nat) (p : Place) :
    (s.freePlaceAt i p).cur = s.cur ∧ (s.freePlaceAt i p).mem = s.mem := by simp [State.freePlaceAt]

theorem State.setEntry_keeps (s : State) (i e : Nat) (p : Option Place) : Keeps s (s.setEntry i e p) :=
  s.storeTcm_keeps i _ _

/-! ## Interfaces -/

@[simp] theorem State.keep_same (s : State) (node : Nat) (l : List CacheEntry) :
    (s.keep node l).cur = s.cur ∧ (s.keep node l).mem = s.mem := by
  unfold State.keep
  split <;> simp

theorem State.setD_keeps (s : State) (node : Nat) (e : Word) (place : Nat) : Keeps s (s.setD node e place) := by
  unfold State.setD
  split
  · exact .refl s
  · exact ⟨rfl, writeByte_wf _ _⟩

theorem State.markDirty_keeps (s : State) (p : Partition) (w i : Nat) : Keeps s (s.markDirty p w i) := by
  unfold State.markDirty
  split
  · exact .refl s
  · dsimp only
    split
    · exact ⟨rfl, writeByte_wf _ _⟩
    · exact .refl s

theorem State.writeAt_keeps (s : State) (k : Nat) (bs : List (Nat × Byte)) : Keeps s (s.writeAt k bs) :=
  (storeEach_keeps s (bs.map fun b => (k + b.1, b.2))).trans (.of_eq ⟨rfl, rfl⟩)

/-- Whatever a request does at its key keeps the form of memory (R208). -/
theorem State.performAt_keeps (s : State) (k : Nat) (r : Req) : Keeps s (s.performAt k r).2.2 := by
  have hc : ∀ n, Keeps s (s.correct k n) := fun n => .of_eq (s.correct_same k n)
  cases r with
  | read n b =>
    simp only [State.performAt]
    split <;> exact hc n
  | write bs =>
    simp only [State.performAt]
    split
    · exact .refl s
    · exact s.writeAt_keeps k bs
  | atomic sub ty b e =>
    simp only [State.performAt]
    split
    · exact hc _
    · exact (hc _).trans (storeBytes_keeps _ _ _)
  | join =>
    simp only [State.performAt]
    split
    · exact hc 8
    · dsimp only
      split
      · exact hc 8
      · exact (hc 8).trans (storeBytes_keeps _ _ _)

end Sys2Proof.Machine
end

