-- ==== Sys2Proof/Tests/Slice0.lean ====
section
/-! SUPPORT. Tests: the smoke test of well-formedness, words of the spec's encodings, and for every statement with
hypotheses a state that meets them, on which its conclusion is evaluated too. Expected values are the spec's. -/
namespace Sys2Proof.Tests
open Sys2Proof Sys2Proof.Machine Sys2Proof.Claims

set_option Elab.async false

/-! ## Small states -/

/-- The next state, where there is one. -/
def got (o : Host.Outcome State Fault Refusal) : Option State :=
  match o with
  | .next t => some t
  | _ => none

/-- A property of the next state. -/
def gives (o : Host.Outcome State Fault Refusal) (p : State → Bool) : Bool :=
  match o with
  | .next t => p t
  | _ => false

/-- A thread at P1 whose registers are all live, with a handler at 0x4000. -/
def thread : Core :=
  { ({} : Core) with
    thread := .running, kpriv := 1, kvec := 0x4000, pc := 0x1000, gFreed := 0, vFreed := 0, qFreed := 0
    group := 1, part := some 0 }

/-- A thread with values in its first g registers. -/
def withG (c : Core) (l : List (Fin 64 × Word)) : Core := { c with g := l.foldl (fun v p => v.set p.1 p.2) c.g }

/-- Partition 0 of one hall, with core 0 as a given thread. -/
def oneCore (c : Core) : State :=
  { ({} : State) with
    parts := [(0, { hx0 := 0, hy0 := 0, hw := 1, hh := 1, groups := [{ id := 1, launch := 1, index := 0, x0 := 0, y0 := 0, w := 64, h := 64 }] })]
    cores := [(0, c)]
    board := { state := .ready, pwrgd := true, perst := false } }

/-- Core 0 at P1 with g4 to g6. -/
def s456 (a b d : Word) : State := oneCore (withG thread [(4, a), (5, b), (6, d)])

/-- The sources of an instruction that names no port. -/
def src (a b d : Word) : Srcs := { s1 := a, s2 := b, s3 := d }


/-- An operand that pops no port. -/
def still : Opnd → Bool
  | .port _ _ => false
  | _ => true

/-- `Reads` on a state, decided, for fields that pop nothing. -/
def readsB (f : Fields) (priv : Core → Option Trap) (also : List Opnd) (s : State) (x : Srcs) : Bool :=
  (s.self.predTrap? f.pg).isNone && (s.popRefused? s.cur [f.s1, f.s2, f.s3]).isNone
    && (priv s.self).isNone && (s.self.usedFreed? ([f.s1, f.s2, f.s3] ++ also)).isNone
    && still f.s1 && still f.s2 && still f.s3
    && s.self.srcWord s.free 1 f.s1 0 == x.s1 && s.self.srcWord s.free 2 f.s2 0 == x.s2
    && s.self.srcWord s.free 3 f.s3 0 == x.s3

theorem popSrc_still (s : State) (o : Opnd) (h : still o = true) : s.popSrc o = .word 0 s := by
  cases o <;> first | rfl | simp [still] at h

theorem reads_of {f : Fields} {priv : Core → Option Trap} {also : List Opnd} {s : State} {x : Srcs}
    (h : readsB f priv also s x = true) : Reads f priv also s x s := by
  simp only [readsB, Bool.and_eq_true, beq_iff_eq, Option.isNone_iff_eq_none] at h
  obtain ⟨⟨⟨⟨⟨⟨⟨⟨⟨hp, hr⟩, h1⟩, h2⟩, h3⟩, h4⟩, h5⟩, h6⟩, h7⟩, h8⟩ := h
  refine ⟨hp, h1, h2, ?_⟩
  simp only [sourcesOf, hr, popSrc_still _ _ h3, popSrc_still _ _ h4, popSrc_still _ _ h5, h6, h7, h8]

/-- `Issues` on a state, decided. -/
def issuesB (f : Fields) (priv : Core → Option Trap) (also : List Opnd) (s : State) (x : Srcs) : Bool :=
  readsB f priv also s x && s.self.executes s.free f.pg f.pn

theorem issues_of {f : Fields} {priv : Core → Option Trap} {also : List Opnd} {s : State} {x : Srcs}
    (h : issuesB f priv also s x = true) : Issues f priv also s x s := by
  simp only [issuesB, Bool.and_eq_true] at h
  exact ⟨reads_of h.1, h.2⟩

/-! ## Family 0 -/

/-- A register instruction on g4, g5, g6 that goes to g7. -/
def r3 (ty : Ty) : OpA := { ty := ty, d := .g 7, s1 := .g 4, s2 := .g 5 }

/-- An instruction completes at the next slot with a value in g7. -/
def g7Is (s : State) (o : Host.Outcome State Fault Refusal) (x : Word) : Bool :=
  gives o fun t => t.self.g[7] == x && t.self.pc == nextAddr s.self.pc && t.self.wait.isNone

/-- R80: ADD.i32 wraps and sign-extends; a witness of ScalarResults. -/
theorem test_add_wraps :
    WellFormed (.add (r3 .i32)) ∧ (arithmetic (.add (r3 .i32)) (src 0x7FFFFFFF 1 0)).map (·.2) = some 0xFFFFFFFF80000000 ∧
      issuesB (fieldsA (r3 .i32)) anyLevel [] (s456 0x7FFFFFFF 1 0) (src 0x7FFFFFFF 1 0) = true ∧
      g7Is (s456 0x7FFFFFFF 1 0) (exec (.add (r3 .i32)) (s456 0x7FFFFFFF 1 0)) 0xFFFFFFFF80000000 = true := by
  decide +kernel

/-- R76: with SAT the exact sum is limited. -/
theorem test_add_saturates :
    g7Is (s456 100 100 0) (exec (.add { r3 .i8 with sat := true }) (s456 100 100 0)) 127 = true := by decide +kernel

theorem test_sub_n16 : g7Is (s456 1 2 0) (exec (.sub (r3 .n16)) (s456 1 2 0)) 0xFFFF = true := by decide +kernel

theorem test_addi_offset :
    g7Is (s456 5 3 0) (exec (.addi { r3 .n64 with imm := 0xFFFFFFFF }) (s456 5 3 0)) 7 = true := by decide +kernel

theorem test_mulh_signed :
    g7Is (s456 0xFFFFFFFFFFFFFFFF 2 0) (exec (.mulh (r3 .i64)) (s456 0xFFFFFFFFFFFFFFFF 2 0)) 0xFFFFFFFFFFFFFFFF = true ∧
      g7Is (s456 0xFFFFFFFFFFFFFFFF 2 0) (exec (.mulhn (r3 .n64)) (s456 0xFFFFFFFFFFFFFFFF 2 0)) 1 = true := by
  decide +kernel

/-- R81: division by zero gives all ones, and the remainder is the dividend. -/
theorem test_div_by_zero :
    g7Is (s456 7 0 0) (exec (.div (r3 .i32)) (s456 7 0 0)) 0xFFFFFFFFFFFFFFFF = true ∧
      g7Is (s456 7 0 0) (exec (.rem (r3 .i32)) (s456 7 0 0)) 7 = true := by decide +kernel

/-- R82: a shift by the width or more leaves zero, and an arithmetic one the sign. -/
theorem test_shift_far :
    g7Is (s456 0x80000000 32 0) (exec (.shl (r3 .i32)) (s456 0x80000000 32 0)) 0 = true ∧
      g7Is (s456 0x80000000 40 0) (exec (.shra (r3 .i32)) (s456 0x80000000 40 0)) 0xFFFFFFFFFFFFFFFF = true := by
  decide +kernel

/-- R82; a witness of ScalarResults. -/
theorem test_andn :
    WellFormed (.andn (r3 .n64)) ∧ (bitwise (.andn (r3 .n64)) (src 0xF0 0x30 0)).map (·.2) = some 0xC0 ∧
      issuesB (fieldsA (r3 .n64)) anyLevel [] (s456 0xF0 0x30 0) (src 0xF0 0x30 0) = true ∧
      g7Is (s456 0xF0 0x30 0) (exec (.andn (r3 .n64)) (s456 0xF0 0x30 0)) 0xC0 = true := by decide +kernel

theorem test_counts :
    g7Is (s456 1 0 0) (exec (.clz { r3 .n32 with s2 := .none }) (s456 1 0 0)) 31 = true ∧
      g7Is (s456 0 0 0) (exec (.ctz { r3 .n32 with s2 := .none }) (s456 0 0 0)) 32 = true := by decide +kernel

/-- R84; a witness of ScalarResults. -/
theorem test_movhi :
    WellFormed (.movhi { ty := .i8, d := .g 7, s1 := .g 4, imm := 0x50030 }) ∧
      (moved (.movhi { d := .g 7, s1 := .g 4, imm := 0x50030 }) (src 0x12300 0 0)).map (·.2) = some 0x0005003000012300 ∧
      issuesB (fieldsA { d := .g 7, s1 := .g 4, imm := 0x50030 }) anyLevel [] (s456 0x12300 0 0) (src 0x12300 0 0) = true ∧
      g7Is (s456 0x12300 0 0) (exec (.movhi { d := .g 7, s1 := .g 4, imm := 0x50030 }) (s456 0x12300 0 0))
        0x0005003000012300 = true := by decide +kernel

/-- R88: no comparison with a NaN but NE and UNO holds, and LT counts an event; a witness of CompareResults. -/
theorem test_cmp_nan :
    WellFormed (.cmp { ty := .fp32, sub := 2, d := .q 1, s1 := .g 4, s2 := .g 5 }) ∧
      issuesB (fieldsA { ty := .fp32, sub := 2, d := .q 1, s1 := .g 4, s2 := .g 5 }) anyLevel [] (s456 0x7FC00000 0 0)
        (src 0x7FC00000 0 0) = true ∧
      gives (exec (.cmp { ty := .fp32, sub := 2, d := .q 1, s1 := .g 4, s2 := .g 5 }) (s456 0x7FC00000 0 0))
        (fun t => t.self.q[1] == 0 && t.self.kev[0] == 1) = true := by decide +kernel

/-- A fetch line of words with PAIR and TGT bits, its parities as R42 has them. -/
def line (ws : List Slot) (pair tgt : Nat) : List Byte :=
  let ws := (ws ++ List.replicate 5 0).take 5
  let hi := pair * 2 ^ 15 + tgt * 2 ^ 19
  let par := (List.range 5).map fun i => (onesOf 96 (ws[i]!).toNat % 2) * 2 ^ i
  (ws.map bytesOfSlot).flatten ++ leBytes 4 (par.sum + (onesOf 24 hi % 2) * 2 ^ 5 + hi * 2 ^ 8)

/-- The word of an instruction. -/
def wordOfI (i : Instr) : Slot := (encode i).getD 0

/-- NOP. -/
def nopW : Slot := 0x23000007FFFFFFF800000000

/-- A thread with lines cached. -/
def withLines (c : Core) (l : List (Word × List Byte)) : Core :=
  { c with icache := l.map fun p => { addr := p.1, bytes := p.2 } }

/-- R34, R35: kwait reads its reset value, and kfp takes mode 3; a witness of ControlRegisters. -/
theorem test_control_registers :
    WellFormed (.crd { d := .g 7, imm := 0x01A }) ∧
      issuesB (fieldsA { d := .g 7, imm := 0x01A }) (crdPriv (irOf (.crd { d := .g 7, imm := 0x01A })) 0x01A) []
        (s456 0 0 0) (src 0 0 0) = true ∧
      g7Is (s456 0 0 0) (exec (.crd { d := .g 7, imm := 0x01A }) (s456 0 0 0)) 0x100000 = true ∧
      WellFormed (.cwr { s1 := .g 4, imm := 0x01C }) ∧
      issuesB (fieldsA { s1 := .g 4, imm := 0x01C }) (cwrPriv (irOf (.cwr { s1 := .g 4, imm := 0x01C })) 0x01C) []
        (s456 3 0 0) (src 3 0 0) = true ∧
      (s456 3 0 0).self.crIllegal 0x01C 3 = false ∧
      gives (exec (.cwr { s1 := .g 4, imm := 0x01C }) (s456 3 0 0)) (fun t => t.self.kfp == 3) = true := by
  decide +kernel

/-- R35: kfp 5 is an illegal value; kvec cannot be read at P0, nor kcoord written. -/
theorem test_control_register_traps :
    (s456 5 0 0).self.crIllegal 0x01C ((s456 5 0 0).self.crNew 0x01C 5) = true ∧
      gives (exec (.cwr { s1 := .g 4, imm := 0x01C }) (s456 5 0 0)) (fun t => t.self.kcause == 0x0B01) = true ∧
      (oneCore { thread with kpriv := 0 }).self.level < crReadLevel 0x004 ∧
      gives (exec (.crd { d := .g 7, imm := 0x004 }) (oneCore { thread with kpriv := 0 }))
        (fun t => t.self.kcause == 0x0304 && t.self.pc == 0x4000) = true ∧
      crWriteMask 0x008 1 = 0 := by decide +kernel

/-- A thread at slot 0 of the line at 0x1000, whose slot 2 is a target, as R47 has it. -/
def atBranch (c : Core) : Core := withLines c [(0x1000, line [nopW, nopW, nopW, nopW] 4 4)]

/-- R104, R47: BR to slot 2 of its own line; a witness of Branches. -/
theorem test_br :
    WellFormed (.br { imm := 2 }) ∧
      issuesB (fieldsA { imm := 2 }) anyLevel [] (oneCore (atBranch thread)) (src 0 0 0) = true ∧
      labelOf 0x1000 2 = 0x1002 ∧ (oneCore (atBranch thread)).self.follower = false ∧
      gives (exec (.br { imm := 2 }) (oneCore (atBranch thread))) (fun t => t.self.pc == 0x1002) = true := by
  decide +kernel

theorem legal_slot2 : LegalTarget (oneCore (atBranch thread)).self 0x1002 :=
  ⟨by decide, by decide, { addr := 0x1000, bytes := line [nopW, nopW, nopW, nopW] 4 4 }, by decide +kernel,
    fun _ => ⟨by decide +kernel, by decide +kernel⟩⟩

/-- A thread before the target whose g4 holds the target and g5 a count. -/
def branchS (n : Word) : State := oneCore { withG (atBranch thread) [(4, 0x1002), (5, n)] with calls := 2 }

/-- R104, R105: the other branches, taken and not; witnesses of Branches. -/
theorem test_branches :
    (([(.brc { ty := .i32, sub := 2, s1 := .g 5, imm := 2 }, fieldsA { ty := .i32, sub := 2, s1 := .g 5, imm := 2 },
        src 0xFFFFFFFF 0 0, 0x1002, 0, 2),
       (.brc { ty := .n32, sub := 2, s1 := .g 5, imm := 2 }, fieldsA { ty := .n32, sub := 2, s1 := .g 5, imm := 2 },
        src 0xFFFFFFFF 0 0, 0x1001, 0, 2),
       (.jmp { s1 := .g 4 }, fieldsA { s1 := .g 4 }, src 0x1002 0 0, 0x1002, 0, 2),
       (.callDirect { d := .g 7, imm := 2 }, fieldsA { d := .g 7, imm := 2 }, src 0 0 0, 0x1002, 0x1001, 3),
       (.callIndirect { sub := 1, d := .g 7, s1 := .g 4 }, fieldsA { sub := 1, d := .g 7, s1 := .g 4 }, src 0x1002 0 0, 0x1002, 0x1001, 3),
       (.ret { s1 := .g 4 }, fieldsA { s1 := .g 4 }, src 0x1002 0 0, 0x1002, 0, 1)] :
        List (Instr × Fields × Srcs × Word × Word × Nat)).all fun x =>
      decide (WellFormed x.1) && (branching x.1 (branchS 0xFFFFFFFF) x.2.2.1).isSome
        && issuesB x.2.1 anyLevel [] (branchS 0xFFFFFFFF) x.2.2.1
        && gives (exec x.1 (branchS 0xFFFFFFFF)) (fun t =>
          t.self.pc == x.2.2.2.1 && t.self.g[7] == x.2.2.2.2.1 && t.self.calls == x.2.2.2.2.2)) = true := by decide +kernel

/-- R104: LOOP counts down and leaves at 0; a witness of Branches. -/
theorem test_loop :
    WellFormed (.loop { d := .g 5, imm := 2 }) ∧
      issuesB (fieldsA { d := .g 5, imm := 2 }) anyLevel [.g 5] (branchS 2) (src 0 0 0) = true ∧
      (branching (.loop { d := .g 5, imm := 2 }) (branchS 2) (src 0 0 0)).map (·.target) = some (some 0x1002) ∧
      gives (exec (.loop { d := .g 5, imm := 2 }) (branchS 2)) (fun t => t.self.pc == 0x1002 && t.self.g[5] == 1) = true ∧
      gives (exec (.loop { d := .g 5, imm := 2 }) (branchS 1)) (fun t => t.self.pc == 0x1001 && t.self.g[5] == 0) = true := by
  decide +kernel

/-- R47: a slot without TGT, the second of a pair, and a code address with bit 3 set. -/
theorem test_illegal_targets :
    gives (exec (.br { imm := 1 }) (oneCore (atBranch thread)))
        (fun t => t.self.kcause == 0x0103 && t.self.ktval == 0x1001) = true ∧
      gives (exec (.br { imm := 3 }) (oneCore (atBranch thread))) (fun t => t.self.kcause == 0x0103) = true ∧
      gives (exec (.br { imm := 3 }) (oneCore (withLines thread [(0x1000, line [nopW, nopW, nopW, nopW] 4 12)])))
        (fun t => t.self.kcause == 0x0303) = true ∧
      gives (exec (.br { imm := 9 }) (oneCore (atBranch thread))) (fun t =>
        t.self.pc == 0x1000 && t.self.wait.map (·.left) == some none) = true ∧
      gives (exec (.jmp { s1 := .g 4 }) (oneCore (withG (atBranch thread) [(4, 0x1009)])))
        (fun t => t.self.kcause == 0x0203) = true := by decide +kernel

/-- R107, R393: SYSCALL 5 enters the handler with kepc behind it; at P2 it goes on; witnesses of SystemCallResults. -/
theorem test_syscall :
    issuesB (fieldsA { imm := 5 }) anyLevel [] (oneCore thread) (src 0 0 0) = true ∧
      gives (exec (.syscall { imm := 5 }) (oneCore thread)) (fun t =>
        t.self.kcause == 0x0D && t.self.ktval == 5 && t.self.kepc == 0x1001 && t.self.pc == 0x4000 && t.self.kstatus == 9) = true ∧
      gives (exec (.syscall { imm := 5 }) (oneCore { thread with kpriv := 2 })) (fun t => t.self.pc == 0x1001) = true ∧
      gives (exec (.brk { imm := 16 }) (oneCore { thread with haltOnBreak := true })) (fun t =>
        t.self.halted && t.self.pc == 0x1001 && t.self.kepc == 0x1001) = true := by decide +kernel

/-- R393, R394: a core that meets the hypotheses of TrapsTaken, and a double trap. -/
theorem test_traps :
    (s456 0 0 0).self.level < 2 ∧ (s456 0 0 0).self.intrap = false ∧ bits (s456 0 0 0).self.kvec 6 58 ≠ 0 ∧
      Memory.wf (s456 0 0 0).mem = true ∧
      ((oneCore { thread with kstatus := 8, kcause := 7 }).takeTrap 0 { cls := 1, detail := 2 }).board.events = [[2, 0, 7, 0]] ∧
      ((oneCore { thread with kstatus := 8 }).takeTrap 0 { cls := 1, detail := 2 }).self.halted = true := by decide +kernel

/-- R396: TRET from P1 to P0 with MIE; witnesses of TrapReturn. -/
theorem test_tret :
    WellFormed (.tret {}) ∧ (oneCore { thread with kstatus := 12, kepc := 0x2002 }).self.executes 0 0 false = true ∧
      gives (exec (.tret {}) (oneCore { thread with kstatus := 12, kepc := 0x2002 })) (fun t =>
        t.self.pc == 0x2002 && t.self.level == 0 && t.self.mie == 1 && !t.self.intrap) = true ∧
      gives (exec (.tret {}) (oneCore { thread with kpriv := 0 })) (fun t => t.self.kcause == 0x0104) = true ∧
      gives (exec (.tret {}) (oneCore { thread with kstatus := 2 })) (fun t => t.self.kcause == 0x0104) = true := by
  decide +kernel

/-- R384: at P0 GUARD may narrow a region, and may not widen it; witnesses of GuardResults. -/
theorem test_guard :
    WellFormed (.guard { d := .g 7, s1 := .g 4, imm := 0 }) ∧
      issuesB (fieldsA { d := .g 7, s1 := .g 4, imm := 0 }) anyLevel [] (s456 0xC000000000800000 0 0)
        (src 0xC000000000800000 0 0) = true ∧
      (s456 0xC000000000800000 0 0).self.level ≠ 0 ∧
      gives (exec (.guard { d := .g 7, s1 := .g 4, imm := 0 }) (s456 0xC000000000800000 0 0))
        (fun t => t.self.kguard[0] == 0xC000000000800000) = true ∧
      narrows 0xC000000000800000 0 = false ∧
      gives (exec (.guard { d := .g 7, s1 := .g 4, imm := 0 })
        (oneCore { withG thread [(4, 0xC000000000800000)] with kpriv := 0 })) (fun t => t.self.kcause == 0x0E05) = true := by
  decide +kernel

/-- R28, R30: an instruction that q1 does not permit, and a freed source under LUTRAP; witnesses of
PredicationAndLastUse. -/
theorem test_predicate_and_last_use :
    (s456 1 2 0).self.executes 0 1 false = false ∧
      gives (exec (.add { r3 .i32 with pg := 1 }) (s456 1 2 0)) (fun t => t.self.g[7] == 0 && t.self.pc == 0x1001) = true ∧
      (oneCore { thread with kcore := 4, gFreed := 0x10 }).self.lutrap = true ∧
      [(r3 .i32).s1, (r3 .i32).s2, (r3 .i32).s3].find? (oneCore { thread with kcore := 4, gFreed := 0x10 }).self.isFreed =
        some (.g 4) ∧
      gives (exec (.add (r3 .i32)) (oneCore { thread with kcore := 4, gFreed := 0x10 }))
        (fun t => t.self.kcause == 6 && t.self.ktval == 4) = true ∧
      gives (exec (.add { r3 .i32 with pg := 1 }) (oneCore { thread with kcore := 4, qFreed := 2 }))
        (fun t => t.self.kcause == 6 && t.self.ktval == word (opndCode (.q 1))) = true := by decide +kernel

/-- A word that waits on lw is popped (R147); a witness of RegisterFrames. -/
theorem test_pop :
    (sourcesOf (fieldsA { s1 := .port 2 false })
      (oneCore { thread with eps := thread.eps.set 18 { thread.eps[18] with linkIn := [77, 78] } })).map
        (fun p => (p.1.s1, p.2.self.eps[18].linkIn)) = some (77, [78]) := by decide +kernel

/-! ## Family 2 -/

/-- A load or a store through g4 with g5. -/
def at4 (ty : Ty) : OpA := { ty := ty, s1 := .g 4, imm := 0x40 }

/-- The TCM address of a byte of core 0. -/
def tcmA (n : Nat) : Word := BitVec.ofNat 64 (0x8000000000000000 + n)

/-- Core 0 with g4 at the TCM and bytes in it. -/
def withTcm (a b d : Word) (off : Nat) (bs : List Byte) : State :=
  { s456 a b d with mem := writeBytes [] (tcmKey 0 off) bs }

/-- R94: LD.n32 zero-extends its bytes, least significant first; a witness of LoadResults. -/
theorem test_ld :
    WellFormed (.ld { at4 .n32 with d := .g 7 }) ∧
      issuesB (fieldsA { at4 .n32 with d := .g 7 }) anyLevel [] (withTcm (tcmA 0x100) 0 0 0x140 [0x78, 0x56, 0x34, 0x92])
        (src (tcmA 0x100) 0 0) = true ∧
      (withTcm (tcmA 0x100) 0 0 0x140 [0x78, 0x56, 0x34, 0x92]).localTrap .load (tcmA 0x140) 4 4 = none ∧
      g7Is (withTcm (tcmA 0x100) 0 0 0x140 [0x78, 0x56, 0x34, 0x92])
        (exec (.ld { at4 .n32 with d := .g 7 }) (withTcm (tcmA 0x100) 0 0 0x140 [0x78, 0x56, 0x34, 0x92])) 0x92345678 = true ∧
      g7Is (withTcm (tcmA 0x100) 0 0 0x140 [0x78, 0x56, 0x34, 0x92])
        (exec (.ld { at4 .i32 with d := .g 7 }) (withTcm (tcmA 0x100) 0 0 0x140 [0x78, 0x56, 0x34, 0x92]))
          0xFFFFFFFF92345678 = true := by decide +kernel

/-- R95; a witness of LoadResults. -/
theorem test_ldp :
    WellFormed (.ldp { at4 .n64 with d := .g 8 }) ∧
      (withTcm (tcmA 0x100) 0 0 0x140 [1, 0, 0, 0, 0, 0, 0, 0, 2]).localTrap .load (tcmA 0x140) 16 16 = none ∧
      gives (exec (.ldp { at4 .n64 with d := .g 8 }) (withTcm (tcmA 0x100) 0 0 0x140 [1, 0, 0, 0, 0, 0, 0, 0, 2]))
        (fun t => t.self.g[8] == 1 && t.self.g[9] == 2) = true := by decide +kernel

/-- R94, R95: ST and STP write their low bytes and no more; witnesses of StoreResults. -/
theorem test_st :
    WellFormed (.st { at4 .n16 with s2 := .g 5 }) ∧ WellFormed (.stp { at4 .n32 with s2 := .g 5, s3 := .g 6 }) ∧
      Memory.wf (s456 (tcmA 0) 0x1234 0x5678).mem = true ∧
      issuesB (fieldsA { at4 .n16 with s2 := .g 5 }) anyLevel [] (s456 (tcmA 0) 0x1234 0x5678) (src (tcmA 0) 0x1234 0) = true ∧
      issuesB (fieldsA { at4 .n32 with s2 := .g 5, s3 := .g 6 }) anyLevel [] (s456 (tcmA 0) 0x1234 0x5678)
        (src (tcmA 0) 0x1234 0x5678) = true ∧
      (s456 (tcmA 0) 0x1234 0x5678).localTrap .store (tcmA 0x40) 2 2 = none ∧
      (s456 (tcmA 0) 0x1234 0x5678).localTrap .store (tcmA 0x40) 8 8 = none ∧
      gives (exec (.st { at4 .n16 with s2 := .g 5 }) (s456 (tcmA 0) 0x991234 0))
        (fun t => readBytes t.mem (tcmKey 0 0x40) 4 == [0x34, 0x12, 0, 0]) = true ∧
      gives (exec (.stp { at4 .n32 with s2 := .g 5, s3 := .g 6 }) (s456 (tcmA 0) 0x991234 0x5678))
        (fun t => readBytes t.mem (tcmKey 0 0x40) 6 == [0x34, 0x12, 0x99, 0, 0x78, 0x56]) = true := by decide +kernel

/-- R99: LATOM.add returns the old element; a witness of LocalAtomicResults. -/
theorem test_latom :
    WellFormed (.latom { at4 .n32 with d := .g 7, s2 := .g 5 }) ∧
      issuesB (fieldsA { at4 .n32 with d := .g 7, s2 := .g 5 }) anyLevel [] (withTcm (tcmA 0) 5 0 0x40 [9])
        (src (tcmA 0) 5 0) = true ∧
      (withTcm (tcmA 0) 5 0 0x40 [9]).localTrap .atomic (tcmA 0x40) 4 4 = none ∧
      Memory.wf (withTcm (tcmA 0) 5 0 0x40 [9]).mem = true ∧
      gives (exec (.latom { at4 .n32 with d := .g 7, s2 := .g 5 }) (withTcm (tcmA 0) 5 0 0x40 [9]))
        (fun t => t.self.g[7] == 9 && readByte t.mem (tcmKey 0 0x40) == 14) = true := by decide +kernel

/-- R96: under q1 with bit 1 alone, VLD replaces element 1 and VST writes its bytes; witnesses of VectorMemoryResults. -/
theorem test_vector_memory :
    WellFormed (.vld { ty := .n32, pg := 1, d := .v 3, s1 := .g 4 }) ∧
      readsB (fieldsA { ty := .n32, pg := 1, d := .v 3, s1 := .g 4 }) anyLevel []
        (oneCore { withG thread [(4, tcmA 0)] with q := thread.q.set 1 2 }) (src (tcmA 0) 0 0) = true ∧
      (oneCore { withG thread [(4, tcmA 0)] with q := thread.q.set 1 2 }).self.active 0 1 false 8 = [1] ∧
      (oneCore { withG thread [(4, tcmA 0)] with q := thread.q.set 1 2 }).localTrap .load (tcmA 0) 32 32 = none ∧
      (oneCore { withG thread [(4, tcmA 0)] with q := thread.q.set 1 2 }).localTrap .store (tcmA 0) 32 32 = none ∧
      WellFormed (.vst { ty := .n32, pg := 1, s1 := .g 4, s2 := .v 3 }) ∧
      readsB (fieldsA { ty := .n32, pg := 1, s1 := .g 4, s2 := .v 3 }) anyLevel []
        (oneCore { withG thread [(4, tcmA 0)] with q := thread.q.set 1 2 }) (src (tcmA 0) 0 0) = true ∧
      gives (exec (.vst { ty := .n32, pg := 1, s1 := .g 4, s2 := .v 3 })
        (oneCore { withG thread [(4, tcmA 0)] with q := thread.q.set 1 2, v := thread.v.set 3 (BitVec.allOnes 256) }))
        (fun t => readBytes t.mem (tcmKey 0 0) 9 == [0, 0, 0, 0, 255, 255, 255, 255, 0]) = true := by decide +kernel

/-- R93, R399: the checks of a local access; witnesses of LocalAccessChecks. -/
theorem test_local_checks :
    ((s456 0 0 0).localTrap .load 0x1000 4 4).map Trap.detail = some 1 ∧
      ((s456 0 0 0).localTrap .load (tcmA 2) 4 4).map Trap.detail = some 2 ∧
      ((s456 0 0 0).localTrap .store (tcmA 0x1F000) 4 4).map Trap.detail = some 3 ∧
      ((oneCore { thread with kpriv := 0 }).localTrap .load 0x8000000100000000 4 4).map Trap.detail = some 4 ∧
      ((oneCore { thread with kpriv := 0, kspill := 0x100000100 }).localTrap .load (tcmA 0x110) 4 4).map Trap.detail = some 3 ∧
      ({ s456 0 0 0 with poison := [0] }.localTrap .load (tcmA 0) 4 4).map Trap.detail = some 0x10 ∧
      (s456 0 0 0).localTrap .store 0x8000000100000000 8 8 = none ∧
      gives (exec (.ld { at4 .n32 with d := .g 7 }) (s456 (tcmA 0x1) 0 0)) (fun t => t.self.kcause == 0x0205) = true := by
  decide +kernel

/-- A thread with a park stack of one slot. -/
def parking : Core := { withG thread [(5, 0x123456789ABCDEF0)] with kspill := 0x100000100 }

/-- R31, R32: PARK takes column 0, UNPARK restores from it; witnesses of ParkResults. -/
theorem test_park :
    WellFormed (.park { s1 := .g 5 }) ∧ WellFormed (.unpark { d := .g 5 }) ∧
      issuesB (fieldsA { s1 := .g 5 }) anyLevel [] (oneCore parking) (src 0x123456789ABCDEF0 0 0) = true ∧
      issuesB (fieldsA { d := .g 5 }) anyLevel [] (oneCore parking) (src 0 0 0) = true ∧
      (oneCore parking).parkedAt 0 (entryNo (.g 5)) = none ∧ ((oneCore parking).self.freePlace false).isSome = true ∧
      (oneCore parking).entryTrap 0 (entryNo (.g 5)) = none ∧ entryNo (.g 5) ∉ (oneCore parking).self.parkUndef ∧
      gives (exec (.park { s1 := .g 5 }) (oneCore parking)) (fun t =>
        ((t.self.acc[0]).state == .park) && ((t.self.acc[0]).bits == 0x123456789ABCDEF0)
          && (t.parkedAt 0 (entryNo (.g 5))).isSome && t.self.isFreed (.g 5) && (t.placeTrap 0 (.column 0)).isNone
          && gives (exec (.unpark { d := .g 5 }) t) fun u =>
              u.self.g[5] == 0x123456789ABCDEF0 && ((u.self.acc[0]).state == .free)) = true := by
  decide +kernel

/-- R31, R32: PARK without a park area, and UNPARK of what is not parked; witnesses of ParkResults. -/
theorem test_park_traps :
    gives (exec (.park { s1 := .g 5 }) (s456 0 0 0)) (fun t => t.self.kcause == 0x0505) = true ∧
      gives (exec (.unpark { d := .g 5 }) (oneCore parking)) (fun t => t.self.kcause == 0x0705 && t.self.ktval == 5) = true ∧
      gives (exec (.park { s1 := .g 5 }) (oneCore parking)) (fun t =>
        gives (exec (.park { s1 := .g 5 }) { t with cores := [(0, { t.self with gFreed := 0 })] }) fun u =>
          u.self.kcause == 0x0605) = true := by decide +kernel

/-! ## Family 5 -/

/-- Core 0 with v registers. -/
def withV (l : List (Fin 32 × VReg)) : State :=
  oneCore { thread with v := l.foldl (fun v p => v.set p.1 p.2) thread.v }

/-- A vector instruction on v1 and v2 that goes to v3. -/
def v3 (ty : Ty) : OpA := { ty := ty, d := .v 3, s1 := .v 1, s2 := .v 2 }

/-- R255: VADD.i8 under SAT limits each lane; a witness of IntegerLaneResults. -/
theorem test_vadd_saturates :
    WellFormed (.vadd { v3 .i8 with sat := true }) ∧
      (lanedBits (.vadd { v3 .i8 with sat := true }) (withV [(1, 0x0180), (2, 0x01FF)]) (src 0 0 0)).isSome = true ∧
      readsB (fieldsA { v3 .i8 with sat := true }) anyLevel [] (withV [(1, 0x0180), (2, 0x01FF)]) (src 0 0 0) = true ∧
      (withV []).self.active 0 0 false 32 ≠ [] ∧
      gives (exec (.vadd { v3 .i8 with sat := true }) (withV [(1, 0x7F80), (2, 0x01FF)]))
        (fun t => t.self.v[3] == 0x7F80) = true := by decide +kernel

/-- R254, and the worked lane of the encoding of VFMA: 3·2^−23 − 3·2^−23 is +0; a witness of FloatingLaneResults. -/
theorem test_vfma :
    WellFormed (.vfma { v3 .fp32 with s3 := .v 3 }) ∧
      (lanedFloat (.vfma { v3 .fp32 with s3 := .v 3 }) (withV []) (src 0 0 0)).isSome = true ∧
      readsB (fieldsA { v3 .fp32 with s3 := .v 3 }) anyLevel [] (withV []) (src 0 0 0) = true ∧
      gives (exec (.vfma { v3 .fp32 with s3 := .v 3 }) (withV [(1, 0x40400000), (2, 0x34000000), (3, 0xB4C00000)]))
        (fun t => t.self.v[3] == 0) = true := by decide +kernel

/-- R266: VPACK.i8 from i16; a witness of ConvertingLaneResults. -/
theorem test_vpack :
    WellFormed (.vpack { v3 .i8 with sub := 1, sat := true }) ∧
      (lanedConvert (.vpack { v3 .i8 with sub := 1, sat := true }) (withV []) (src 0 0 0)).isSome = true ∧
      readsB (fieldsA { v3 .i8 with sub := 1, sat := true }) anyLevel [] (withV [(1, 0x00FF0200)]) (src 0 0 0) = true ∧
      gives (exec (.vpack { v3 .i8 with sub := 1, sat := true }) (withV [(1, 0xFFFF0200)]))
        (fun t => t.self.v[3] == 0xFF7F) = true := by decide +kernel

/-- R263: the worked sum of VRED.add.f32, and an event of kev4; a witness of ElementResults. -/
theorem test_vred_worked :
    WellFormed (.vred { ty := .fp32, d := .v 4, s1 := .v 1 }) ∧
      readsB (fieldsA { ty := .fp32, d := .v 4, s1 := .v 1 }) anyLevel [] (withV [(1, 0x33800000338000003380000_03F800000)])
        (src 0 0 0) = true ∧
      gives (exec (.vred { ty := .fp32, d := .v 4, s1 := .v 1 }) (withV [(1, 0x33800000338000003380000_03F800000)]))
        (fun t => t.self.v[4] == 0x3F800001 && t.self.kev[4] == 1) = true := by decide +kernel

/-- R260, R262: VCMP, VEXT and VINS; witnesses of ElementResults. -/
theorem test_elements :
    WellFormed (.vcmp { ty := .i32, sub := 2, d := .q 2, s1 := .v 1, s2 := .v 2 }) ∧
      gives (exec (.vcmp { ty := .i32, sub := 2, d := .q 2, s1 := .v 1, s2 := .v 2 }) (withV [(1, 0xFFFFFFFF00000001)]))
        (fun t => t.self.q[2] == 2) = true ∧
      WellFormed (.vext { ty := .i16, d := .g 7, s1 := .v 1, imm := 1 }) ∧
      gives (exec (.vext { ty := .i16, d := .g 7, s1 := .v 1, imm := 1 }) (withV [(1, 0x80000000)]))
        (fun t => t.self.g[7] == 0xFFFFFFFFFFFF8000) = true ∧
      WellFormed (.vins { ty := .n16, d := .v 1, s1 := .g 4, imm := 1 }) ∧
      issuesB (fieldsA { ty := .n16, d := .v 1, s1 := .g 4, imm := 1 }) anyLevel [.v 1] (s456 0x1234 0 0) (src 0x1234 0 0) = true ∧
      gives (exec (.vins { ty := .n16, d := .v 1, s1 := .g 4, imm := 1 }) (s456 0x51234 0 0))
        (fun t => t.self.v[1] == 0x12340000) = true := by decide +kernel

/-- The block of the worked example of R247 as fp32 in v0. -/
def blockV0 : VReg := 0x0000000000000000800000003DE000003F8000003E200000BEA0000041200000

/-- R268: VQUANT.dx8.f32 and VDEQ.f32.dx8 of the worked block; witnesses of BlockResults. -/
theorem test_block_worked :
    WellFormed (.vquant { ty := .dx8, sub := 9, d := .v 8, s1 := .v 0, s3 := .g 9 }) ∧
      readsB { fieldsA { ty := .dx8, sub := 9, d := .v 8, s1 := .v 0, s3 := .g 9 } with s3 := .none, l1 := false, l3 := false }
        anyLevel [.v 0, .v 1, .v 2, .v 3] (withV [(0, blockV0)]) (src 0 0 0) = true ∧
      gives (exec (.vquant { ty := .dx8, sub := 9, d := .v 8, s1 := .v 0, s3 := .g 9 }) (withV [(0, blockV0)]))
        (fun t => t.self.v[8] == 0x47044AD428 && t.self.g[9] == 0x7E82 && t.self.kev == thread.kev) = true ∧
      WellFormed (.vdeq { ty := .fp32, sub := 17, d := .v 12, s1 := .v 8, s2 := .g 9 }) ∧
      readsB (fieldsA { ty := .fp32, sub := 17, d := .v 12, s1 := .v 8, s2 := .g 9 }) anyLevel []
        (withV [(8, 0x47044AD428)]) (src 0 0 0) = true ∧
      gives (exec (.vdeq { ty := .fp32, sub := 17, d := .v 12, s1 := .v 8, s2 := .g 9 })
        (oneCore { withG thread [(9, 0x7E82)] with v := thread.v.set 8 0x47044AD428 }))
        (fun t => t.self.v[12] == 0x00000000000000003DE000003F8000003E200000BEA0000041200000) = true := by decide +kernel

/-- R244, R268: a value beyond fp32 is infinite in VDEQ whatever RM is; R249: VCMP counts a subnormal operand in kev14. -/
theorem test_vector_events :
    gives (exec (.vdeq { ty := .fp32, sub := 12, rm := .rtz, d := .v 12, s1 := .v 8, s2 := .g 9 })
        (oneCore { withG thread [(9, 0xFE)] with v := thread.v.set 8 0x7E }))
        (fun t => t.self.v[12].toNat % 2 ^ 32 == 0x7F800000 && bits t.self.kev[2] 0 32 == 1) = true ∧
      gives (exec (.vcmp { ty := .fp32, sub := 2, d := .q 2, s1 := .v 1, s2 := .v 2 }) (withV [(1, 1)]))
        (fun t => t.self.kev[14] == 1) = true := by decide +kernel

/-- R269: CEVRD.clr reads and clears counters 0 to 7; a witness of BlockResults. -/
theorem test_cevrd_clear :
    WellFormed (.cevrd { d := .v 1, imm := 0x100 }) ∧
      readsB (fieldsA { d := .v 1, imm := 0x100 }) anyLevel [] (oneCore thread) (src 0 0 0) = true ∧
      (oneCore thread).self.active 0 0 false 8 ≠ [] ∧
      gives (exec (.cevrd { d := .v 1, imm := 0x100 }) (oneCore { thread with kev := (thread.kev.set 2 7).set 9 8 }))
        (fun t => t.self.v[1] == 0x70000000000000000 && t.self.kev[2] == 0 && t.self.kev[9] == 8) = true := by decide +kernel

/-! ## Family 3 -/

/-- A transition entry (R138). -/
def trans (src dst act arg : Nat) : Nat := src * 2 ^ 27 + dst * 2 ^ 22 + act * 2 ^ 19 + arg * 2 ^ 15

/-- A canonical encoding of types and transitions between a number of states (R137). -/
def encoding (types : List Nat) (states : Nat) (ts : List Nat) : List Byte :=
  leBytes 1 types.length ++ leBytes 1 states ++ leBytes 1 ts.length ++ [1] ++ List.replicate 12 0
    ++ (types.map (leBytes 8)).flatten ++ List.replicate (8 * (16 - types.length)) 0 ++ List.replicate 64 0
    ++ (ts.map (leBytes 4)).flatten ++ List.replicate (4 * (64 - ts.length)) 0

/-- A slot whose types are a word, a vector, a tile of eight i8, an endpoint and a label, with one action in each state:
sends in even states, which go to state 1, and receives in odd ones, which go to state 0; state 10 ends. OUTMSG and INMSG
are 4, SLOTSZ is 32. -/
def allActs : List Byte :=
  encoding [0, 2 ^ 61, 2 * 2 ^ 61 + 2 ^ 48 + 8 * 2 ^ 40, 3 * 2 ^ 61, 4 * 2 ^ 61] 11
    [trans 0 1 0 0, trans 1 0 1 0, trans 2 1 0 1, trans 3 0 1 1, trans 4 1 0 2, trans 5 0 1 2, trans 6 1 2 4, trans 7 0 3 4,
     trans 8 1 4 3, trans 9 0 5 3, trans 10 0 6 0]
  ++ [4, 0, 4, 0, 0, 0, 0, 0, 0, 0, 0, 0, 32, 0]

/-- An endpoint in a state of slot 0, with core 1 as its peer. -/
def bound (st : Nat) (arrived : List Arrived) : Endpoint :=
  { mode := .openM, binding := .user, slot := 0, state := st, peer := 1, peerEp := 2, chan := 9, rbase := 0xF00, rslots := 4,
    arrived := arrived }

/-- A thread with a channel buffer of 4 KiB and e2 and e3. -/
def chanThread (e2 e3 : Endpoint) : Core :=
  { withG thread [(4, tcmA 0x100), (5, 0x55)] with
    chb := 0x1000, epsN := 16, eps := (thread.eps.set 2 e2).set 3 e3, v := thread.v.set 1 0x77 }

/-- Core 0 with e2 and e3, the slot, and one byte in each of a tile and the first message buffer. -/
def chan (e2 e3 : Endpoint) : State :=
  { oneCore (chanThread e2 e3) with
    mem := writeByte (writeByte (writeBytes [] (tcmKey 0 0x1F000) allActs) (tcmKey 0 0x100) 7) (tcmKey 0 0x1E000) 9 }

/-- A message numbered 0. -/
def msg0 (mt : Nat) : List Arrived := [{ seq := 0, mt := mt }]

/-- A channel instruction's hypotheses on an endpoint, decided. -/
def chanB (o : OpC) (f : Fields) (i : Instr) (r : List Nat) (s : State) (x : Srcs) : Bool :=
  issuesB f (limitPriv (irOf i) o.imm) [] s x && r.isEmpty && decide (2 ≤ epNo o.ep) && i.wf

/-- R162: SEND, SENDV, SENDT and SELECT put one message into the network; witnesses of SendResults. -/
theorem test_sends :
    chanB { ep := .e 2, s1 := .g 5 } (fieldsC { ep := .e 2, s1 := .g 5 }) (.send { ep := .e 2, s1 := .g 5 })
        ((chan (bound 0 []) {}).refusals 0 2 .send 0) (chan (bound 0 []) {}) (src 0x55 0 0) = true ∧
      (chan (bound 0 []) {}).ownEntries 0 = [] ∧
      ((chan (bound 0 []) {}).self.ep 2).credit + 1 ≤ storedOutMsg ((chan (bound 0 []) {}).slot 0 0) ∧
      gives (exec (.send { ep := .e 2, s1 := .g 5 }) (chan (bound 0 []) {})) (fun t =>
        t.net.map (fun p => (p.dst, p.ep, p.chan)) == [(1, 2, 9)] && (t.self.ep 2).state == 1
          && (t.self.ep 2).sseq == 1 && (t.self.ep 2).credit == 1 && t.self.sent == 1) = true ∧
      chanB { ep := .e 2, mt := 1, s1 := .v 1 } (fieldsC { ep := .e 2, mt := 1, s1 := .v 1 })
        (.sendv { ep := .e 2, mt := 1, s1 := .v 1 }) ((chan (bound 2 []) {}).refusals 0 2 .sendv 1) (chan (bound 2 []) {})
        (src 0 0 0) = true ∧
      chanB { ep := .e 2, mt := 2, s1 := .g 4 } (fieldsC { ep := .e 2, mt := 2, s1 := .g 4 })
        (.sendt { ep := .e 2, mt := 2, s1 := .g 4 }) ((chan (bound 4 []) {}).refusals 0 2 .sendt 2) (chan (bound 4 []) {})
        (src (tcmA 0x100) 0 0) = true ∧
      (chan (bound 4 []) {}).tileTrap .load ((chan (bound 4 []) {}).typeAt 0 2 2) (tcmA 0x100) none = none ∧
      gives (exec (.sendt { ep := .e 2, mt := 2, s1 := .g 4 }) (chan (bound 4 []) {})) (fun t =>
        t.net.map (fun p => match p.body with
          | .msg _ _ bs _ _ => bs
          | _ => []) == [[7, 0, 0, 0, 0, 0, 0, 0]]) = true ∧
      chanB { ep := .e 2, mt := 4 } (fieldsC { ep := .e 2, mt := 4 }) (.select { ep := .e 2, mt := 4 })
        ((chan (bound 6 []) {}).refusals 0 2 .select 4) (chan (bound 6 []) {}) (src 0 0 0) = true := by decide +kernel

/-- R147: SEND on le sends a word to core 1's lw; a witness of SendResults. -/
theorem test_send_link :
    chanB { ep := .port 2, s1 := .g 5 } (fieldsC { ep := .port 2, s1 := .g 5 }) (.send { ep := .port 2, s1 := .g 5 })
        ((chan {} {}).refusals 0 18 .send 0) (chan {} {}) (src 0x55 0 0) = true ∧
      ((chan {} {}).self.ep 18).binding = .link ∧ (chan {} {}).neighbour? 0 2 = some 1 ∧
      (chan {} {}).linkLoad 1 16 < 16 ∧
      gives (exec (.send { ep := .port 2, s1 := .g 5 }) (chan {} {})) (fun t =>
        t.net.map (fun p => (p.dst, p.ep)) == [(1, 16)]) = true := by decide +kernel

/-- R164: RECV, RECVV, RECVT and OFFER deliver message 0, RECV the word of a LINK port and a close word; witnesses of
ReceiveResults. -/
theorem test_receives :
    chanB { ep := .e 2, d := .g 7, s3 := .q 1 } (fieldsC { ep := .e 2, d := .g 7, s3 := .q 1 }).noS3
        (.recv { ep := .e 2, d := .g 7, s3 := .q 1 }) ((chan (bound 1 (msg0 0)) {}).refusals 0 2 .recv 0)
        (chan (bound 1 (msg0 0)) {}) (src 0 0 0) = true ∧
      ((chan (bound 1 (msg0 0)) {}).self.ep 2).nextMsg? = some { seq := 0, mt := 0 } ∧
      poisoned (chan (bound 1 (msg0 0)) {}) (tcmKey 0 0x1E000) 32 = false ∧
      gives (exec (.recv { ep := .e 2, d := .g 7, s3 := .q 1 }) (chan (bound 1 (msg0 0)) {})) (fun t =>
        t.self.g[7] == 9 && t.self.q[1] == BitVec.allOnes 32 && (t.self.ep 2).rseq == 1 && (t.self.ep 2).rhead == 1
          && t.net.map (fun p => (p.dst, p.ep, p.body)) == [(1, 2, .credit)]) = true ∧
      chanB { ep := .e 2, mt := 1, d := .v 7, s3 := .q 1 } (fieldsC { ep := .e 2, mt := 1, d := .v 7, s3 := .q 1 }).noS3
        (.recvv { ep := .e 2, mt := 1, d := .v 7, s3 := .q 1 }) ((chan (bound 3 (msg0 1)) {}).refusals 0 2 .recvv 1)
        (chan (bound 3 (msg0 1)) {}) (src 0 0 0) = true ∧
      chanB { ep := .e 2, mt := 2, d := .g 7, s1 := .g 4, s3 := .q 1 }
        (fieldsC { ep := .e 2, mt := 2, d := .g 7, s1 := .g 4, s3 := .q 1 }).noS3
        (.recvt { ep := .e 2, mt := 2, d := .g 7, s1 := .g 4, s3 := .q 1 }) ((chan (bound 5 (msg0 2)) {}).refusals 0 2 .recvt 2)
        (chan (bound 5 (msg0 2)) {}) (src (tcmA 0x100) 0 0) = true ∧
      Memory.wf (chan {} {}).mem = true ∧
      (chan (bound 5 (msg0 2)) {}).tileTrap .store ((chan (bound 5 (msg0 2)) {}).typeAt 0 2 2) (tcmA 0x100) none = none ∧
      gives (exec (.recvt { ep := .e 2, mt := 2, d := .g 7, s1 := .g 4, s3 := .q 1 }) (chan (bound 5 (msg0 2)) {})) (fun t =>
        readByte t.mem (tcmKey 0 0x100) == 9) = true := by decide +kernel

theorem test_receives_more :
    chanB { ep := .e 2, d := .g 7, s3 := .q 1 } (fieldsC { ep := .e 2, d := .g 7, s3 := .q 1 }).noS3
        (.offer { ep := .e 2, d := .g 7, s3 := .q 1 }) ((chan (bound 7 (msg0 4)) {}).refusals 0 2 .offer 0)
        (chan (bound 7 (msg0 4)) {}) (src 0 0 0) = true ∧
      gives (exec (.offer { ep := .e 2, d := .g 7, s3 := .q 1 }) (chan (bound 7 (msg0 4)) {}))
        (fun t => t.self.g[7] == 4) = true ∧
      chanB { ep := .port 0, d := .g 7, s3 := .q 1 } (fieldsC { ep := .port 0, d := .g 7, s3 := .q 1 }).noS3
        (.recv { ep := .port 0, d := .g 7, s3 := .q 1 })
        ({ s456 0 0 0 with cur := 1, cores := [(1, { thread with eps := thread.eps.set 16 { thread.eps[16] with linkIn := [5] } })] }.refusals 1 16 .recv 0)
        { s456 0 0 0 with cur := 1, cores := [(1, { thread with eps := thread.eps.set 16 { thread.eps[16] with linkIn := [5] } })] }
        (src 0 0 0) = true ∧
      (({ bound 1 [] with mode := .closedAt, closeNote := some (0, 3) } : Endpoint).nextClose? = some 3) ∧
      (chan { bound 1 [] with mode := .closedAt, closeNote := some (0, 3) } {}).refusals 0 2 .recv 0 = [] ∧
      gives (exec (.recv { ep := .e 2, d := .g 7, s3 := .q 1 })
        (chan { bound 1 [] with mode := .closedAt, closeNote := some (0, 3) } {}))
        (fun t => t.self.g[7] == 3 && t.self.q[1] == 0 && t.net.isEmpty) = true := by decide +kernel

/-- An endpoint that is delegated in a message of e2, held by core 5 as its e4. -/
def carriedEp : Delegation :=
  { desc := [2 ^ 61, 0, 0, 0], chan := 12, peerPkg := 0, enc := allActs.take encBytes, holder := 5, holderEp := 4 }

/-- R166, R167: DELEG of e3 and ADOPT of a carried endpoint; witnesses of DelegationResults. -/
theorem test_delegation :
    chanB { ep := .e 2, mt := 3, s1 := .e 3 } { fieldsC { ep := .e 2, mt := 3, s1 := .e 3 } with s1 := .none, l1 := false }
        (.deleg { ep := .e 2, mt := 3, s1 := .e 3 })
        ((chan (bound 8 []) { bound 0 [] with rbase := 0xF10 }).refusals 0 2 .deleg 3
          ++ (chan (bound 8 []) { bound 0 [] with rbase := 0xF10 }).delegRefusals 0 2 3 (.e 3))
        (chan (bound 8 []) { bound 0 [] with rbase := 0xF10 }) (src 0 0 0) = true ∧
      gives (exec (.deleg { ep := .e 2, mt := 3, s1 := .e 3 }) (chan (bound 8 []) { bound 0 [] with rbase := 0xF10 }))
        (fun t => ((t.self.ep 3).mode == .unbound) && t.net.length == 1 && t.self.kept.map (·.base) == [0x1E200]) = true ∧
      chanB { ep := .e 2, mt := 3, s1 := .e 3, d := .g 7 } (fieldsC { ep := .e 2, mt := 3, s1 := .e 3, d := .g 7 })
        (.adopt { ep := .e 2, mt := 3, s1 := .e 3, d := .g 7 })
        ((chan (bound 9 [{ seq := 0, mt := 3, deleg := some carriedEp }]) {}).refusals 0 2 .adopt 3)
        (chan (bound 9 [{ seq := 0, mt := 3, deleg := some carriedEp }]) {}) (src 0 0 0) = true ∧
      ([2, 3].all fun n => (epPriv (irOf (.adopt { ep := .e 2, mt := 3, s1 := .e 3, d := .g 7 })) n
        (chan {} {}).self).isNone) = true ∧
      (chan {} {}).slotFor? 0 carriedEp.enc = some 0 ∧
      gives (exec (.adopt { ep := .e 2, mt := 3, s1 := .e 3, d := .g 7 })
        (chan (bound 9 [{ seq := 0, mt := 3, deleg := some carriedEp }]) {})) (fun t =>
          ((t.self.ep 3).mode == .handover) && (t.self.ep 3).rbase == 0xF04 && (t.net.map (·.dst)) == [1, 5]) = true := by
  decide +kernel

/-- An encoding of one word in each direction, with its PROTOID (R139). -/
def pingPong : List Byte :=
  [1, 2, 2, 1, 0x12, 0xA4, 0x81, 0x99] ++ (encoding [0] 2 [trans 0 1 0 0, trans 1 0 1 0]).drop 8

/-- Core 0 with a word in g4 and that protocol in slot 0, and core 1. -/
def pairOf (a : Word) (e2 : Endpoint) : State :=
  { oneCore thread with
    cores := [(0, withG (chanThread e2 {}) [(4, a)]), (1, thread)]
    mem := writeBytes [] (tcmKey 0 0x1F000) (pingPong ++ [1, 0, 1, 0, 0, 0, 0, 0, 0, 0, 0, 0, 32, 0]) }

/-- R159: CONNECT to core 1's e2 with slot 0 sends a request and waits; a witness of ConnectResults. -/
theorem test_connect :
    (Instr.connect { ep := .e 2, s1 := .g 4 }).wf = true ∧
      issuesB (fieldsC { ep := .e 2, s1 := .g 4 })
        (bothPriv (limitPriv (irOf (.connect { ep := .e 2, s1 := .g 4 })) 0)
          (epPriv (irOf (.connect { ep := .e 2, s1 := .g 4 })) 2)) []
        (pairOf 0x1000000001 {}) (src 0x1000000001 0 0) = true ∧
      (pairOf 0x1000000001 {}).findPeer 0 2 0x1000000001 none = .found 1 2 0 ∧
      isValid ((pairOf 0x1000000001 {}).slot 0 (connSlot 0x1000000001)) = true ∧
      (pairOf 0x1000000001 {}).refusals 0 2 .connect 0 = [] ∧
      gives (exec (.connect { ep := .e 2, s1 := .g 4 }) (pairOf 0x1000000001 {})) (fun t =>
        ((t.self.ep 2).mode == .connecting) && t.net.map (fun p => (p.dst, p.ep)) == [(1, 2)]
          && (t.self.wait.map (·.detail)) == some 0x22) = true := by decide +kernel

/-- A request of core 1 with an encoding. -/
def request (enc : List Byte) : ConnReq := { node := 1, core := 1, ep := 2, slot := 0, chan := 5, enc := enc }

/-- The dual of that protocol. -/
def pongPing : List Byte := encoding [0] 2 [trans 0 1 1 0, trans 1 0 0 0]

/-- R160: ACCEPT of a dual request answers and waits, or completes where it was confirmed; witnesses of ConnectResults. -/
theorem test_accept_meets :
    ((Instr.accept { ep := .e 2, d := .g 7, s1 := .g 4 }).wf
      && issuesB (fieldsC { ep := .e 2, d := .g 7, s1 := .g 4 })
        (bothPriv (limitPriv (irOf (.accept { ep := .e 2, d := .g 7, s1 := .g 4 })) 0)
          (epPriv (irOf (.accept { ep := .e 2, d := .g 7, s1 := .g 4 })) 2)) []
        (pairOf 0 { requests := [request pongPing] }) (src 0 0 0)
      && ((pairOf 0 { requests := [request pongPing] }).refusals 0 2 .accept 0).isEmpty
      && duals ((pairOf 0 {}).slot 0 0) pongPing
      && (pairOf 0 { requests := [request pongPing] }).reserve 0 ((pairOf 0 {}).slot 0 0) == some (0xF00, 1)) = true := by
  decide +kernel

theorem test_accept :
    gives (exec (.accept { ep := .e 2, d := .g 7, s1 := .g 4 }) (pairOf 0 { requests := [request pongPing] })) (fun t =>
      (t.self.wait.map (·.detail)) == some 0x23 && t.net.map (·.body) == [.answer 0 0 2]) = true := by decide +kernel

theorem test_accept_confirmed :
    gives (exec (.accept { ep := .e 2, d := .g 7, s1 := .g 4 })
      (pairOf 0 { requests := [{ request pongPing with confirmed := true }] })) (fun t =>
        ((t.self.ep 2).mode == .openM) && (t.self.ep 2).rbase == 0xF00 && t.self.pc == 0x1001) = true := by decide +kernel

/-- R169, R170: CLOSE in state 10 and ABORT; witnesses of EndpointAndRefusalResults. -/
theorem test_close :
    chanB { ep := .e 2 } (fieldsC { ep := .e 2 }) (.close { ep := .e 2 })
        ((chan (bound 10 []) {}).refusals 0 2 .close 0 ++ (chan (bound 10 []) {}).closeRefusals 0 2) (chan (bound 10 []) {})
        (src 0 0 0) = true ∧
      (anyTransition? ((chan (bound 10 []) {}).slot 0 0) 10 6).isSome = true ∧
      gives (exec (.close { ep := .e 2 }) (chan (bound 10 []) {})) (fun t =>
        ((t.self.ep 2).mode == .unbound) && t.net.map (·.body) == [.close 0 0x0001000000000A01]) = true ∧
      (Instr.abort { ep := .e 2 }).wf = true ∧ (chan (bound 10 []) {}).refusals 0 2 .abort 0 = [] ∧
      gives (exec (.abort { ep := .e 2 }) (chan (bound 10 []) {})) (fun t =>
        ((t.self.ep 2).mode == .unbound) && t.net.map (·.body) == [.close 0 0x0000000000000A01]) = true := by decide +kernel

/-- R165, R171: PROBE finds the message, and EPSTAT reads word 2. -/
theorem test_probe :
    WellFormed (.probe { ep := .e 2, d := .g 7 }) ∧ WellFormed (.epstat { ep := .e 2, d := .g 7, s1 := .g 5 }) ∧
      g7Is (chan (bound 1 (msg0 0)) {}) (exec (.probe { ep := .e 2, d := .g 7 }) (chan (bound 1 (msg0 0)) {}))
        0xA000000000000001 = true ∧
      g7Is (pairOf 2 (bound 1 [])) (exec (.epstat { ep := .e 2, d := .g 7, s1 := .g 4 }) (pairOf 2 (bound 1 [])))
        0x0F000004 = true := by decide +kernel

/-- One byte of CRC-32. -/
def crcByte (c : BitVec 32) (b : Byte) : BitVec 32 :=
  crcBit (crcBit (crcBit (crcBit (crcBit (crcBit (crcBit (crcBit (c ^^^ b.zeroExtend 32))))))))

theorem crc_part (a b : List Byte) (c d : BitVec 32) (h : a.foldl crcByte c = d) :
    (a ++ b).foldl crcByte c = b.foldl crcByte d := by rw [List.foldl_append, h]

/-- R172: PLOAD reports a wrong PROTOID as 8 and accepts the right one; witnesses of EndpointAndRefusalResults. -/
theorem test_pload_refused :
    WellFormed (.pload { d := .g 7, s1 := .g 4, s2 := .g 5 }) ∧
      issuesB (fieldsC { d := .g 7, s1 := .g 4, s2 := .g 5 }) (needsP1 (irOf (.pload { d := .g 7, s1 := .g 4, s2 := .g 5 }))) []
        (s456 (tcmA 0x400) 1 0) (src (tcmA 0x400) 1 0) = true ∧
      (s456 (tcmA 0x400) 1 0).localTrap .load (tcmA 0x400) 464 64 = none := by decide +kernel

theorem ping_pong_bytes :
    idBytes pingPong = ([1, 2, 2] ++ List.replicate 55 0) ++ (List.replicate 58 0 ++ (List.replicate 58 0 ++
      ((List.replicate 36 0 ++ [0x40, 0, 0, 0, 8, 8] ++ List.replicate 16 0) ++ (List.replicate 58 0 ++
        (List.replicate 58 0 ++ (List.replicate 58 0 ++ List.replicate 58 0)))))) := by
  rw [idBytes, List.mapIdx_eq_zipIdx_map]
  decide +kernel

theorem ping_pong_crc : crc32 (idBytes pingPong) = 0x9981A412 := by
  change ~~~((idBytes pingPong).foldl crcByte (BitVec.allOnes 32)) = 0x9981A412
  rw [ping_pong_bytes,
    crc_part _ _ _ 0x79991116 (by decide +kernel), crc_part _ _ _ 0x6b99def7 (by decide +kernel),
    crc_part _ _ _ 0x3d52a8d2 (by decide +kernel), crc_part _ _ _ 0xd0276808 (by decide +kernel),
    crc_part _ _ _ 0x3544282e (by decide +kernel), crc_part _ _ _ 0xd42acbb3 (by decide +kernel),
    crc_part _ _ _ 0x225a203e (by decide +kernel)]
  decide +kernel

theorem test_proto_id : refusal pingPong 0x1000 false = none := by
  have h : ¬(((crc32 (idBytes pingPong)).toNat != protoIdOf pingPong) = true) := by
    rw [ping_pong_crc]; decide +kernel
  rw [refusal, if_neg (by decide +kernel), if_neg (by decide +kernel), if_neg (by decide +kernel),
    if_neg (by decide +kernel), if_neg (by decide +kernel), if_neg (by decide +kernel), if_neg (by decide +kernel),
    if_neg h, if_neg (by decide)]

/-- R156: the refusals of EndpointAndRefusalResults: e1, an unbound endpoint, a send out of turn; and waits without a
credit or a message. -/
theorem test_refusals :
    leastDetail ((chan {} {}).refusals 0 1 .send 0) = some 6 ∧ leastDetail ((chan {} {}).refusals 0 2 .send 0) = some 1 ∧
      (chan {} {}).hasPeer 0 2 = true ∧
      leastDetail ((chan (bound 1 []) {}).refusals 0 2 .send 0) = some 3 ∧
      gives (exec (.send { ep := .e 2, s1 := .g 5 }) (chan (bound 1 []) {})) (fun t => t.self.kcause == 0x0307) = true ∧
      ((chan { bound 0 [] with credit := 4 } {}).begin (fieldsC { ep := .e 2, s1 := .g 5 })).sendOk 0 2 = false ∧
      gives (exec (.send { ep := .e 2, s1 := .g 5 }) (chan { bound 0 [] with credit := 4 } {}))
        (fun t => (t.self.wait.map (·.detail)) == some 0x21 && t.net.isEmpty) = true ∧
      gives (exec (.recv { ep := .e 2, d := .g 7, s3 := .q 1 }) (chan (bound 1 []) {}))
        (fun t => (t.self.wait.map (·.detail)) == some 0x20) = true ∧
      gives (exec (.connect { ep := .e 2, s1 := .g 4 }) (pairOf 0x1100000001 {})) (fun t =>
        t.self.kcause == 0x0D08) = true := by decide +kernel

/-! ## Family 4 -/

/-- Offset 0x14000 in virtual hall 0. -/
def hallA : Word := 0x14000

/-- A format-M instruction through g4 with g5 and g6. -/
def m456 (ty : Ty) : OpM := { ty := ty, s1 := .g 4, s2 := .g 5, imm := 0x40 }

/-- R132, R184, R230: RST enters the combining buffer and RATOMP goes out; witnesses of RemoteStoreResults. -/
theorem test_remote_stores :
    WellFormed (.rst (m456 .n32)) ∧ WellFormed (.rstv { m456 .n32 with s2 := .v 5 }) ∧ WellFormed (.ratomp (m456 .n32)) ∧
      issuesB (fieldsM (m456 .n32)) anyLevel [] (s456 hallA 0xAABB 0) (src hallA 0xAABB 0) = true ∧
      readsB (fieldsM { m456 .n32 with s2 := .v 5 }) anyLevel [] (s456 hallA 0 0) (src hallA 0 0) = true ∧
      (s456 hallA 0 0).self.active 0 0 false 8 ≠ [] ∧
      gives (exec (.rst (m456 .n32)) (s456 hallA 0xAABB 0)) (fun t =>
        (t.ownEntries 0).map (fun e => (e.line, e.bytes)) == [(0x501, [(0, 0xBB), (1, 0xAA), (2, 0), (3, 0)])]) = true ∧
      gives (exec (.ratomp (m456 .n32)) (s456 hallA 3 0)) (fun t =>
        t.flight.map (fun a => (a.addr, a.kind)) == [(0x14040, .ratomp 0 .n32 3)]) = true := by decide +kernel

theorem reachable_hall : Reachable (s456 hallA 0 0) (s456 hallA 0 0) 0x14040 4 ∧
    Reachable (s456 hallA 0 0) (s456 hallA 0 0) 0x14040 32 := by
  constructor <;> exact ⟨by decide +kernel, by decide +kernel, by decide +kernel, by decide +kernel, by decide +kernel,
    by decide +kernel⟩

/-- R186: a misaligned store is a posted fault with status ADDRESS; without MEMLINE it is refused; a full stream stalls;
witnesses of RemoteStoreResults. -/
theorem test_remote_store_ends :
    (0x14041#64).toNat % 4 ≠ 0 ∧
      gives (exec (.rst { m456 .n32 with imm := 0x41 }) (s456 hallA 0 0)) (fun t =>
        t.self.postedQ == [{ addr := 0x14041, status := 0x0A, posted := true }] && t.self.pc == 0x1001) = true ∧
      { s456 hallA 0 0 with flight := (List.range 32).map fun k => { id := k, core := 0, cls := .a, addr := 0, kind := .read 8 } }.slotsFull 0 = true ∧
      gives (exec (.rst (m456 .n32))
        { s456 hallA 0 0 with flight := (List.range 32).map fun k => { id := k, core := 0, cls := .a, addr := 0, kind := .read 8 } })
        (fun t => t.self.wait.isSome && t.self.pc == 0x1000) = true ∧
      gives (exec (.rst (m456 .n32)) (oneCore { thread with eps := thread.eps.set 0 {} })) (fun t => t.self.kcause == 0x0107) = true := by
  decide +kernel

/-- Core 0 with one entry in its combining buffer. -/
def buffered : State :=
  { s456 0x14040 0 0 with clusters := [(0, { comb := [{ id := 7, owner := 0, cls := .o, line := 0x501, bytes := [(0, 1)] }] })], fresh := 8 }

/-- R185, R213: RFLUSH drains the entry, FENCE waits for it with DETAIL 0x26, and goes on where nothing is outstanding;
witnesses of FenceResults. -/
theorem test_fences :
    WellFormed (.rflush { s1 := .g 4 }) ∧ WellFormed (.fence { sub := 3 }) ∧ WellFormed (.fencex { sub := 3, s3 := .g 6 }) ∧
      issuesB (fieldsM { s1 := .g 4 }) anyLevel [] buffered (src 0x14040 0 0) = true ∧
      issuesB (fieldsM { sub := 3 }) (limitPriv (irOf (.fence { sub := 3 })) 0) [] buffered (src 0 0 0) = true ∧
      buffered.ownEntries 0 ≠ [] ∧ buffered.access? 7 = none ∧
      gives (exec (.rflush { s1 := .g 4 }) buffered) (fun t => (t.ownEntries 0).isEmpty && t.flight.map (·.id) == [7]) = true ∧
      gives (exec (.fence { sub := 3 }) buffered) (fun t =>
        (t.self.wait.map (·.detail)) == some 0x26 && t.flight.map (·.id) == [7]) = true ∧
      (s456 0 0 0).pending 0 = [] ∧ (s456 0 0 0).self.tl = (s456 0 0 0).self.issued ∧
      gives (exec (.fencex { sub := 3 }) (s456 0 0 0)) (fun t => t.self.pc == 0x1001) = true ∧
      (s456 0 0 0x400).scopeBad 0 0x400 = true ∧
      gives (exec (.fencex { sub := 3, s3 := .g 6 }) (s456 0 0 0x400)) (fun t => t.self.kcause == 0x0905) = true := by
  decide +kernel

/-- Core 0 with an access that is not acknowledged. -/
def outstanding (a b : Word) : State :=
  { s456 a b 0 with flight := [{ id := 3, core := 0, cls := .o, addr := 0x15000, kind := .store [(0, 1)] }], fresh := 8 }

/-- R184: a release waits behind every access of its core; a store to the host interface goes out; witnesses of
RemoteStoreResults. -/
theorem test_releases :
    (outstanding hallA 3).pendIds 0 (fun _ => true) = [3] ∧
      gives (exec (.rst { m456 .n32 with ord := .rel }) (outstanding hallA 3)) (fun t =>
        (t.flight.drop 1).map (fun a => (a.addr, a.after)) == [(0x14040, [3])] && (t.ownEntries 0).isEmpty) = true ∧
      gives (exec (.ratomp { m456 .n32 with ord := .rel }) (outstanding hallA 3)) (fun t =>
        (t.flight.drop 1).map (fun a => (a.addr, a.after)) == [(0x14040, [3])]) = true ∧
      winOf (BitVec.ofNat 64 (2 * 2 ^ 44 + 0x40)) ≤ 2 := by decide +kernel

/-- R133, R213: a FENCE that waits goes on when what it waits for is acknowledged; a witness of FenceResults. -/
theorem test_fence_ends :
    (oneCore { thread with wait := some { detail := 0x26, left := none, stage := .fence [7] [0, 0], pc := 0x1000 } }).self.fenceStage =
        some ([7], [0, 0]) ∧
      gives (exec (.fence { sub := 3 })
        (oneCore { thread with wait := some { detail := 0x26, left := none, stage := .fence [7] [0, 0], pc := 0x1000 } }))
        (fun t => t.self.pc == 0x1001 && t.self.wait.isNone) = true ∧
      gives (exec (.fencex { sub := 3 })
        (oneCore { thread with wait := some { detail := 0x27, left := none, stage := .fence [] [0, 0], pc := 0x1000 } }))
        (fun t => t.self.pc == 0x1001) = true := by decide +kernel

/-- Core 0 with the worked object of R194 at TCM 0x140: one arrival awaited, 100 bytes, FCAP 4. -/
def withObject (a b : Word) : State :=
  { s456 a b (tcmA 0x140) with
    mem := writeBytes [] (tcmKey 0 0x140) (leBytes 8 0x100000001 ++ leBytes 8 100 ++ leBytes 8 0x400000000 ++ leBytes 8 0x8000000000000180) }

/-- R193, R194, R202: BINIT, ARRIVE on an own object and on core 1's; witnesses of ArrivalResults. -/
theorem test_arrivals :
    WellFormed (.binit { s1 := .g 4, s2 := .g 5, s3 := .g 6 }) ∧ WellFormed (.arrive { sub := 1, s3 := .g 6 }) ∧
      WellFormed (.arrive { sub := 1, s2 := .g 5, s3 := .g 6 }) ∧
      issuesB (fieldsM { s1 := .g 4, s2 := .g 5, s3 := .g 6 }) anyLevel [] (s456 0 0x400000001 (tcmA 0x140))
        (src 0 0x400000001 (tcmA 0x140)) = true ∧
      (s456 0 0 0).self.objDetail (tcmA 0x140) = none ∧ Memory.wf (withObject 0 1).mem = true ∧
      gives (exec (.binit { s1 := .g 4, s2 := .g 5, s3 := .g 6 }) (s456 0 0x400000001 (tcmA 0x140))) (fun t =>
        t.obj (tcmKey 0 0x140) == { w0 := 0x100000001, w1 := 0, w2 := 0x400000000, w3 := 0 }) = true ∧
      (withObject 0 1).objUndef (localKey 0 (tcmA 0x140)) = false ∧ (withObject 0 1).pending 0 = [] ∧
      gives (exec (.arrive { sub := 1, s3 := .g 6 }) (withObject 0 1)) (fun t =>
        (t.obj (tcmKey 0 0x140)).arrv == 0 && (t.obj (tcmKey 0 0x140)).bytes == 100 && (t.obj (tcmKey 0 0x140)).phase == 0) = true ∧
      (withObject 0 1).target 0 1 = .core 1 ∧
      gives (exec (.arrive { sub := 1, s2 := .g 5, s3 := .g 6 }) (withObject 0 1)) (fun t =>
        t.flight.map (fun a => (a.node, a.kind)) == [(1, .arrival 0 1 (tcmA 0x140) 1)]) = true := by decide +kernel

/-- R203 to R205: observing a phase, a timeline and a fault queue; witnesses of ObservationResults. -/
theorem test_observations :
    WellFormed (.btest { d := .g 7, s2 := .g 5, s3 := .g 6 }) ∧ WellFormed (.bwait { d := .g 7, s2 := .g 5, s3 := .g 6 }) ∧
      WellFormed (.tlwait { s2 := .g 5 }) ∧ WellFormed (.tlread { d := .g 7, imm := 4 }) ∧
      (withObject 0 0).self.observeDetail (tcmA 0x140) = none ∧
      g7Is (withObject 0 0) (exec (.btest { d := .g 7, s2 := .g 5, s3 := .g 6 }) (withObject 0 0)) 0 = true ∧
      g7Is (withObject 0 1) (exec (.bwait { d := .g 7, s2 := .g 5, s3 := .g 6 }) (withObject 0 1)) 0 = true ∧
      gives (exec (.bwait { d := .g 7, s2 := .g 5, s3 := .g 6 }) (withObject 0 0))
        (fun t => (t.self.wait.map (·.detail)) == some 0x24) = true ∧
      gives (exec (.tlwait { s2 := .g 5 }) (withObject 0 1)) (fun t => (t.self.wait.map (·.detail)) == some 0x25) = true ∧
      gives (exec (.tlwait { s2 := .g 5 }) (withObject 0 0)) (fun t => t.self.pc == 0x1001) = true ∧
      g7Is (oneCore thread) (exec (.tlread { d := .g 7, imm := 4 })
        (oneCore { thread with faultQ := thread.faultQ.set 0 [{ addr := 0x77, status := 4, ctx := 0, item := 3, tlnum := 2 }] }))
        0x0400000300000002 = true := by decide +kernel

/-- R233: WAITA of another value goes on, of the same value waits; witnesses of ObservationResults. -/
theorem test_waita :
    WellFormed (.waita { ty := .n32, d := .g 7, s1 := .g 4, s2 := .g 5 }) ∧
      (s456 0x8000000100000000 0 0).localTrap .load 0x8000000100000000 4 4 = none ∧
      ((s456 0x8000000100000000 0 0).cluster 0).monitorRoom (localKey 0 0x8000000100000000) = true ∧
      g7Is (s456 0x8000000100000000 1 0)
        (exec (.waita { ty := .n32, d := .g 7, s1 := .g 4, s2 := .g 5 }) (s456 0x8000000100000000 1 0)) 0 = true ∧
      gives (exec (.waita { ty := .n32, d := .g 7, s1 := .g 4, s2 := .g 5 }) (s456 0x8000000100000000 0 0))
        (fun t => (t.self.wait.map (·.detail)) == some 0x28 && (t.cluster 0).monitors.length == 1) = true := by decide +kernel

/-- The worked GET of 100 bytes from 0x1_2330: three items and 100 bytes on the object; witnesses of EngineCommandResults. -/
theorem test_get_worked :
    WellFormed (.get { ctx := 1, d := .g 8, s1 := .g 4, s2 := .g 5, s3 := .g 6, imm := 0x30 }) ∧
      issuesB (fieldsM { ctx := 1, d := .g 8, s1 := .g 4, s2 := .g 5, s3 := .g 6, imm := 0x30 }) anyLevel [.g 8]
        { withObject 0x12300 100 with cores := [(0, withG thread [(4, 0x12300), (5, 100), (6, tcmA 0x140), (8, tcmA 0x200)])] }
        (src 0x12300 100 (tcmA 0x140)) = true ∧
      (withObject 0 0).self.contextFull 1 = false ∧ (withObject 0 0).self.objTrap (.g 6) (tcmA 0x140) = none ∧
      (withObject 0 0).self.rangeTrap .store (tcmA 0x200) 100 1 = none ∧ lines 0x12330 100 = 3 ∧
      gives (exec (.get { ctx := 1, d := .g 8, s1 := .g 4, s2 := .g 5, s3 := .g 6, imm := 0x30 })
        { withObject 0x12300 100 with cores := [(0, withG thread [(4, 0x12300), (5, 100), (6, tcmA 0x140), (8, tcmA 0x200)])] })
        (fun t => t.self.issued[1] == 1 && t.self.cmds.map (·.items.length) == [3] && (t.obj (tcmKey 0 0x140)).bytes == 200) = true := by
  decide +kernel

/-- R187: a seventeenth command of context 0 waits. -/
theorem test_context_full :
    gives (exec (.put { d := .g 8, s1 := .g 4, s2 := .g 5 }) (oneCore { thread with cmds := (List.range 16).map fun k => { ctx := 0, tl := k, op := .mclr 0 0, items := [] } }))
      (fun t => t.self.wait.isSome && t.self.issued[0] == 0) = true := by decide +kernel

/-- A walk record of two elements of 8 bytes (R198). -/
def walkBytes (base : Nat) : List Byte := leBytes 8 base ++ leBytes 8 0x108 ++ leBytes 8 (2 * 2 ^ 40 + 8)

/-- Core 0 with walk records at TCM 0x300, of local bytes, and at 0x340, of global ones. -/
def withWalks : State :=
  { oneCore (withG thread [(4, tcmA 0x300), (8, tcmA 0x340)]) with
    mem := writeBytes (writeBytes [] (tcmKey 0 0x300) (walkBytes 0x8000000000000400)) (tcmKey 0 0x340) (walkBytes 0x14000) }

/-- R198, R199: a COPY of two elements from local to global has two items; a witness of EngineCommandResults. -/
theorem test_copy :
    WellFormed (.copy { d := .g 8, s1 := .g 4 }) ∧
      issuesB (fieldsM { d := .g 8, s1 := .g 4 }) anyLevel [.g 8] withWalks (src (tcmA 0x300) 0 0) = true ∧
      walkOf? (readBytes withWalks.mem (tcmKey 0 0x300) 64) = some { base := tcmA 0x400, elem := 8, dims := [(2, 8)] } ∧
      withWalks.self.walkTrap .load { base := tcmA 0x400, elem := 8, dims := [(2, 8)] } = none ∧
      withWalks.self.walkTrap .store { base := hallA, elem := 8, dims := [(2, 8)] } = none ∧
      gives (exec (.copy { d := .g 8, s1 := .g 4 }) withWalks) (fun t =>
        t.self.cmds.map (fun k => (k.op, k.items.length)) ==
          [(.copy { base := tcmA 0x400, elem := 8, dims := [(2, 8)] } { base := hallA, elem := 8, dims := [(2, 8)] }, 2)]) = true := by
  decide +kernel

/-! ## Family 6 -/

/-- Core 0 with the object of `withObject`, g4, g5, g8 and its matrix unit idle. -/
def matrixAt (a b d : Word) : State :=
  { withObject 0 0 with cores := [(0, withG thread [(4, a), (5, b), (6, tcmA 0x140), (8, d)])] }

/-- A format-M instruction with its destination place in g8 and its object in g6. -/
def mat (ty : Ty) : OpM := { ty := ty, d := .g 8, s1 := .g 4, s3 := .g 6 }

/-- R292 to R298: the six commands are accepted with their items; witnesses of MatrixCommands. -/
theorem test_matrix_commands :
    WellFormed (.mloadw { mat .dx8 with imm := 2 }) ∧ WellFormed (.mfmt { ty := .fp32, s1 := .g 4, s3 := .g 6 }) ∧
      WellFormed (.mclr { s1 := .g 4, s3 := .g 6 }) ∧ WellFormed (.mstat { d := .g 8, s3 := .g 6 }) ∧
      issuesB (fieldsM { mat .dx8 with imm := 2 }) anyLevel [.g 8] (matrixAt (tcmA 0x600) 0 (tcmA 0x800))
        (src (tcmA 0x600) 0 (tcmA 0x140)) = true ∧
      (matrixAt 0 0 0).self.contextFull 0 = false ∧ (matrixAt 0 0 0).self.objTrap (.g 6) (tcmA 0x140) = none ∧
      (matrixAt 0 0 0).self.rangeTrap .load (tcmA 0x800) (imageBytes .dx8) 32 = none ∧
      (matrixAt 0 0 0).self.rangeTrap .load (tcmA 0x600) (scaleBytes .dx8 2) 2 = none ∧
      gives (exec (.mloadw { mat .dx8 with imm := 2 }) (matrixAt (tcmA 0x600) 0 (tcmA 0x800))) (fun t =>
        t.self.accepted == 1 && t.self.cmds.map (fun k => (k.op, k.items)) ==
          [(.mloadw .dx8 2 0 (tcmA 0x800) (tcmA 0x600), [.pending])] && (t.obj (tcmKey 0 0x140)).bytes == 101) = true ∧
      gives (exec (.mclr { s1 := .g 4, s3 := .g 6 }) (matrixAt 0x0804 0 0)) (fun t =>
        t.self.cmds.map (fun k => (k.op, k.items.length)) == [(.mclr 4 8, 8)]) = true ∧
      gives (exec (.mstat { d := .g 8, s3 := .g 6 }) (matrixAt 0 0 (tcmA 0x800))) (fun t =>
        t.self.cmds.map (·.op) == [.mstat (tcmA 0x800)]) = true := by decide +kernel

theorem names_columns : NamesColumns 0x0804 4 8 := ⟨rfl, by decide, by decide, by decide⟩

/-- R299: AMOV out of an ACC column and into a FREE one; witnesses of ColumnAndCommandResults. -/
theorem test_amov :
    WellFormed (.amovRead { ty := .fp32, d := .v 3, imm := 5 }) ∧ WellFormed (.amovWrite { ty := .fp32, s1 := .v 1, imm := 5 }) ∧
      issuesB (fieldsM { ty := .fp32, s1 := .v 1, imm := 5 }) anyLevel [] (withV [(1, 7)]) (src 0 0 0) = true ∧
      amovTrap { ty := .fp32, s1 := .v 1, imm := 5 } false (withV [(1, 7)]).self 5 = none ∧
      amovTrap { ty := .fp32, d := .v 3, imm := 5 } true (withV []).self 5 = none ∧
      gives (exec (.amovWrite { ty := .fp32, s1 := .v 1, imm := 5 }) (withV [(1, 7)])) (fun t =>
        t.self.acc[5] == { state := .acc, fmt := .fp32, bits := 7 }
          && gives (exec (.amovRead { ty := .fp32, d := .v 3, imm := 5 }) t) fun u => u.self.v[3] == 7) = true := by
  decide +kernel

/-- The encoding of MATCMD, core side (R286), with its OUTMSG and INMSG of one message. -/
def matCmd : List Byte :=
  encoding [0, 2 ^ 61, 0] 4 [trans 0 1 0 0, trans 0 0 6 0, trans 1 2 1 2, trans 2 3 0 1, trans 2 0 6 0, trans 3 2 1 2]
    ++ [1, 0, 1, 0, 0, 0, 0, 0, 0, 0, 0, 0, 32, 0]

/-- Core 0 with e2 bound to that protocol in a state. -/
def commander (st : Nat) (arrived : List Arrived) : State :=
  { oneCore (chanThread (bound st arrived) {}) with
    mem := writeByte (writeBytes [] (tcmKey 0 0x1F000) matCmd) (tcmKey 0 0x1E000) 9 }

/-- R301: MCMD sends its vector and waits for the status; witnesses of ColumnAndCommandResults. -/
theorem test_mcmd :
    WellFormed (.mcmd { d := .g 7, s1 := .e 2, s2 := .v 1 }) ∧
      issuesB (fieldsM { d := .g 7, s1 := .e 2, s2 := .v 1 }) (limitPriv (irOf (.mcmd { d := .g 7, s1 := .e 2, s2 := .v 1 })) 0) []
        (commander 2 []) (src 0 0 0) = true ∧
      (commander 2 []).commandRefusals 0 2 = [] ∧ (commander 2 []).self.commanded = false ∧
      gives (exec (.mcmd { d := .g 7, s1 := .e 2, s2 := .v 1 }) (commander 2 [])) (fun t =>
        t.net.map (fun p => (p.dst, p.chan)) == [(1, 9)] && (t.self.wait.map (·.detail)) == some 0x20
          && (t.self.ep 2).state == 3) = true ∧
      gives (exec (.mcmd { d := .g 7, s1 := .e 2, s2 := .v 1 })
        { commander 3 (msg0 2) with cores := [(0, { (commander 3 (msg0 2)).self with
            wait := some { detail := 0x20, left := none, stage := .commanded, pc := 0x1000 } })] }) (fun t =>
          t.self.g[7] == 9 && t.self.pc == 0x1001 && (t.self.ep 2).state == 2) = true := by decide +kernel

/-- R302: a capability is the word of its node; not one of a matrix unit, it is 0; witnesses of ColumnAndCommandResults. -/
theorem test_mcap :
    WellFormed (.mcap { d := .g 7, s1 := .g 4, imm := 1 }) ∧
      issuesB (fieldsM { d := .g 7, s1 := .g 4, imm := 1 }) (needsP1 (irOf (.mcap { d := .g 7, s1 := .g 4, imm := 1 }))) [] (s456 7 0 0) (src 7 0 0) = true ∧
      g7Is (s456 7 0 0) (exec (.mcap { d := .g 7, s1 := .g 4, imm := 1 }) (s456 7 0 0)) 0 = true ∧
      ((s456 0x500003 0 0).partOf? 0).isSome = true := by decide +kernel

/-- The cluster of core 0 as its domain 0, and a descriptor of 8 elements. -/
def inDomain : Core := { withG thread [(5, 0x801)] with kdom := thread.kdom.set 0 0x8003000300000000, v := thread.v.set 4 0x3F800000 }

/-- R308, R312, R345: RED contributes eight elements, REDW waits for its result, CSUM and VOTE contribute and wait; witnesses
of ReductionResults. -/
theorem test_reductions :
    WellFormed (.red { ty := .fp32, s1 := .v 4, s2 := .g 5 }) ∧ WellFormed (.redw { ty := .fp32, d := .v 4, s2 := .g 5, s3 := .g 7 }) ∧
      WellFormed (.csum { d := .v 4, s2 := .g 5, s3 := .g 7 }) ∧ WellFormed (.vote { d := .q 1, s1 := .q 2, s2 := .g 5 }) ∧
      inDomain.descBad 0x801 false true = false ∧ elemsOk .fp32 8 = true ∧
      inDomain.descBad 0 true false = false ∧ inDomain.descBad 0 false false = false ∧
      inDomain.descBad 0x802 false true = true ∧
      gives (exec (.red { ty := .fp32, s1 := .v 4, s2 := .g 5 }) (oneCore inDomain)) (fun t =>
        t.net.length == 1 && t.self.counts[1].redSeq == 1
          && gives (exec (.redw { ty := .fp32, d := .v 4, s2 := .g 5, s3 := .g 7 }) t) fun u =>
              (u.self.wait.map (·.detail)) == some 0x29) = true ∧
      gives (exec (.csum { d := .v 4, s2 := .g 5, s3 := .g 7 }) (oneCore (withG inDomain [(5, 0)]))) (fun t =>
        (t.self.wait.map (·.detail)) == some 0x2A && t.net.length == 1) = true ∧
      gives (exec (.vote { d := .q 1, s1 := .q 2, s2 := .g 5 }) (oneCore (withG inDomain [(5, 0)]))) (fun t =>
        (t.self.wait.map (·.detail)) == some 0x2E && t.net.length == 1) = true := by decide +kernel

/-! ## Family 7 and the system instructions -/

/-- A thread whose group is the whole hall. -/
def kg : Core := { inDomain with kgroup := rectWord 0 0 63 63 }

/-- A core that waits in FOLLOW, unclaimed, for its result in a g register (R114). -/
def followC (r : Nat) : Core :=
  { kg with wait := some { detail := 0x32, left := none, counting := true, stage := .following none, args := [r] } }

/-- A head with its length in g4, and cores 1 and 2. -/
def stairS (len : Word) (f : Nat → Core) : State :=
  { oneCore kg with cores := [(0, withG kg [(4, len)]), (1, f 1), (2, f 2)] }

/-- STAIR g7, g4 and the like. -/
def o74 : OpA := { d := .g 7, s1 := .g 4 }

/-- A member of stair 9, its head or not, detached or not. -/
def memberS (det head : Bool) : State :=
  { oneCore { kg with kstair := kstairOf (if head then 0 else 1) 0 3 ||| (if det then (0x4000000 : Word) else 0), place := some { stair := 9 } } with
    stairs := [{ id := 9, head := if head then 0 else 1, len := 3, tread := 1 }], fresh := 10 }

/-- R113, R114: a stair of three forms where both others follow; claims without them; the four refusals; witnesses of
StairResults. -/
theorem test_stair :
    WellFormed (.stair o74) ∧
      issuesB (fieldsA o74) (limitPriv (irOf (.stair o74)) 0) [] (stairS 3 fun k => followC (20 + k)) (src 3 0 0) = true ∧
      (stairS 3 fun k => followC (20 + k)).stairCode 0 3 0 = none ∧
      gives (exec (.stair o74) (stairS 3 fun k => followC (20 + k))) (fun t =>
        t.self.g[7] == 0 && t.self.kstair == 0x18000003 && (t.core 1).kstair == 0x10010003 && (t.core 2).kstair == 0x10020003
          && (t.core 2).pc == 0x1001 && (t.core 2).g[22] == 0 && t.stairs.length == 1) = true ∧
      gives (exec (.stair o74) (stairS 3 fun _ => kg)) (fun t =>
        (t.self.wait.map (·.detail)) == some 0x31 && (t.core 2).claimed == some 0) = true ∧
      g7Is (stairS 1 fun _ => kg) (exec (.stair o74) (stairS 1 fun _ => kg)) 1 = true ∧
      g7Is (stairS 70 fun _ => kg) (exec (.stair o74) (stairS 70 fun _ => kg)) 2 = true ∧
      g7Is (stairS 2 fun _ => { kg with claimed := some 5 }) (exec (.stair o74) (stairS 2 fun _ => { kg with claimed := some 5 })) 4 = true ∧
      { oneCore kg with cur := 511, cores := [(511, withG kg [(4, 2)])] }.stairCode 511 2 0 = some 2 ∧
      { oneCore kg with cur := 511, cores := [(511, { kg with kgroup := rectWord 0 0 1023 0 })] }.stairCode 511 2 0 = some 3 := by
  decide +kernel

/-- R114, R119, R121: FOLLOW waits, LAND waits as a detached member, LEAVE in its forms; witnesses of StairResults. -/
theorem test_members :
    WellFormed (.follow { d := .g 7 }) ∧ WellFormed (.land {}) ∧ WellFormed (.leave {}) ∧
      gives (exec (.follow { d := .g 7 }) (oneCore kg)) (fun t => (t.self.wait.map (·.detail)) == some 0x32) = true ∧
      g7Is (memberS false true) (exec (.follow { d := .g 7 }) (memberS false true)) 4 = true ∧
      (memberS true false).self.detached = true ∧ (memberS true false).self.isHead = false ∧
      (memberS false false).self.follower = true ∧
      gives (exec (.land {}) (memberS true false)) (fun t =>
        (t.self.wait.map (·.detail)) == some 0x33 && t.stairs.map (·.waiting) == [[0]]) = true ∧
      gives (exec (.land {}) (memberS false false)) (fun t => t.self.wait.isNone) = true ∧
      gives (exec (.leave {}) (memberS true false)) (fun t => t.self.kstair == 0 && t.self.pc == 0x1001) = true ∧
      gives (exec (.leave {}) (memberS false true)) (fun t => t.self.kstair == 0 && t.self.place.isNone) = true := by
  decide +kernel

/-- The launch record of barlaunch (ch. 22) at TCM 0x140, with an image at 0x10000, and an entry in the buffer. -/
def launchS : State :=
  { withTcm (tcmA 0x100) 0 0 0x140 (leBytes 8 0x10000 ++ leBytes 8 0 ++ leBytes 8 0x0100000A00080201 ++ leBytes 40 0) with
    clusters := buffered.clusters, fresh := 8 }

/-- Partition 0 changed. -/
def lpart (f : Partition → Partition) (s : State) : State := { s with parts := s.parts.map fun x => (x.1, f x.2) }

/-- R324, R325: LAUNCH answers 1 and posts; with 64 launches pending it answers 0; witnesses of TaskResults. -/
theorem test_launch :
    WellFormed (.launch { o74 with imm := 0x40 }) ∧
      issuesB (fieldsA { o74 with imm := 0x40 }) (launchPriv (irOf (.launch { o74 with imm := 0x40 }))) [] launchS
        (src (tcmA 0x100) 0 0) = true ∧
      launchS.localTrap .load (tcmA 0x140) 64 64 = none ∧
      launchTrap 0 launchS.self (tcmA 0x140) [0x10000, 0, 0x0100000A00080201, 0, 0, 0, 0, 0] = none ∧
      launchTrap (irOf (.launch { o74 with imm := 0x40 })) launchS.self (tcmA 0x140)
        ((List.range 8).map fun n => patternAt launchS.mem (localKey 0 (tcmA 0x140 + BitVec.ofNat 64 (8 * n))) 64) = none ∧
      gives (exec (.launch { o74 with imm := 0x40 }) launchS) (fun t =>
        t.self.g[7] == 1 && (t.ownEntries 0).isEmpty
          && (t.part? 0).any fun p => p.pending.map (fun l => (l.n, l.after)) == [(1, [7])]) = true ∧
      gives (exec (.launch { o74 with imm := 0x40 }) (lpart (fun p =>
        { p with pending := List.replicate 64 { n := 1, words := [], launcher := none, addr := 0 } }) launchS))
        (fun t => t.self.g[7] == 0) = true := by decide +kernel

/-- A task record at TCM 0x140. -/
def spawnS : State := withTcm (tcmA 0x140) 0 0 0x140 (leBytes 8 0x2002 ++ leBytes 8 11 ++ leBytes 8 22 ++ leBytes 8 33)

/-- A group queue with records in the segment of hall 0, and a core at a line with a target. -/
def takeS (l : List TaskRec) : State :=
  lpart (fun p => { p with groups := p.groups.map fun g => { g with queue := { segs := if l.isEmpty then [] else [(0, l)] } } })
    (oneCore (atBranch thread))

/-- R339, R340: SPAWN pushes a record, TAKE pops it and branches, and waits on an empty queue; witnesses of TaskResults. -/
theorem test_spawn_take :
    WellFormed (.spawn o74) ∧ issuesB (fieldsA o74) (limitPriv (irOf (.spawn o74)) 0) [] spawnS (src (tcmA 0x140) 0 0) = true ∧
      spawnS.self.wait = none ∧ spawnS.pending 0 = [] ∧ (recordAt spawnS (tcmA 0x140)).malformed = false ∧
      (spawnS.groupOf? 0).isSome = true ∧ spawnS.localTrap .load (tcmA 0x140) 32 32 = none ∧
      gives (exec (.spawn o74) spawnS) (fun t => t.self.g[7] == 0 && t.self.sent == 1 && (t.groupOf? 0).any fun x =>
        x.2.2.queue.segs == [(0, [{ w0 := 0x2002, w1 := 11, w2 := 22, w3 := 33 }])]) = true ∧
      WellFormed (.take { d := .g 8 }) ∧
      gives (exec (.take { d := .g 8 }) (takeS [{ w0 := 0x1002, w1 := 11, w2 := 22, w3 := 33 }])) (fun t =>
        t.self.g[8] == 11 && t.self.g[9] == 22 && t.self.g[10] == 33 && t.self.g[11] == 0x1001 && t.self.pc == 0x1002
          && t.self.rcvd == 1 && (t.groupOf? 0).any fun x => x.2.2.queue.segs == []) = true ∧
      gives (exec (.take { d := .g 8 }) (takeS [])) (fun t => (t.self.wait.map (·.detail)) == some 0x2B) = true := by
  decide +kernel

theorem take_target : LegalTarget (takeS []).self 0x1002 := legal_slot2

/-- A counter at TCM 0x140. -/
def joinS (n : Nat) : State :=
  { withTcm (tcmA 0x140) 0 0 0x140 (leBytes 8 n) with cores := [(0, withG thread [(4, tcmA 0x140), (8, 99)])] }

/-- R341: JOIN decrements a counter once, and reports a counter of 0; witnesses of TaskResults. -/
theorem test_join :
    WellFormed (.join { o74 with s3 := .g 8 }) ∧
      issuesB (fieldsA { o74 with s3 := .g 8 }).noS3 (limitPriv (irOf (.join { o74 with s3 := .g 8 })) 0) [] (joinS 5)
        (src (tcmA 0x140) 0 0) = true ∧
      (windowOf? (tcmA 0x140) 1).isSome = true ∧ joinTrap (joinS 5).self (tcmA 0x140) = none ∧
      poisoned (joinS 5) (localKey 0 (tcmA 0x140)) 8 = false ∧ Memory.wf (joinS 5).mem = true ∧
      gives (exec (.join { o74 with s3 := .g 8 }) (joinS 5)) (fun t =>
        t.self.g[7] == 5 && t.self.g[8] == 0 && readByte t.mem (tcmKey 0 0x140) == 4) = true ∧
      gives (exec (.join { o74 with s3 := .g 8 }) (joinS 0)) (fun t =>
        t.self.g[7] == 0 && t.self.g[8] == 0x35 && readByte t.mem (tcmKey 0 0x140) == 0) = true := by decide +kernel

/-- A core with an open channel at e2, at a line with a target. -/
def doneS : State :=
  { chan (bound 1 []) {} with cores := [(0, atBranch (withG (chanThread (bound 1 []) {}) [(4, 0x1002)]))] }

theorem done_target : LegalTarget doneS.self 0x1002 :=
  ⟨by decide, by decide, { addr := 0x1000, bytes := line [nopW, nopW, nopW, nopW] 4 4 }, by decide +kernel,
    fun _ => ⟨by decide +kernel, by decide +kernel⟩⟩

/-- R342, R330: DONE closes its channels and branches, EXIT ends the thread; witnesses of TaskResults. -/
theorem test_done_exit :
    WellFormed (.done { s1 := .g 4, sub := 1 }) ∧ WellFormed (.exit {}) ∧
      issuesB (fieldsA { s1 := .g 4, sub := 1 }) (limitPriv (irOf (.done { s1 := .g 4, sub := 1 })) 0) [] doneS
        (src 0x1002 0 0) = true ∧
      doneS.pending 0 = [] ∧ doneS.self.tl = doneS.self.issued ∧
      gives (exec (.done { s1 := .g 4, sub := 1 }) doneS) (fun t =>
        t.self.pc == 0x1002 && ((t.self.ep 2).mode == .unbound) && t.net.map (·.dst) == [1]) = true ∧
      doneS.self.memb = false ∧
      gives (exec (.exit {}) doneS) (fun t => (t.self.thread == .done) && ((t.self.ep 2).mode == .unbound)) = true ∧
      (outstanding 0 0).pending 0 ≠ [] ∧ (outstanding 0 0).self.memb = false ∧
      gives (exec (.exit {}) (outstanding 0 0)) (fun t => t.self.wait.any (fun w => !w.counting) && (t.self.thread == .running)) = true := by
  decide +kernel

/-- R344: a member's arrival at superstep 1 of level 1, and its completion; witnesses of ThreadControlResults. -/
theorem test_sstep :
    WellFormed (.sstep o74) ∧ issuesB (fieldsA o74) (limitPriv (irOf (.sstep o74)) 0) [] (oneCore (withG kg [(4, 1)])) (src 1 0 0) = true ∧
      kg.descBad 1 false false = false ∧
      gives (exec (.sstep o74) (oneCore (withG kg [(4, 1)]))) (fun t =>
        (t.self.wait.map (·.detail)) == some 0x2D && t.net.length == 1 && t.self.counts[1].stepArr == 1) = true ∧
      gives (exec (.sstep o74) (oneCore { withG kg [(4, 1)] with counts := kg.counts.set 1 { stepArr := 1 }, results := [{ kind := .step, level := 1, n := 1 }] }))
        (fun t => t.self.g[7] == 1 && t.self.pc == 0x1001 && t.self.counts[1].stepDone == 1) = true := by decide +kernel

/-- R350, R351, R385: WDOG returns REMAIN and arms; YIELD accepts; BUDGET reads the worked word of R385; witnesses of
ThreadControlResults. -/
theorem test_thread_control :
    WellFormed (.yield { d := .g 7 }) ∧ WellFormed (.wdog { d := .g 7, imm := 9 }) ∧ WellFormed (.budget { d := .g 7, imm := 4 }) ∧
      issuesB (fieldsA { d := .g 7 }) anyLevel [] (oneCore { kg with request := some false }) (src 0 0 0) = true ∧
      g7Is (oneCore kg) (exec (.yield { d := .g 7 }) (oneCore kg)) 0 = true ∧
      gives (exec (.yield { d := .g 7 }) (oneCore { kg with request := some false })) (fun t =>
        t.self.diverting && t.self.g[7] == 1) = true ∧
      gives (exec (.wdog { d := .g 7, imm := 9 }) (oneCore { kg with kwdog := 0x8000000000000007 })) (fun t =>
        t.self.g[7] == 7 && t.self.kwdog == 0x8000000000000009) = true ∧
      g7Is (lpart (fun p => { p with used := [(4 * 2 ^ 20, 2)], budgets := [(32, { cap := 0xFFFFF, limit := 2 })] }) (oneCore kg))
        (exec (.budget { d := .g 7, imm := 4 })
          (lpart (fun p => { p with used := [(4 * 2 ^ 20, 2)], budgets := [(32, { cap := 0xFFFFF, limit := 2 })] }) (oneCore kg)))
        0x000002FFFFF00002 = true ∧
      gives (exec (.budget { d := .g 7, s2 := .g 5, imm := 4 }) (oneCore (withG kg [(5, 12)]))) (fun t =>
        (t.part? 0).any fun p => (tget? p.budgets 32).any fun b => b.nextCap == some 12) = true ∧
      gives (exec (.budget { d := .g 7, s2 := .g 5, imm := 4 }) (oneCore (withG kg [(5, 0x100000)]))) (fun t =>
        t.self.kcause == 0x0F05) = true := by decide +kernel

/-- R386: SHOOT of the page of 0x14000 begins and waits, and completes when it is done; witnesses of ContextResults. -/
theorem test_shoot :
    WellFormed (.shoot { o74 with s2 := .g 5 }) ∧
      issuesB (fieldsA { o74 with s2 := .g 5 }) (needsP1 (irOf (.shoot { o74 with s2 := .g 5 }))) [] (s456 0x14000 1 0)
        (src 0x14000 1 0) = true ∧
      (s456 0x14000 1 0).shootPeer 0 0x14000 = some true ∧
      gives (exec (.shoot { o74 with s2 := .g 5 }) (s456 0x14000 1 0)) (fun t =>
        (t.self.wait.map (·.detail)) == some 0x34 && t.shoots.map (·.page) == [some (0, 0, 1)]) = true ∧
      gives (exec (.shoot { o74 with s2 := .g 5 })
        { oneCore { withG thread [(4, 0x14000), (5, 1)] with wait := some { detail := 0x34, left := none, stage := .shooting 3 } } with
          shoots := [{ id := 3, part := 0, stage := 1, page := none, done := true }] })
        (fun t => t.self.pc == 0x1001 && t.shoots.isEmpty) = true ∧
      gives (exec (.shoot { o74 with s2 := .g 5 }) (s456 0x14000 4 0)) (fun t => t.self.kcause == 0x0F05) = true := by
  decide +kernel

/-- R414: CSAVE of a bad place answers ADDRESS; a good one sends its record and waits; witnesses of ContextResults. -/
theorem test_csave :
    WellFormed (.csave { o74 with imm := 3 }) ∧
      issuesB (fieldsA { o74 with imm := 3 }) (needsP1 (irOf (.csave { o74 with imm := 3 }))) [] (s456 0x14000 0 0)
        (src 0x14000 0 0) = true ∧
      g7Is (s456 0x14080 0 0) (exec (.csave { o74 with imm := 3 }) (s456 0x14080 0 0)) 0x0A = true ∧
      gives (exec (.csave { o74 with imm := 3 }) (s456 0x14000 0 0)) (fun t =>
        (t.self.wait.map (·.detail)) == some 0x27 && (t.access? 1).any fun y => y.addr == 0x14000 && !y.posted) = true := by
  decide +kernel

/-- Core 0 with a rectangle in g5, and core 1. -/
def twoS (c : Core) (r : Word) : State := { oneCore thread with cores := [(0, withG thread [(5, r)]), (1, c)] }

/-- R403, R415: the forms with a rectangle ask core 1, and bring it back; witnesses of ContextResults. -/
theorem test_rectangles :
    WellFormed (.csaveRect { d := .g 7, s2 := .g 5 }) ∧ WellFormed (.crestRect { d := .g 7, s2 := .g 5 }) ∧
      rectWordBad (rectWord 0 0 3 3) = false ∧ rectWordBad (rectWord 3 0 0 3) = true ∧
      gives (exec (.csaveRect { d := .g 7, s2 := .g 5 }) (twoS thread (rectWord 0 0 3 3))) (fun t =>
        t.self.g[7] == 15 && t.mesh == [(1, false)]) = true ∧
      (twoS { thread with preempted := true, restored := true } (rectWord 0 0 3 3)).resumable 0 (rectWord 0 0 3 3) = [1] ∧
      gives (exec (.crestRect { d := .g 7, s2 := .g 5 }) (twoS { thread with preempted := true, restored := true, pc := 0x2040 } (rectWord 0 0 3 3)))
        (fun t => t.self.g[7] == 1 && !(t.core 1).preempted && (t.core 1).pc == 0x2040) = true ∧
      gives (exec (.crestRect { d := .g 7, s2 := .g 5 }) (twoS { thread with diverting := true } (rectWord 0 0 3 3)))
        (fun t => t.self.g[7] == 1 && (t.core 1).resumeDue) = true := by decide +kernel

/-- R415: CREST asks for a record, and takes it where it has returned; witnesses of ContextResults. -/
theorem test_crest :
    WellFormed (.crest { o74 with imm := 1 }) ∧
      gives (exec (.crest { o74 with imm := 1 }) (s456 0x14000 0 0)) (fun t =>
        t.flight.length == 25 && (t.access? 1).any fun y => y.addr == 0x14040) = true ∧
      gives (exec (.crest { o74 with imm := 1 })
        { oneCore { thread with wait := some { detail := 0x27, left := none, stage := .saving ((List.range 25).map (· + 30)) } } with
          flight := (List.range 25).map fun k => { id := k + 30, core := 0, cls := .o, addr := 0, kind := .read 64, phase := .returned 0 (List.replicate 64 (BitVec.ofNat 8 k)) } })
        (fun t => t.self.wait.isNone && t.self.g[9] == 0x0101010101010101 && t.self.g[7] == 0) = true := by decide +kernel

/-! ## Events -/

/-- A leaf of level 1 with R and W, and D or not, at address 0 (R360). -/
def leafEntry (d : Bool) : List Byte := [0, 0, 0, 0, 0, 0, 0, if d then 0xD9 else 0xD8]

/-- Partition 0 with both stages mapping the first GiB of hall 0 to itself: tables at 0x11000 and 0x10000. -/
def mapped (s : State) : State :=
  lpart (fun p => { p with roots := [(0, 0x8000000000011000), (1, 0x8000000000010000)] })
    { s with mem := writeBytes (writeBytes s.mem (physKey (2 ^ 20) 0x10000) (leafEntry true)) (physKey (2 ^ 20) 0x11000) (leafEntry true) }

/-- An access of core 0 to 0x14000, under way to hall 0. -/
def flying (k : AccKind) (posted : Bool) (ph : AccPhase) : State :=
  { mapped (oneCore thread) with
    flight := [{ id := 5, core := 0, cls := .o, addr := 0x14000, kind := k, posted := posted, phase := ph, node := 2 ^ 20 }], fresh := 6 }

/-- R108: a fill of a mapped line, of zeros; a line that no hall serves fails with 0x09; witnesses of
StreamAndEngineEvents. -/
theorem test_line_fill :
    Memory.wf (mapped (oneCore thread)).mem = true ∧
      gives (exec (.lineFill 0 0x14000) (mapped (oneCore thread))) (fun t =>
        (t.self.cached? 0x14000).any fun l => l.bytes == List.replicate 64 0 && l.failed.isNone) = true ∧
      gives (exec (.lineFill 0 (0x14000 + 0xA000000000)) (mapped (oneCore thread))) (fun t =>
        (t.self.cached? (0x14000 + 0xA000000000)).any fun l => l.failed == some 0x09) = true := by decide +kernel

/-- R133, R181, R186, R361: an old entry drains; a read and a store are performed at hall 0; a failure becomes a posted
fault; witnesses of StreamAndEngineEvents. -/
theorem test_stream_events :
    gives (exec (.entryDrain 0 7) { oneCore thread with clusters := [(0, { comb := [{ id := 7, owner := 0, cls := .o, line := 0x501, bytes := [(0, 1)], age := 32 }] })], fresh := 8 })
        (fun t => (t.cluster 0).comb.isEmpty && t.flight.map (·.id) == [7]) = true ∧
      (flying (.read 8) false .sent).mayArrive { id := 5, core := 0, cls := .o, addr := 0x14000, kind := .read 8, posted := false, node := 2 ^ 20 } = true ∧
      ((flying (.read 8) false .sent).routedAccess { id := 5, core := 0, cls := .o, addr := 0x14000, kind := .read 8, posted := false, node := 2 ^ 20 }).1 = true ∧
      ((mapped (oneCore thread)).translate 0 { hx0 := 0, hy0 := 0, hw := 1, hh := 1, roots := [(0, 0x8000000000011000), (1, 0x8000000000010000)] }
        (2 ^ 20) (2 ^ 20) 0 0x14000 8 0).1 =
        .ok 0x14000 0x14000 0xD900000000000000 0xD900000000000000 (physKey (2 ^ 20) 0x11000) (physKey (2 ^ 20) 0x10000) ∧
      gives (exec (.remoteAccessArrival (.flight 5)) (flying (.read 8) false .sent)) (fun t =>
        (t.access? 5).map (·.phase) == some (.performed 0 (List.replicate 8 0))) = true ∧
      gives (exec (.remoteAccessArrival (.flight 5)) (flying (.store [(0, 1), (2, 3)]) true .sent)) (fun t =>
        readBytes t.mem (physKey (2 ^ 20) 0x14000) 4 == [1, 0, 3, 0]) = true ∧
      gives (exec (.acknowledgement 5 none) (flying (.store [(0, 1)]) true (.performed 0x12 []))) (fun t =>
        t.flight.isEmpty && t.self.postedQ == [{ addr := 0x14000, status := 0x12, posted := true }]) = true ∧
      gives (exec (.acknowledgement 5 none) (flying (.read 1) false (.performed 0 [1]))) (fun t =>
        (t.access? 5).map (·.phase) == some (.returned 0 [1])) = true := by decide +kernel

/-- An arrival from core 2 on its way to core 0's object. -/
def arriving (n : Nat) : State :=
  { withObject 0 0 with flight := [{ id := 5, core := 2, cls := .o, addr := 0, kind := .arrival 0 0 (tcmA n) 1, node := 0 }], fresh := 6 }

/-- R202, R233: an arrival counts on the object, one without an object fails with ADDRESS; a fired waiter wakes. -/
theorem test_arrival_events :
    (arriving 0x140).objectAt 0 (tcmA 0x140) = true ∧ (arriving 0x148).objectAt 0 (tcmA 0x148) = false ∧
      (arriving 0x140).self.diverts = false ∧ (arriving 0x140).objUndef (localKey 0 (tcmA 0x140)) = false ∧
      gives (exec (.remoteArrival 5) (arriving 0x140)) (fun t =>
        (t.obj (tcmKey 0 0x140)).arrv == 0 && (t.access? 5).map (·.phase) == some (.performed 0 [])) = true ∧
      gives (exec (.remoteArrival 5) (arriving 0x148)) (fun t =>
        (t.access? 5).map (·.phase) == some (.performed 0x0A [])) = true ∧
      ((arriving 0x140).flight.all fun a => (arriving 0x140).mayArrive a && ((arriving 0x140).routedAccess a).1) = true ∧
      gives (exec (.waitaWake 0) { oneCore { thread with wait := some { detail := 0x28, left := none } } with clusters := [(0, { monitors := [{ loc := 5, width := 4, value := 0, core := 0, fired := true }] })] })
        (fun t => (t.self.wait.map (·.stage)) == some (.monitoring true) && (t.cluster 0).monitors.isEmpty) = true := by
  decide +kernel

/-- Core 0 with command 0 of context 1, of one item. -/
def eng (op : EngineOp) (ph : ItemPhase) : State :=
  { mapped (oneCore { thread with issued := thread.issued.set 1 1, cmds := [{ ctx := 1, tl := 0, op := op, items := [ph], started := true }] }) with
    fresh := 6, board := { state := .ready, groups := [(3, leBytes 8 (2 ^ 63 + 1) ++ leBytes 2 0x8000)] } }

/-- Its item. -/
def item0 : ItemRef := { core := 0, ctx := 1, tl := 0, item := 0 }

/-- R188, R190, R201: the end of a GET's item, of a failed one, and of an MCAST with one member and with no group;
witnesses of StreamAndEngineEvents. -/
theorem test_engine_events :
    (eng (.get (tcmA 0x200) 0x14000 4) (.served [1, 2, 3, 4])).cmdReady 0
        { ctx := 1, tl := 0, op := .get (tcmA 0x200) 0x14000 4, items := [.served [1, 2, 3, 4]], started := true } = true ∧
      gives (exec (.engineItemEnd item0 none) (eng (.get (tcmA 0x200) 0x14000 4) (.served [1, 2, 3, 4]))) (fun t =>
        t.self.cmds.isEmpty && t.self.tl[1] == 1 && readBytes t.mem (tcmKey 0 0x200) 5 == [1, 2, 3, 4, 0]) = true ∧
      gives (exec (.engineItemEnd item0 none) (eng (.get (tcmA 0x200) 0x14000 4) (.failed 5))) (fun t =>
        t.self.tl[1] == 1 && t.self.faultQ[1] == [{ addr := 0x14000, status := 5, ctx := 1 }]) = true ∧
      mcastFits 0x4000 4 = true ∧ (eng (.mcast (tcmA 0x200) 0x4000 4 3) (.served [])).groupFor 0 3 = some [(0, 0)] ∧
      gives (exec (.combinedAcknowledgement item0 []) (eng (.mcast (tcmA 0x200) 0x4000 4 3) (.served []))) (fun t =>
        t.self.tl[1] == 1 && t.self.faultQ[1].isEmpty) = true ∧
      gives (exec (.combinedAcknowledgement item0 []) (eng (.mcast (tcmA 0x200) 0x4000 4 2) (.served []))) (fun t =>
        t.self.faultQ[1].map (·.status) == [0x14]) = true := by decide +kernel

/-- An enabled ring of 4 KiB at a host address, with some entries produced. -/
def ringAt (base prod : Nat) : Ring := { base := BitVec.ofNat 64 base, log := 4, prod := BitVec.ofNat 32 prod, cons := 0 }

/-- A page request of hall 0 that holds access 5. -/
def pageReq : PageReq :=
  { tag := 3, part := 0, stage := 1, window := 0, span := 0, level := 3, addr := 0x14000, iaddr := 0, acc := 0, rep := 0, accesses := [5] }

/-- Hall 0 with that request, posted or not, and both rings of VF 0. -/
def paging (k : AccKind) (posted : Bool) (reply : List Byte) : State :=
  { flying k true .held with
    ifaces := [(2 ^ 20, { requests := [{ pageReq with posted := posted }] })]
    mem := writeBytes (flying k true .held).mem (hostKey 0x2000) reply
    board := { state := .ready, perst := false, pwrgd := true, rq1 := [(0, ringAt 0x1000 0)], rp1 := [(0, ringAt 0x2000 1)] } }

/-- A reply to it with a code. -/
def replyOf (code : Nat) : List Byte := leBytes 8 (3 * 2 ^ 48 + 2 ^ 20) ++ leBytes 8 code

/-- R366, R367: the request enters its ring; FAIL, SUCCESS and a reply to nothing; witnesses of PageEvents. -/
theorem test_page_requests :
    ((paging (.read 8) false []).postable? (2 ^ 20)).map (·.tag) = some 3 ∧
      (paging (.read 8) false []).virtNode 0 (2 ^ 20) = 2 ^ 20 ∧
      gives (exec (.pageRequestPost (2 ^ 20)) (paging (.read 8) false [])) (fun t =>
        readBytes t.mem (hostKey 0x1000) 32 == leBytes 8 0x14000 ++ leBytes 8 (3 * 2 ^ 48 + 2 ^ 34 + 2 ^ 20) ++ leBytes 16 0
          && t.board.msix == [(1, 0)]) = true ∧
      ((paging (.read 8) true []).replied 0 1 3 (2 ^ 20)).isSome = true ∧
      gives (exec (.pageReply 0 1) (paging (.read 8) true (replyOf 1))) (fun t =>
        (t.access? 5).map (·.phase) == some (.performed 0x12 []) && (t.iface (2 ^ 20)).requests.isEmpty) = true ∧
      gives (exec (.pageReply 0 1) (paging (.read 8) true (replyOf 0))) (fun t =>
        (t.access? 5).map (·.phase) == some (.performed 0 (List.replicate 8 0))
          && (t.part? 0).any fun q => (q.notices.seg q.originHall).map (·.w0) == [0x14000]) = true ∧
      ((paging (.read 8) false []).replied 0 1 3 (2 ^ 20)).isSome = false ∧
      gives (exec (.pageReply 0 1) (paging (.read 8) false (replyOf 0))) (fun t =>
        t.board.rp1.map (·.2.cons) == [1] && (t.access? 5).map (·.phase) == some .held) = true := by decide +kernel

/-- A shoot-down of the 64 KiB page at 0x10000 of window 0, stage 2. -/
def shoot2 (away : Bool) (issuer : Option Nat) : Shoot :=
  { id := 4, part := 0, stage := 2, page := some (0, 0x10000, 2), away := away, issuer := issuer }

/-- A cached entry. -/
def cachedE (st w pg sz : Nat) : CacheEntry := { part := 0, stage := st, window := w, page := pg, size := sz, entry := 0, place := 0 }

/-- Hall 0's cache with five entries. -/
def caching (x : Shoot) : State :=
  { oneCore thread with
    shoots := [x], fresh := 6
    ifaces := [(2 ^ 20, { cache := [cachedE 2 0 1 3, cachedE 2 0 0 3, cachedE 1 0 1 3, cachedE 2 0 0 2, cachedE 2 1 1 3] })] }

/-- R370, R446, R436: what a shoot-down names goes from a cache; its completion; an interface that wakes; a budget period;
witnesses of PageEvents. -/
theorem test_caches :
    (caching (shoot2 false none)).unackedCaches (shoot2 false none) ≠ [] ∧
      gives (exec (.shootDown 4 (2 ^ 20)) (caching (shoot2 false none))) (fun t =>
        (t.iface (2 ^ 20)).cache == [cachedE 2 0 0 3, cachedE 1 0 1 3, cachedE 2 1 1 3]) = true ∧
      gives (exec (.shootDownComplete 4) (caching { shoot2 true none with acked := [0] })) (fun t => t.shoots.isEmpty) = true ∧
      gives (exec (.shootDownComplete 4) (caching { shoot2 true (some 0) with acked := [0] })) (fun t => t.shoots.map (·.done) == [true]) = true ∧
      isIface (2 ^ 20) = true ∧
      gives (exec (.interfacePowerDown (2 ^ 20)) (caching (shoot2 true none))) (fun t =>
        !(t.iface (2 ^ 20)).powered
          && gives (exec (.interfaceWake (2 ^ 20)) t) fun u => (u.iface (2 ^ 20)) == { powered := true }) = true ∧
      gives (exec .budgetPeriod (lpart (fun p => { p with used := [(3, 5)] }) (oneCore thread))) (fun t => (t.part? 0).any fun q => q.used == [(3, 5)]) ∧
      gives (exec .budgetPeriod { lpart (fun p => { p with used := [(3, 5)], budgets := [(32, { cap := 5, nextLimit := some 4 })] }) (oneCore thread) with clock := 65536 })
        (fun t => (t.part? 0).any fun q => q.used.isEmpty && q.budgets == [(32, { cap := 5, limit := 4 })]) = true := by
  decide +kernel

/-- A packet for core 0. -/
def pk (ep chan : Nat) (b : Body) (src : Nat) : Packet := { id := 4, dst := 0, ep := ep, chan := chan, src := src, body := b }

/-- It is the only one in the network. -/
def withNet (s : State) (p : Packet) : State := { s with net := [p], fresh := 6 }

/-- R145, R147, R142, R153, R174: a message, a word, a credit, a close notice and holds arrive; witnesses of
MessageEvents. -/
theorem test_message_events :
    (withNet (chan (bound 1 []) {}) (pk 2 9 .credit 1)).packet? 4 = some (pk 2 9 .credit 1) ∧
      (chan (bound 1 []) {}).self.diverts = false ∧
      ((withNet (chan (bound 1 []) {}) (pk 2 9 .credit 1)).routed (pk 2 9 .credit 1)).1 = true ∧
      (∀ q ∈ (withNet (chan (bound 1 []) {}) (pk 2 9 .hold 1)).net, (4 : Nat) ≤ q.id) ∧
      gives (exec (.messageArrival 4) (withNet (chan (bound 1 []) {}) (pk 2 9 (.msg 1 0 (List.replicate 32 5) false none) 1)))
        (fun t => (t.self.ep 2).arrived == [{ seq := 1, mt := 0 }] && readBytes t.mem (tcmKey 0 0x1E020) 32 == List.replicate 32 5) = true ∧
      gives (exec (.messageArrival 4) (withNet (oneCore thread) (pk 16 0 (.word 7) 1))) (fun t => (t.self.ep 16).linkIn == [7]) = true ∧
      gives (exec (.creditReturn 4) (withNet (chan { bound 1 [] with credit := 2 } {}) (pk 2 9 .credit 1)))
        (fun t => (t.self.ep 2).credit == 1 && t.net.isEmpty) = true ∧
      gives (exec (.closeNotice 4) (withNet (chan (bound 1 []) {}) (pk 2 9 (.close 3 0x77) 1)))
        (fun t => ((t.self.ep 2).mode == .closedAt) && (t.self.ep 2).closeNote == some (3, 0x77)) = true ∧
      gives (exec (.closeNotice 4) (withNet (chan { bound 1 [] with mode := .closedAt } {}) (pk 2 9 (.close 3 0x77) 1)))
        (fun t => (t.self.ep 2).closeNote.isNone) = true ∧
      gives (exec (.holdNotice 4) (withNet (chan (bound 1 []) {}) (pk 2 9 .hold 1))) (fun t => (t.self.ep 2).peerHeld) = true ∧
      gives (exec (.releaseNotice 4) (withNet (chan { bound 1 [] with peerHeld := true } {}) (pk 2 9 .release 1)))
        (fun t => !(t.self.ep 2).peerHeld) = true := by decide +kernel

/-- Core 0 in a CONNECT of e2 on channel 1, with the answer of its acceptor. -/
def answered (st : Nat) : State :=
  { pairOf 0 { mode := .connecting, binding := .user, slot := 0, peer := 1, peerEp := 2, chan := 1 } with
    cores := [(0, { chanThread { mode := .connecting, binding := .user, slot := 0, peer := 1, peerEp := 2, chan := 1 } {} with
      wait := some { detail := 0x22, left := none, stage := .connecting 1 none, args := [2, 0x1000000001, 0xFF, 0xFF] } })]
    net := [pk 2 1 (.answer st 1 2) 1], fresh := 6 }

/-- Core 0 in an ACCEPT of e2 that has answered the request of channel 5. -/
def accepting (b : Body) : State :=
  { pairOf 0 {} with
    cores := [(0, { chanThread {} {} with
      kept := [{ chan := 5, ep := 2, base := 0x1E000, len := 32, size := 32, pending := some (request pongPing) }]
      wait := some { detail := 0x23, left := none, stage := .accepting 5 none, args := [2, 7, 0, 0xFF] } })]
    net := [pk 2 5 b 1], fresh := 6 }

/-- R160, R161: a request, an acceptance and a refusal, a confirmation and a withdrawal arrive; witnesses of
ConnectionEvents. -/
theorem test_connection_events :
    gives (exec (.connectionRequest 4) (withNet (chan {} {}) (pk 2 9 (.request (request [])) 1)))
        (fun t => (t.self.ep 2).requests.length == 1) = true ∧
      ((answered 0).reserve 0 ((answered 0).slot 0 0)).isSome = true ∧
      gives (exec (.acceptorAnswer 4) (answered 0)) (fun t =>
        ((t.self.ep 2).mode == .openM) && t.net.map (·.body) == [.confirm] && t.self.wait.isNone && t.self.pc == 0x1001) = true ∧
      gives (exec (.acceptorAnswer 4) (answered 5)) (fun t =>
        ((t.self.ep 2).mode == .unbound) && t.self.kcause == 0x0508 && t.self.ktval == 0x1000000001) = true ∧
      (accepting .confirm).streamItem? 0 = none ∧ (accepting .confirm).self.steps = false ∧
      gives (exec (.confirmation 4) (accepting .confirm)) (fun t =>
        ((t.self.ep 2).mode == .openM) && t.self.g[7] == 0x1000000001 && t.self.pc == 0x1001 && t.self.kept.isEmpty) = true ∧
      gives (exec (.confirmation 4) (withNet (chan { bound 1 [] with requests := [{ request [] with chan := 9 }] } {}) (pk 2 9 .confirm 1)))
        (fun t => (t.self.ep 2).requests.map (·.confirmed) == [true]) = true ∧
      gives (exec (.withdrawal 4) (accepting .withdraw)) (fun t => t.self.kept.isEmpty && t.net.isEmpty) = true := by
  decide +kernel

/-- The memory peer of channel 9 with one request. -/
def memPeer (w : Bool) : PeerSide :=
  { chan := 9, node := 2 ^ 20, part := 0, core := 0, ep := 2, enc := pingPong, write := w
    arrived := [(0, 0, leBytes 8 0x14000 ++ leBytes 4 1 ++ leBytes 4 (2 ^ 32 - 8) ++ leBytes 16 0, false)] }

/-- Core 0 keeps the buffer of an endpoint that it delegated; core 3 has adopted it as e4. -/
def handing (nh : Option (Nat × Nat)) (b : Body) : State :=
  { chan {} {} with
    cores := [(0, { chanThread {} {} with kept := [{ chan := 9, ep := 2, base := 0x1E000, len := 128, desc := some { bound 1 [] with rseq := 4 }, size := 32, newHolder := nh }] }),
      (3, { thread with eps := thread.eps.set 4 { bound 1 [] with mode := .handover } })]
    net := [pk 2 9 b 3], fresh := 6 }

/-- R148, R149: a memory peer takes its request; the three notices of a handover; witnesses of HandoverEvents. -/
theorem test_handover_events :
    gives (exec (.memoryPeerRequest 9) { oneCore thread with peers := [memPeer false], fresh := 6 }) (fun t =>
        t.net.map (·.body) == [.credit] && t.peers.map (·.phase) == [.reading 0x14000 1 (-8) 0 false]) = true ∧
      gives (exec (.adoptedNotice 4) (handing none (.adopted 3 4))) (fun t =>
        t.net.map (·.body) == [.redirect 3 4] && t.self.kept.map (·.newHolder) == [some (3, 4)]) = true ∧
      gives (exec (.redirect 4) (withNet (chan { bound 1 [] with sseq := 3 } {}) (pk 2 9 (.redirect 3 4) 3))) (fun t =>
        t.net.map (·.body) == [.redirected 2] && (t.self.ep 2).peer == 3 && (t.self.ep 2).peerEp == 4) = true ∧
      gives (exec (.redirectAnswer 4) (handing (some (3, 4)) (.redirected 3))) (fun t =>
        (((t.core 3).ep 4).mode == .openM) && t.self.kept.map (·.passed) == [true]) = true := by decide +kernel

/-- The key of a tree over virtual (0, 0) to (3, 3). -/
def treeK (kind : TreeKind) : TreeKey := { part := 0, rect := 0x8003000300000000, dom := 0, kind := kind, n := 1 }

/-- The value of one member. -/
def nv (m e : Nat) : NodeVal := { elems := [e], members := [m] }

/-- A node of the reduction. -/
def treeN (lv : Nat) (slots : List (Nat × NodeVal)) : TreeNode :=
  { id := 3, key := treeK .red, level := lv, idx := 0, p := { nelem := 1 }, slots := slots, limit := some 9 }

/-- A contribution on its way to the reduction's node of a level, and nodes. -/
def treeS (nodes : List TreeNode) (lv nelem : Nat) (v : NodeVal) : State :=
  { oneCore inDomain with
    net := [{ id := 4, dst := treeDst, ep := 0, chan := 0, src := 0, body := .contribution (treeK .red) lv 0 0 { nelem := nelem } (some 9) v [] }]
    nodes := nodes, fresh := 6 }

/-- R309: the first contribution makes a node with its timer; a second joins; the top node with all completes, and on a
mismatch; witnesses of TreeEvents. -/
theorem test_contributions :
    (treeS [] 1 1 (nv 0 5)).late? (treeK .red) { nelem := 1 } = none ∧
      (presentSlots (rectFrom (treeK .red).rect) 1 0).any (fun k => k != 0) = true ∧
      gives (exec (.contribution 4) (treeS [] 1 1 (nv 0 5))) (fun t =>
        (t.node? (treeK .red) 1 0).any fun d => d.slots == [(0, nv 0 5)] && d.left == some 9) = true ∧
      gives (exec (.contribution 4) (treeS [treeN 1 [(1, nv 1 5)]] 1 1 (nv 0 5))) (fun t =>
        (t.node? (treeK .red) 1 0).any fun d => d.slots == [(0, nv 0 5), (1, nv 1 5)]) = true ∧
      { treeN 4 [] with slots := tset [] 0 (nv 0 5) }.full = true ∧
      gives (exec (.contribution 4) (treeS [treeN 4 []] 4 1 { elems := [0x41800000], members := [0, 1] })) (fun t =>
        t.finals.map (fun f => (f.status, f.v.elems)) == [(0, [0x41800000])] && t.net.map (·.dst) == [0, 1]) = true ∧
      gives (exec (.contribution 4) (treeS [treeN 4 []] 4 2 { elems := [0x41800000], members := [0, 1] })) (fun t =>
        t.finals.map (fun f => (f.status, f.v.elems)) == [(0x1C, [0])] && t.nodes.isEmpty) = true := by decide +kernel

/-- R309: timers that expire, at a level 1 node with one slot and at the top; R310: a result arrives; witnesses of
TreeEvents. -/
theorem test_timers :
    gives (exec (.nodeTimerExpiry 3) { oneCore inDomain with nodes := [{ treeN 1 [(1, nv 1 5)] with left := some 0 }], fresh := 6 })
        (fun t => t.nodes.map (·.passed) == [true] && t.net.map (fun q => match q.body with
          | .contribution _ lv _ _ _ _ v _ => (lv, v.elems, v.missing)
          | _ => (0, [], [])) == [(2, [5], [0, 2, 3, 1024, 1025, 1026, 1027, 2048, 2049, 2050, 2051, 3072, 3073, 3074, 3075])]) = true ∧
      gives (exec (.nodeTimerExpiry 3) { oneCore inDomain with nodes := [{ treeN 4 [] with left := some 0 }], fresh := 6 })
        (fun t => t.finals.map (fun f => (f.status, f.v.missing.length)) == [(5, 16)]) = true ∧
      gives (exec (.resultArrival 4) { oneCore thread with net := [{ id := 4, dst := 0, ep := 0, chan := 0, src := 0, body := .result { kind := .red, level := 0, n := 1 } }] })
        (fun t => t.self.results == [{ kind := .red, level := 0, n := 1 }] && t.net.isEmpty) = true := by decide +kernel

/-- A superstep or vote that every member has reached. -/
def reached (k : TreeKind) : State :=
  { oneCore inDomain with
    nodes := [{ id := 3, key := treeK k, level := 4, idx := 0, p := {}, slots := (rectFrom (treeK k).rect).members.map fun m => (m, { members := [m], ones := 1 }) }]
    fresh := 6 }

/-- R344, R345: a superstep and an unanimous vote complete; witnesses of TreeEvents. -/
theorem test_domains :
    (reached .step).nodes.map (reached .step).awaited = [[]] ∧
      gives (exec (.superstepComplete 3) (reached .step)) (fun t => t.net.length == 16 && t.nodes.isEmpty) = true ∧
      gives (exec (.voteComplete 3) (reached .vote)) (fun t => t.net.length == 16 && t.net.all fun q => match q.body with
        | .result r => r.ones == 16 && r.flags == 1
        | _ => false) = true := by decide +kernel

/-- The matrix unit of core 0 at the far end of a channel of core 3, with one message. -/
def unitSide (auth : Option (Word × Nat)) (mt : Nat) (bs : List Byte) : PeerSide :=
  { chan := 9, node := 5 * 2 ^ 20, part := 0, core := 3, ep := 2, enc := [], matrix := true, auth := auth, arrived := [(0, mt, bs, false)] }

/-- A command vector (R300). -/
def vecOf (op s1 : Nat) : List Byte := leBytes 4 op ++ leBytes 4 0 ++ leBytes 8 0 ++ leBytes 8 s1 ++ leBytes 8 0

/-- R286 to R288: a word of a partition that does not exist is refused; a spent capability, one without the right, and a carried
MCLR; witnesses of MatrixEvents. -/
theorem test_commanders :
    (oneCore thread).capGood { unitSide none 0 [] with part := 1 } (5 * 2 ^ 20) = false ∧
      gives (exec (.capWord 9) { oneCore thread with peers := [{ unitSide none 0 (leBytes 8 (5 * 2 ^ 20)) with part := 1 }], fresh := 6 }) (fun t =>
        t.peers.isEmpty && t.net.length == 3) = true ∧
      gives (exec (.commandVector 9) { oneCore thread with peers := [unitSide (some (BitVec.ofNat 64 (3 * 2 ^ 24 + 15 * 2 ^ 40), 3)) 1 (vecOf 0x183 0x804)], fresh := 6 })
        (fun t => t.peers.isEmpty && t.net.length == 3) = true ∧
      gives (exec (.commandVector 9) { oneCore thread with peers := [unitSide (some (BitVec.ofNat 64 (3 * 2 ^ 24), 1)) 1 (vecOf 0x183 0x804)], fresh := 6 })
        (fun t => t.peers.length == 1 && t.self.cmds.isEmpty && t.net.map (·.body) == [.credit, .msg 0 2 (leBytes 8 0x20031) false none]) = true ∧
      (carried? (vecOf 0x183 0x804)).isSome = true ∧
      gives (exec (.commandVector 9) { oneCore thread with peers := [unitSide (some (BitVec.ofNat 64 (3 * 2 ^ 24 + 15 * 2 ^ 40), 1)) 1 (vecOf 0x183 0x804)], fresh := 6 })
        (fun t => t.self.cmds.map (fun k => (k.tl, k.items.length, k.chan)) == [(1, 8, some 9)] && t.self.carried == 1) = true := by
  decide +kernel

/-- Core 0 with one matrix command, its items pending, and a latched fp32 block of ones. -/
def unitRuns (op : EngineOp) (n : Nat) : State :=
  { oneCore { thread with
      latched := some { fmt := .fp32, mode := 0, axis := 0, elems := (List.replicate 64 [0, 0, 0x80, 0x3F]).flatten, scales := [] }
      cmds := [{ ctx := 1, tl := 0, op := op, items := List.replicate n .pending, started := true, matrix := true }] } with
    mem := writeBytes [] (tcmKey 0 0x400) ((List.replicate 8 [0, 0, 0x80, 0x3F]).flatten), fresh := 6 }

/-- R274, R293, R294, R296, R298: a row of ones against a block of ones gives eight in each output; a block is latched; a
format is refused; columns are cleared; the status record; witnesses of MatrixEvents. -/
theorem test_matrix_runs :
    (unitRuns (.mclr 4 8) 8).cmdReady 0 { ctx := 1, tl := 0, op := .mclr 4 8, items := List.replicate 8 .pending, started := true, matrix := true } = true ∧
      gives (exec (.matrixQueueRun 0) (unitRuns (.mstream .fp32 0 0 (.walk { base := tcmA 0x400, elem := 8, dims := [(4, 8)] }) (tcmA 0) 4 1) 1))
        (fun t => t.self.accOut false 4 0 == 0x41000000 && t.self.accOut false 4 7 == 0x41000000
          && t.self.cmds.map (·.items) == [[.served []]]) = true ∧
      gives (exec (.matrixQueueRun 0) (unitRuns (.mloadw .fp32 0 0 (tcmA 0x400) (tcmA 0)) 1)) (fun t =>
        t.self.latched.any fun b => b.elems.take 5 == [0, 0, 0x80, 0x3F, 0]) = true ∧
      gives (exec (.matrixQueueRun 0) (unitRuns (.mloadw .fp32 1 0 (tcmA 0x400) (tcmA 0)) 1)) (fun t =>
        t.self.latched.isNone && t.self.cmds.map (·.items) == [[.failed 8]]) = true ∧
      gives (exec (.matrixQueueRun 0) (unitRuns (.mclr 4 8) 8)) (fun t => ((t.self.col 4).state == .free)) = true ∧
      gives (exec (.matrixQueueRun 0) (unitRuns (.mstat (tcmA 0x800)) 1)) (fun t =>
        readBytes t.mem (tcmKey 0 0x800) 8 == leBytes 8 (2 ^ 63 + 9 * 2 ^ 8)) = true := by decide +kernel

/-- Cores 0 to 2. -/
def threeS (f : Nat → Core) (x : List Stair) : State :=
  { oneCore kg with cores := [(0, f 0), (1, f 1), (2, f 2)], stairs := x, fresh := 10 }

/-- Core 0 claims cores 1 and 2, which follow. -/
def claimS : State :=
  threeS (fun k =>
    if k = 0 then { kg with claimed := some 0, wait := some { detail := 0x31, left := none, stage := .claiming 3, args := [3, 1, 7, 0xFF] } }
    else { kg with claimed := some 0, wait := some { detail := 0x32, left := none, counting := false, stage := .following (some 0), args := [20 + k] } }) []

/-- A stair at whose landing core 2, detached, waits. -/
def landS : State :=
  threeS (fun k =>
    { kg with
      kstair := kstairOf k 0 3 ||| (if k = 2 then (0x4000000 : Word) else 0)
      place := some { stair := 9, next := if k = 1 then 2 else 0 }
      wait := if k = 1 then none else some { detail := 0x33, left := none, stage := .landed } })
    [{ id := 9, head := 0, len := 3, tread := 1, landing := some 2, waiting := [2] }]

/-- R113, R119: a stair forms, and a landing ends; witnesses of ThreadEvents. -/
theorem test_stair_events :
    gives (exec (.stairFormation 0) claimS) (fun t =>
        t.self.g[7] == 0 && t.self.kstair == 0x18001003 && (t.core 2).kstair == 0x10021003 && (t.core 2).pc == 0x1001
          && (t.core 2).wait.isNone) = true ∧
      (landS.core 1).arrivedAt { id := 9, head := 0, len := 3, tread := 1, landing := some 2, waiting := [2] } 1 2 = true ∧
      landS.streamItem? 0 = none ∧
      gives (exec (.landing 0) landS) (fun t =>
        t.self.wait.isNone && t.self.pc == 0x1001 && !(t.core 2).detached && (t.core 2).place == some { stair := 9, next := 2 }) = true := by
  decide +kernel

/-- A core that is being saved at 0x100000, and its writes returned; its queue's are written, or not yet. -/
def savingS (headed : Bool) : State :=
  { mapped (oneCore { kg with diverting := true, ksave := 0x100000, saving := some [6, 7], headed := headed }) with
    flight := [6, 7].map fun k => { id := k, core := 0, cls := .o, addr := 0, kind := .store [], phase := .returned 0 [] }, fresh := 8 }

/-- R322, R348, R349, R403, R404, R352: kernel entry, an expired wait, a watchdog, a request and its acceptance, the end of
a save, a resumed core; witnesses of ThreadEvents. -/
theorem test_thread_events :
    gives (exec (.kernelEntry 0) (oneCore { kg with thread := .loaded })) (fun t => t.self.thread == .running) = true ∧
      (oneCore kg).heldPart 0 = false ∧ (oneCore kg).self.diverts = false ∧
      gives (exec (.waitExpiry 0) (oneCore { kg with wait := some { detail := 0x20, left := some 0 } })) (fun t =>
        t.self.kcause == 0x2009 && t.self.ktval == 0x800000000001EFC0 && t.self.kepc == 0x1000 && t.self.pc == 0x4000) = true ∧
      gives (exec (.watchdogExpiry 0) (oneCore { kg with wdogPending := true, wait := some { detail := 0x2B, left := none } })) (fun t => t.self.kcause == 0x0A && !t.self.wdogPending) = true ∧
      gives (exec (.watchdogExpiry 0) (oneCore { kg with wdogPending := true })) (fun t => t.self.wdogPending && t.self.pc == 0x1000 && !t.self.intrap) = true ∧
      gives (exec (.meshInterrupt 0) { oneCore kg with mesh := [(1, true), (0, false)] }) (fun t =>
        t.mesh == [(1, true)] && t.self.request == some false) = true ∧
      gives (exec (.preEmption 0) (oneCore { kg with request := some true })) (fun t => t.self.diverting && t.self.pc == 0x1000) = true ∧
      gives (exec (.preEmption 0) (savingS true)) (fun t => t.self.preempted && t.self.saving.isNone && t.flight.isEmpty) = true ∧
      gives (exec (.haltEnd 0) (oneCore { kg with halted := true })) (fun t => !t.self.halted && t.self.pc == 0x1000) = true ∧
      gives (exec (.haltEnd 0) (oneCore { kg with halted := true, monitored := true, enteredFrom := 1, kpriv := 2 })) (fun t =>
        !t.self.halted && t.self.level == 1) = true := by
  decide +kernel

/-- The state in which core 0 has written the header and the entries of its spill queue (R404). -/
def queueS (s : State) : State :=
  ((s.dropAll [6, 7]).queueWrite 0 (s.self.saveArea + word 0x25000) (spillHeader s.self.spillTail)).queueWrite 0
    (s.self.saveArea + word 0x25040) ((s.self.spill.map Spilled.toBytes).flatten)

/-- The same core where no page holds its save area. -/
def unpaged : State :=
  lpart (fun p => { p with roots := [(0, 0x8000000000011000), (1, 0x8000000000010000)] }) (savingS false)

/-- R404, R366: a queue that can be written ends the save; one whose page is missing waits for it; witnesses of ThreadEvents. -/
theorem test_queue_written :
    ((queueS (savingS false)).core 0).queueFailed = false ∧ ((queueS (savingS false)).core 0).queueIds = [] ∧
      ((queueS (savingS false)).core 0).diverting = true ∧ ((queueS (savingS false)).core 0).resumeDue = false ∧
      gives (exec (.preEmption 0) (savingS false)) (fun t => t.self.preempted && t.self.saving.isNone) = true ∧
      ((queueS { unpaged with mem := [] }).core 0).queueFailed = false ∧
      ((queueS { unpaged with mem := [] }).core 0).queueIds ≠ [] ∧
      gives (exec (.preEmption 0) { unpaged with mem := [] }) (fun t => !t.self.preempted && t.self.headed && t.self.saving.any (· != [])) = true := by
  decide +kernel

/-- The start of the save of a core that has nothing under way has its hypotheses. -/
theorem save_starts :
    (oneCore { kg with diverting := true, ksave := 0x100000 }).quiesced 0 = true ∧
      (oneCore { kg with diverting := true, ksave := 0x100000 }).stairAccepted 0 = true := by decide +kernel

/-- An image with one line of code at its base 0x10000. -/
def imgOne : Image :=
  { base := 0x10000, bytes := leBytes 8 0 ++ leBytes 8 1 ++ leBytes 8 64 ++ leBytes 40 0 ++ leBytes 16 1 ++ leBytes 8 64 ++ leBytes 8 0 ++ leBytes 64 0 }

/-- A launch of one group of 4×4 cores, from the host. -/
def launchOne : Launch :=
  { n := 5, words := [0x10000, 0x10000, 0x0100000A00020201, 0, 0, 0, 77, 88], launcher := none, addr := 0 }

/-- Partition 0 without groups and threads. -/
def partS (f : Partition → Partition) : State := { lpart (fun p => f { p with groups := [] }) (oneCore {}) with cores := [] }

/-- R326 to R328: a turn places the group, and fails a launch without its image; witnesses of SchedulerEvents. -/
theorem test_scheduler :
    imageBad imgOne launchOne.words = false ∧
      (partS fun p => { p with pending := [launchOne], images := [imgOne] }).firstFit { hx0 := 0, hy0 := 0, hw := 1, hh := 1 } [] 4 4 =
        some { x := 0, y := 0, w := 4, h := 4 } ∧
      gives (exec (.schedulerTurn 0) (partS fun p => { p with pending := [launchOne], images := [imgOne] })) (fun t =>
        ((t.core 3075).thread == .loaded) && (t.core 3075).pc == 0x10000 && (t.core 0).g[1] == 77 && (t.core 0).g[2] == 88
          && (t.part? 0).any fun q => q.pending.isEmpty && q.running.map (·.n) == [5] && q.groups.map (fun g => (g.id, g.w, g.h)) == [(1, 4, 4)]) = true ∧
      gives (exec (.schedulerTurn 0) (partS fun p => { p with pending := [launchOne] })) (fun t =>
        t.board.events == [[1, 5, 0x1E]] && t.cores.isEmpty) = true ∧
      gives (exec (.schedulerTurn 0) (partS fun p => { p with pending := [launchOne], hold := true })) (fun t =>
        (t.part? 0).any fun q => q.pending.length == 1) = true := by decide +kernel

/-- One group of 4×4 cores that are all alike. -/
def grpS (f : Partition → Partition) (c : Core) : State :=
  { partS (fun p => f { p with groups := [{ id := 1, launch := 5, index := 0, x0 := 0, y0 := 0, w := 4, h := 4 }], nextGroup := 2 }) with
    cores := ((List.range 4).map fun y => (List.range 4).map fun x => (y * 1024 + x, c)).flatten }

/-- A core that keeps nothing has no handover to end. -/
theorem nothing_handed (s : State) (i : Nat) (h : (s.core i).kept = []) : s.endHandovers i = s := by
  simp [State.endHandovers, h]

/-- R331 to R333, R152, R402: a group is freed and its launch reports; two sweeps; a supervisor ends a group; a hall is
reset; witnesses of SchedulerEvents. -/
theorem test_groups :
    ((grpS id { kg with thread := .done }).core 5).kept = [] ∧ (grpS id { kg with thread := .done }).spent 5 = true ∧
      gives (exec (.groupFreed 0 1) { grpS id { kg with thread := .done } with mem := writeByte [] (tcmKey 3 5) 7 }) (fun t =>
        t.mem.isEmpty && ((t.core 3).thread == .none) && (t.part? 0).any fun q => q.groups.isEmpty) = true ∧
      gives (exec (.groupFreed 0 1) (grpS (fun p => { p with running := [{ launchOne with placed := 1, live := 1 }] }) { kg with thread := .done }))
        (fun t => t.board.events == [[1, 5, 0]] && (t.part? 0).any fun q => q.running.isEmpty) = true ∧
      gives (exec (.quiescenceSweep 0 5) (grpS (fun p => { p with running := [{ launchOne with placed := 1, live := 1 }] }) { kg with thread := .done }))
        (fun t => (t.part? 0).any fun q => q.running.map (·.sweep) == [some (0, 0)]) = true ∧
      gives (exec (.quiescenceSweep 0 5) (grpS (fun p => { p with running := [{ launchOne with placed := 1, live := 1, sweep := some (0, 0) }] }) { kg with wait := some { detail := 0x2B, left := none, args := [0] } }))
        (fun t => ((t.core 3075).thread == .done) && (t.part? 0).any fun q => q.groups.all (·.draining)) = true ∧
      gives (exec (.supervisorEndsGroup 0 1) (grpS id kg)) (fun t => (t.core 3075).thread == .done) = true ∧
      gives (exec (.hallReset 0) { grpS (fun p => { p with groups := [] }) kg with flight := [{ id := 5, core := 100, cls := .o, addr := 0, kind := .read 8, node := 2 ^ 20 }] })
        (fun t => ((t.core 3).thread == .done) && t.flight.map (·.phase) == [.performed 0x19 []]) = true := by decide +kernel

/-- A command entry of words. -/
def cmdE (opc pnum : Nat) (ws : List Word) : CmdEntry :=
  { w := (word (7 * 2 ^ 16 + pnum * 2 ^ 8 + opc) :: ws ++ List.replicate 7 0).take 8 }

/-- The command at the head of the ring of a part that is READY. -/
def headS (s : State) (e : CmdEntry) : State :=
  { s with
    mem := writeBytes s.mem (hostKey 0x10000) ((e.w.map fun w => leBytes 8 w.toNat).flatten)
    board := { s.board with state := .ready, mq := ringAt 0x10000 1, cq := ringAt 0x20000 0 } }

/-- What a command at the head gives, beside its completion with a STATUS and VALUE. -/
def completes (o : Host.Outcome State Fault Refusal) (st value : Nat) (p : State → Bool) : Bool :=
  gives o fun t =>
    readBytes t.mem (hostKey 0x20000) 16 == leBytes 8 (7 * 2 ^ 16 + st) ++ leBytes 8 value
      && t.board.cq.prod == 1 && t.board.mq.cons == 1 && t.board.msix == [(0, 1)] && p t

/-- A command executed at the head of the ring. -/
def cmdRun (f : CmdEntry → Instr) (s : State) (e : CmdEntry) (st value : Nat) (p : State → Bool) : Bool :=
  completes (exec (f e) (headS s e)) st value p

/-- No partition exists. -/
def bare : State := { partS id with parts := [] }

/-- R435, R436: CREATE, DESTROY, SETLIMIT, PEERMAP and SETPEER with their refusals; witnesses of ManagementCommands. -/
theorem test_commands :
    (headS bare (cmdE 1 1 [])).takesCmd (cmdE 1 1 []) = true ∧ createBad (cmdE 1 1 [0x1010301, 0x10000, 0, 0x40000]) = false ∧
      cmdRun .create bare (cmdE 1 1 [0x1010301, 0x10000, 0, 0x40000]) 0 0 (fun t =>
        (t.part? 1).any fun p => p.hx0 == 3 && p.hw == 1 && p.ringBase == 0x10000) = true ∧
      cmdRun .create bare (cmdE 1 1 [0x1010300]) 1 0 (fun t => t.parts.isEmpty) = true ∧
      cmdRun .create (partS id) (cmdE 1 0 [0x1010300]) 3 0 (fun t => t.parts.length == 1) = true ∧
      cmdRun .destroy (partS id) (cmdE 2 0 []) 0 0 (fun t => t.parts.isEmpty) = true ∧
      cmdRun .destroy (oneCore thread) (cmdE 2 0 []) 3 0 (fun t => t.parts.length == 1) = true ∧
      cmdRun .destroy (partS id) (cmdE 2 1 []) 2 0 (fun t => t.parts.length == 1) = true ∧
      setlimitBad (cmdE 5 0 [4, 9]) = false ∧
      cmdRun .setlimit (partS id) (cmdE 5 0 [4, 9]) 0 0 (fun t => (t.part? 0).any fun q => q.budgets == [(32, { nextLimit := some 9 })]) = true ∧
      cmdRun .setlimit (partS id) (cmdE 5 0 [4, 0]) 1 0 (fun _ => true) = true ∧
      cmdRun .peermap (partS id) (cmdE 6 0 [0x10000]) 0 0 (fun t => (t.part? 0).any fun q => q.peermap != 0) = true ∧
      cmdRun .peermap (partS id) (cmdE 6 0 [0x10000000000000]) 5 0 (fun _ => true) = true ∧
      cmdRun .setpeer bare (cmdE 15 0 [9]) 0 0 (fun t => t.board.peer == 9) = true ∧
      cmdRun .setpeer (partS id) (cmdE 15 0 [9]) 3 0 (fun _ => true) = true := by decide +kernel

/-- R435, R436: SETROOT and SHOOT2 begin and complete, GROUPTAB, RDCOUNT, an unknown OPC and a poisoned entry; witnesses of
ManagementCommands. -/
theorem test_more_commands :
    setrootBad (cmdE 3 0 [0x20001, 0x8000000000011000]) = false ∧
      gives (exec (.setroot (cmdE 3 0 [0x20001, 0x8000000000011000])) (headS (partS id) (cmdE 3 0 [0x20001, 0x8000000000011000])))
        (fun t => (t.part? 0).any (fun q => q.root 2 1 == 0x8000000000011000) && t.shoots.map (·.window) == [some 1]) = true ∧
      cmdRun .setroot { partS id with board := { (partS id).board with begun := some 3 } } (cmdE 3 0 [0x20001, 0x8000000000011000]) 0 0
        (fun t => t.board.begun.isNone) = true ∧
      gives (exec (.shoot2 (cmdE 4 0 [0x14001])) (headS (partS id) (cmdE 4 0 [0x14001])))
        (fun t => t.shoots.map (·.page) == [some (0, 0, 1)]) = true ∧
      cmdRun .shoot2 { partS id with board := { (partS id).board with begun := some 3 } } (cmdE 4 0 [0x14001]) 0 0 (fun _ => true) = true ∧
      cmdRun .grouptab { partS id with ports := (List.range 16).map fun n => (n, { up := false }), mem := writeBytes [] (hostKey 0x40000) (leBytes 8 (2 ^ 63 + 1) ++ leBytes 2 0x8000) }
        (cmdE 7 0 [3, 0x40000]) 0 0 (fun t => t.board.groups.map (·.1) == [3]) = true ∧
      cmdRun .grouptab (partS id) (cmdE 7 0 [1024, 0x40000]) 1 0 (fun t => t.board.groups.isEmpty) = true ∧
      cmdRun .rdcount { partS id with board := { (partS id).board with errors := [(256, 5)] } } (cmdE 14 0 [256]) 0 5
        (fun t => tget 0 t.board.errors 256 == 0) = true ∧
      cmdRun .rdcount (partS id) (cmdE 14 0 [160]) 1 0 (fun _ => true) = true ∧
      cmdRun .create bare (cmdE 16 0 []) 1 0 (fun _ => true) = true ∧
      completes (exec (.create (cmdE 1 1 [5])) { headS bare (cmdE 1 1 [5]) with poison := [hostKey 0x10000 / 8] }) 5 0 (fun _ => true) = true := by
  decide +kernel

/-- Host memory with the record of `launchOne`. -/
def startS (f : Partition → Partition) : State :=
  { partS f with mem := writeBytes [] (hostKey 0x40000) ((launchOne.words.map fun w => leBytes 8 w.toNat).flatten) }

/-- R372, R417, R418, R435: START, HALT, SAVE, RESTORE and RESUME, and LOADIMG of no image; witnesses of
PartitionCommands. -/
theorem test_partition_commands :
    (partS id).hostBytes 0x40000 64 = some (List.replicate 64 0) ∧ imageRefused (List.replicate 64 0) false = true ∧
      cmdRun .start (startS id) (cmdE 9 0 [0x40000]) 0 1 (fun t => (t.part? 0).any fun q =>
        q.rootRunning == some 1 && q.pending.map (·.words) == [launchOne.words]) = true ∧
      cmdRun .start (partS id) (cmdE 9 0 [0x40000]) 1 0 (fun _ => true) = true ∧
      cmdRun .start (startS fun p => { p with rootRunning := some 1 }) (cmdE 9 0 [0x40000]) 2 0 (fun _ => true) = true ∧
      gives (exec (.halt (cmdE 10 0 [])) (headS (oneCore thread) (cmdE 10 0 []))) (fun t =>
        t.mesh == [(0, true)] && (t.part? 0).any fun q => q.hold && q.halting) = true ∧
      cmdRun .halt (lpart (fun p => { p with hold := true, halting := true }) (oneCore { thread with preempted := true })) (cmdE 10 0 []) 0 0
        (fun t => t.board.events == [[4]]) = true ∧
      cmdRun .save (partS id) (cmdE 11 0 [0x40000]) 2 0 (fun _ => true) = true ∧
      cmdRun .restore (partS fun p => { p with hold := true }) (cmdE 12 0 [0x40000]) 4 1 (fun _ => true) = true ∧
      cmdRun .resume (partS id) (cmdE 13 0 []) 2 0 (fun _ => true) = true ∧
      cmdRun .resume (lpart (fun p => { p with hold := true }) (oneCore { thread with preempted := true, restored := true, pc := 0x2040 }))
        (cmdE 13 0 []) 0 0 (fun t => !t.self.preempted && t.self.pc == 0x2040) = true := by decide +kernel

/-- All ports down but port 3. -/
def downBut3 : List (Nat × Port) := ((List.range 16).filter (· != 3)).map fun n => (n, { up := false })

/-- A part whose routes lead to a switch behind port 3, and host memory with a group-table entry. -/
def switchS (f : Board → Board) : State :=
  { partS id with
    ports := downBut3
    mem := writeBytes [] (hostKey 0x40000) (leBytes 8 (2 ^ 63 + 1) ++ leBytes 2 0x8000)
    board := f { (partS id).board with routes := (partS id).board.routes.set 5 8 } }

/-- R435: a group-table entry is sent to the switch behind port 3, and the command waits for its acknowledgement; witnesses of
ManagementCommands. -/
theorem test_grouptab_switches :
    (switchS id).switchPorts = [3] ∧
      gives (exec (.grouptab (cmdE 7 0 [3, 0x40000])) (headS (switchS id) (cmdE 7 0 [3, 0x40000]))) (fun t =>
        t.board.begun.isSome && t.board.acksFrom == [3] && (t.port 3).wire.map (fun f => f.group.map (·.1)) == [some 3]
          && t.board.mq.cons == 0 && t.board.groups.map (·.1) == [3]) = true ∧
      gives (exec (.grouptab (cmdE 7 0 [3, 0x40000])) (headS (switchS fun b => { b with begun := some 0, acksFrom := [3] }) (cmdE 7 0 [3, 0x40000])))
        (fun t => t.board.mq.cons == 0 && t.board.acksFrom == [3]) = true ∧
      cmdRun .grouptab (switchS fun b => { b with begun := some 0 }) (cmdE 7 0 [3, 0x40000]) 0 0 (fun t => t.board.begun.isNone) = true := by
  decide +kernel

/-- An image of no section (R74): its header alone, with the CRC-32 of Python's zlib. -/
def imgH : List Byte :=
  leBytes 4 0x0046494A ++ leBytes 2 1 ++ leBytes 2 1 ++ leBytes 4 0 ++ leBytes 4 0x9C4D0E55 ++ leBytes 8 0x40 ++ leBytes 8 64 ++ leBytes 32 0

/-- Host memory with that image. -/
def imgS : State := { partS id with mem := writeBytes [] (hostKey 0x40000) imgH }

/-- R74, R75: the loader takes the image; witnesses of PartitionCommands. -/
theorem test_image_taken :
    imageRefused imgH false = false ∧ unfitReloc imgH 0x10000 = false ∧ imgS.hostBytes 0x40000 64 = some imgH ∧
      (sectionsOf imgH).isEmpty = true := by decide +kernel

/-- It stores nothing. -/
theorem image_stores_nothing : imgS.writeImage? 0 imgH 0x10000 = some imgS := by rfl

/-- R72, R75, R435: LOADIMG of it, of no image, and to an address that no line begins at; witnesses of PartitionCommands. -/
theorem test_loadimg :
    cmdRun .loadimg imgS (cmdE 8 0 [0x40000, 64, 0x10000]) 0 0x10000 (fun t => (t.part? 0).any fun q =>
        q.images.map (fun m => (m.base, m.bytes.length)) == [(0x10000, 64)]) = true ∧
      gives (exec (.loadimg (cmdE 8 0 [0x40000, 64, 0x10000])) (headS (partS id) (cmdE 8 0 [0x40000, 64, 0x10000]))) (fun t =>
        t.board.mq.cons == 1 && t.board.cq.prod == 1 && (t.part? 0).any fun q => q.images.isEmpty) = true ∧
      cmdRun .loadimg imgS (cmdE 8 0 [0x40000, 64, 0x10001]) 1 0 (fun t => (t.part? 0).any fun q => q.images.isEmpty) = true := by
  decide +kernel

/-- A part that is READY, with its board changed. -/
def boardS (f : Board → Board) : State := { oneCore thread with board := f { (oneCore thread).board with ev := ringAt 0x30000 2, pwrgd := true } }

/-- R431 to R437, R442, R448: an event enters its ring; registers; TRIP; reads and writes by the host; witnesses of
HostAndAttestationEvents. -/
theorem test_host :
    gives (exec .eventPost (boardS fun b => { b with events := [[1, 2], [3]] })) (fun t =>
        t.board.events == [[3]] && readBytes t.mem (hostKey 0x30040) 32 == leBytes 8 1 ++ leBytes 8 2 ++ leBytes 16 0) = true ∧
      gives (exec (.registerWrite .pf 0x000 0x12345) (boardS id)) (fun t => t.board.mq.base == 0x12000) = true ∧
      gives (exec (.registerWrite .pf 0x2006 8) (boardS id)) (fun t => t.board.routes[3] == 8) = true ∧
      gives (exec (.registerWrite .pf 0x000 0x12345) (boardS fun b => { b with state := .bringUp })) (fun t => t.board.mq.base == 0) = true ∧
      gives (exec (.registerWrite .i3c 0x08 4000) (boardS id)) (fun t => t.board.plimNext == 4000) = true ∧
      gives (exec (.registerWrite .i3c 0x08 3999) (boardS id)) (fun t => t.board.plimNext == 12000) = true ∧
      gives (exec .tripRead (boardS fun b => { b with trip := 5 })) (fun t => t.board.hostRead == [5, 0, 0, 0] && t.board.trip == 0) = true ∧
      dpaKey? 16 = some (physKey (2 ^ 20) 0x100000010) ∧
      gives (exec (.hostMemRead 16 2) { boardS id with mem := writeBytes [] (physKey (2 ^ 20) 0x100000010) [1, 2] }) (fun t =>
        t.board.hostRead == [1, 2] && !t.board.hostPoison) = true ∧
      gives (exec (.hostMemRead 16 2) { boardS id with poison := [physKey (2 ^ 20) 0x100000010 / 8] }) (fun t => t.board.hostPoison) = true ∧
      gives (exec (.hostMemWrite 16 [1, 2]) (boardS id)) (fun t => readBytes t.mem (physKey (2 ^ 20) 0x10000000F) 4 == [0, 1, 2, 0]) = true ∧
      gives (exec (.hostSnoop 3) { boardS id with hostLines := [3, 4] }) (fun t => t.hostLines == [4]) = true := by decide +kernel

/-- R439: the requests of VF 0's mailbox in their order, and GET_DIGESTS too early; witnesses of HostAndAttestationEvents. -/
theorem test_mailbox :
    gives (exec (.getVersion 1) (boardS id)) (fun t => tget {} t.board.doe 1 == { version := true, response := .version }) = true ∧
      gives (exec (.getCapabilities 1) (boardS fun b => { b with doe := [(1, { version := true })] })) (fun t =>
        (tget {} t.board.doe 1).response == .capabilities) = true ∧
      gives (exec (.negotiateAlgorithms 1 [5] [2]) (boardS fun b => { b with doe := [(1, { version := true, caps := true })] })) (fun t =>
        (tget {} t.board.doe 1).response == .algorithms true true) = true ∧
      gives (exec (.getDigests 1) (boardS id)) (fun t => (tget {} t.board.doe 1).response == .error) = true ∧
      mayMeasure 1 16 = true ∧ mayMeasure 1 17 = false ∧
      gives (exec (.getMeasurements 1 17 0) (boardS id)) (fun t => (tget {} t.board.doe 1).response == .error) = true ∧
      gives (exec (.getVersion 3) (boardS id)) (fun t => t.board.doe.isEmpty) = true := by decide +kernel

/-- Port 3 of a package. -/
def prt (p : Port) : State := { oneCore thread with ports := [(3, p)] }

/-- A flit that is authentic in the receiver's slot of a port (R380). -/
def signed (p : Port) (f : Flit) : Flit := { f with tag := linkTag p.rxKey (linkNonce p.rxSalt p.rxSlot) f }

/-- R380, R440: flits in turn, out of turn, idle, of management, and acknowledgements have the hypotheses of LinkEvents, in a
port that works. -/
theorem flits_arrive :
    (prt { rxSeq := 4095 }).port 3 = { rxSeq := 4095 } ∧ ({ rxSeq := 4095 } : Port).works = true ∧
      ({ retry := [({ kind := .data, seq := 7, payload := [] }, 0)] } : Port).works = true ∧
      ∀ (p : Port) (k : FlitKind) (n : Nat) (g : Option (Nat × List Byte)) (x : Option Transfer),
        let f := signed p { kind := k, seq := n, payload := [4], group := g, carries := x }
        f.tag = linkTag p.rxKey (linkNonce p.rxSalt p.rxSlot) f ∧ f.kind = k ∧ f.seq = n ∧ f.carries = x ∧ f.group = g :=
  ⟨by decide +kernel, by decide +kernel, by decide +kernel, fun _ _ _ _ _ => ⟨rfl, rfl, rfl, rfl, rfl⟩⟩

/-- R440, R441: a corrupt flit, replays up to the limit, retraining, also before its counters end, and the third failure;
witnesses of LinkEvents. -/
theorem test_links :
    gives (exec (.flitReceive 3 { kind := .data, seq := 5, payload := [4] } false) (prt {})) (fun t =>
        (t.port 3).delivered.isEmpty && (t.port 3).wire.map (fun f => (f.kind, f.seq)) == [(.nak, 0)] && (t.port 3).txSlot == 1) = true ∧
      gives (exec (.negativeAcknowledgement 3 7) (prt { retry := [({ kind := .data, seq := 7, payload := [] }, 2)] }))
        (fun t => (t.port 3).retry.map (·.2) == [3] && !(t.port 3).limit) = true ∧
      gives (exec (.negativeAcknowledgement 3 7) (prt { retry := [({ kind := .data, seq := 7, payload := [] }, 7)] }))
        (fun t => (t.port 3).limit) = true ∧
      ({ limit := true, keys := 4, failures := 1 } : Port).due = true ∧ ({ txSlot := 2 ^ 61 } : Port).due = true ∧
      ({} : Port).due = false ∧
      gives (exec (.retrain 3 true) (prt { limit := true, keys := 4, failures := 1 })) (fun t => (t.port 3).keys == 5 && (t.port 3).up) = true ∧
      gives (exec (.retrain 3 true) (prt {})) (fun t => (t.port 3).keys == 0 && (t.port 3).up) = true ∧
      gives (exec (.retrain 3 false) (prt { limit := true, failures := 1 })) (fun t => (t.port 3).failures == 2) = true ∧
      gives (exec (.retrain 3 false) (prt { limit := true, failures := 2 })) (fun t =>
        !(t.port 3).up && t.board.events == [[3, 3]]) = true := by decide +kernel

/-- A powered part with a byte of TCM, of far memory and of the host's. -/
def poweredS (f : Board → Board) : State :=
  { boardS f with mem := writeByte (writeByte (writeByte [] (tcmKey 5 3) 7) (memKey 3 0 5) 8) (hostKey 5) 9 }

/-- R398, R402, R443 to R448: resets of the part and of a die, the limiter, temperatures, errors; witnesses of
PowerEvents. -/
theorem test_power :
    gives (exec .perstAssert (lpart (fun p => { p with groups := [] }) (poweredS fun b => { b with perst := false, checked := true }))) (fun t =>
        (t.board.state == .bringUp) && t.parts.isEmpty && t.mem == [(hostKey 5, 9)]) = true ∧
      gives (exec .perstDeassert (poweredS fun b => { b with perst := true, checked := true, state := .bringUp })) (fun t =>
        t.board.state == .ready) = true ∧
      gives (exec .pwrgdDeassert (poweredS id)) (fun t => (t.board.state == .reset) && !t.board.pwrgd) = true ∧
      gives (exec (.powerWindowEnd 5001) (poweredS fun b => { b with plim := 5000 })) (fun t =>
        t.board.throttled && t.board.plim == 12000) = true ∧
      gives (exec (.thermalThrottle 2 800) (poweredS id)) (fun t => t.board.hot[2] && t.board.temp[2] == 800) = true ∧
      gives (exec (.thermalThrottle 2 759) (poweredS fun b => { b with hot := b.hot.set 2 true })) (fun t => !t.board.hot[2]) = true := by decide +kernel

theorem test_die_and_errors :
    gives (exec (.dieReset 0) (lpart (fun p => { p with groups := [] }) (poweredS id))) (fun t =>
        t.board.dieDown[0] && t.board.trip == 1 && t.mem == [(memKey 3 0 5, 8), (hostKey 5, 9)]) = true ∧
      gives (exec (.dieRecover 1 700 true) (poweredS fun b => { b with dieDown := b.dieDown.set 1 true })) (fun t => !t.board.dieDown[1]) = true ∧
      gives (exec (.interfaceLockLoss (.kalfa 3)) (poweredS id)) (fun t => (t.port 3).limit) = true ∧
      gives (exec (.softError (.mem 7)) (poweredS id)) (fun t => t.soft == [7]) = true ∧
      gives (exec (.softError (.mem 7)) { poweredS id with soft := [7] }) (fun t => t.soft.isEmpty && t.poison == [7]) = true ∧
      gives (exec (.softError (.acc 0 9 2)) (poweredS id)) (fun t => !(t.self.col 9).bad && (t.self.col 9).soft == [2]) = true ∧
      gives (exec (.softError (.acc 0 9 2)) ((poweredS id).onCore 0 fun c => c.setCol 9 { c.col 9 with soft := [2] })) (fun t => (t.self.col 9).bad) = true ∧
      gives (exec (.scrub 7) { poweredS id with soft := [7] }) (fun t => t.soft.isEmpty && t.poison.isEmpty) = true ∧
      gives (exec (.scrub 7) (poweredS id)) (fun t => t.soft.isEmpty && t.poison.isEmpty) = true := by decide +kernel

/-- A part refuses firmware without a header (R447); a witness of PowerEvents. -/
theorem test_bad_firmware : imageRefused [] true = true := by decide +kernel

/-- Core 0 with the DBGEN bit of its partition. -/
def debugS (en : BitVec 64) : State := { oneCore { withG thread [(4, 99)] with halted := true } with board := { (oneCore thread).board with dbgEn := en } }

/-- R449: IDCODE, BYPASS, EXTEST; a core that may not be debugged, and one that may; witnesses of DebugEvents. -/
theorem test_debug :
    gives (exec .idcode (debugS 0)) (fun t => t.board.jtagOut == [0x14820153]) = true ∧
      gives (exec (.bypass true) (debugS 0)) (fun t => t.board.jtagOut == [0, 1]) = true ∧
      gives (exec (.samplePreload [true, false] [false]) (debugS 0)) (fun t => t.board.jtagOut == [1, 0] && t.board.cells == [false]) = true ∧
      gives (exec (.debugRead 0 (.reg (.g 4))) (debugS 0)) (fun t => t.board.jtagOut == [0]) = true ∧
      gives (exec (.debugRead 0 (.reg (.g 4))) (debugS 1)) (fun t => t.board.jtagOut == [99]) = true ∧
      gives (exec (.debugHalt 0) (debugS 1)) (fun t => t.self.halted) = true ∧
      gives (exec (.debugStep 0) (debugS 1)) (fun t => t.self.stepping) = true ∧
      gives (exec (.debugStep 0) (debugS 0)) (fun t => !t.self.stepping) = true ∧
      gives (exec (.debugStep 0) ((debugS 1).onCore 0 fun c => { c with monitored := true })) (fun t => !t.self.stepping) = true ∧
      gives (exec (.debugRead 0 (.reg (.g 4))) ((debugS 1).onCore 0 fun c => { c with kpriv := 2 })) (fun t => t.board.jtagOut == [0]) = true ∧
      gives (exec (.haltOnBreak 0) (debugS 1)) (fun t => t.self.haltOnBreak) = true := by decide +kernel

/-! ## Words and well-formedness -/

/-- R48 to R59: words written out field by field from the encodings (LAUNCH, TRET). -/
theorem test_decode_control_and_system :
    decodeTableWord 96 0x280000002837FFF800000040 = some (.launch { d := .g 5, s1 := .g 6, imm := 0x40 }) ∧
      decodeTableWord 96 0xE1000007FFFFFFF800000000 = some (.tret {}) ∧
      decodeTableWord 96 0xE3000000282037F800004000 = some (.shoot { d := .g 5, s1 := .g 4, s2 := .g 6, imm := 0x4000 }) := by
  decide +kernel

/-- GATHER, MCAST, DELEG: classes, types, and an endpoint as the first source. -/
theorem test_decode_remote_and_channel :
    decodeTableWord 96 0x828029004008283000000010 =
        some (.gather { cls := .a, ty := .fp32, d := .g 8, s1 := .g 1, s2 := .g 5, s3 := .g 6, imm := 0x10 }) ∧
      decodeTableWord 96 0x838000004020283000000025 =
        some (.mcast { d := .g 8, s1 := .g 4, s2 := .g 5, s3 := .g 6, imm := 0x25 }) ∧
      decodeTableWord 96 0x65802007FC9FFFF800000000 = some (.deleg { ep := .e 4, s1 := .e 3 }) := by decide +kernel

/-- VFMA under RTZ with the last use of its second source, and REDW. -/
theorem test_decode_vector_and_collective :
    decodeTableWord 96 0xA180048A1A0A121A00000000 =
        some (.vfma { ty := .fp32, rm := .rtz, d := .v 3, s1 := .v 1, s2 := .v 2, s3 := .v 3, l2 := true }) ∧
      decodeTableWord 96 0xC88009024058506000004000 =
        some (.redw { ty := .fp32, d := .v 8, s1 := .g 11, s2 := .g 10, s3 := .g 12, imm := 0x4000 }) := by decide +kernel

/-- The bytes and the line of the worked encoding (R40 to R44). -/
theorem test_worked_line :
    bytesOfSlot 0x00A80180182837FC00000000 = [0, 0, 0, 0, 0xFC, 0x37, 0x28, 0x18, 0x80, 1, 0xA8, 0] ∧
      (line [0x00A80180182837FC00000000, nopW, nopW, nopW, nopW] 1 1).drop 60 = [0x1E, 0x00, 0x80, 0x08] ∧
      lineDetail (line [0x00A80180182837FC00000000, nopW, nopW, nopW, nopW] 1 1) = none := by decide +kernel

/-- The DETAIL of R60 with which a term is refused. -/
def refusal (i : Instr) : Option Nat := (viewRaw (view i)).bind illegalDetail

/-- One ill-formed term for each condition of R60. -/
theorem test_wellformed_conditions :
    refusal (.stair { sub := 3, d := .g 2, s1 := .g 1 }) = some 0x02 ∧
      refusal (.add { ty := .fp32, d := .g 7, s1 := .g 4, s2 := .g 5 }) = some 0x03 ∧
      refusal (.vadd { ty := .i32, rm := .rtz, d := .v 3, s1 := .v 1, s2 := .v 2 }) = some 0x04 ∧
      refusal (.add { ty := .i64, d := .v 7, s1 := .g 4, s2 := .g 5 }) = some 0x05 ∧
      refusal (.add { ty := .i64, d := .g 7, s1 := .g 4, s2 := .g 5, s3 := .g 6 }) = some 0x06 ∧
      refusal (.send { cls := .a, ep := .port 2, s1 := .g 20 }) = some 0x07 ∧
      refusal (.mcast { ord := .acq, d := .g 8, s1 := .g 4, s2 := .g 5, s3 := .g 6 }) = some 0x08 ∧
      refusal (.add { ty := .i64, d := .g 7, s1 := .g 4, s2 := .g 5, l3 := true }) = some 0x06 ∧
      refusal (.add { ty := .i64, d := .g 7, s1 := .port 2 false, s2 := .g 5, l1 := true }) = some 0x09 ∧
      refusal (.crd { d := .g 7, imm := 0xFFF }) = some 0x0B := by decide +kernel

/-- Those terms are not well-formed, and neither are two constructors under each other's form. -/
theorem test_wellformed_refuses :
    ¬ WellFormed (.add { ty := .fp32, d := .g 7, s1 := .g 4, s2 := .g 5 }) ∧
      ¬ WellFormed (.callDirect { sub := 1, d := .g 7, s1 := .g 4 }) ∧
      ¬ WellFormed (.callIndirect { sub := 0, d := .g 7 }) ∧
      ¬ WellFormed (.amovRead { ty := .fp32, s1 := .v 2 }) ∧ ¬ WellFormed (.amovWrite { ty := .fp32, d := .v 2 }) ∧
      ¬ WellFormed (.csave { d := .g 5, s2 := .g 6 }) ∧ ¬ WellFormed (.csaveRect { d := .g 5, s1 := .g 6 }) ∧
      ¬ WellFormed (.crest { d := .g 5, s2 := .g 6 }) ∧ ¬ WellFormed (.crestRect { d := .g 5, s1 := .g 6 }) ∧
      ¬ WellFormed (.create { w := [0] }) ∧ ¬ WellFormed (.flitReceive 0 { kind := .data, seq := 4096, payload := [] } true) ∧
      ¬ WellFormed (.hostMemWrite 0 []) ∧ ¬ WellFormed (.hostMemRead 0 0) ∧
      WellFormed (.hostMemRead 0 8) ∧ WellFormed (.create { w := [0, 0, 0, 0, 0, 0, 0, 0] }) := by decide +kernel

/-- R60: the lowest condition that applies; a word of zeros is unassigned. -/
theorem test_decode_refuses :
    decodeTableWord 96 0 = none ∧
      illegalDetail (rawOf 0x61002407F8A7FFF800000000) = some 0x0A ∧
      (match decode 0 with | .error d => d.detail | .ok _ => 0) = 1 := by decide +kernel

/-! ## Steps -/

/-- The words of BR to slot 2 of its own line, and of an ADD. -/
def brW : Slot := wordOfI (.br { imm := 2 })
def addW : Slot := wordOfI (.add { ty := .i64, d := .g 7, s1 := .g 4, s2 := .g 5 })

/-- Core 0 with a line of words at its pc. -/
def atLine (ws : List Slot) (pair : Nat) : State :=
  oneCore (withLines (withG thread [(4, 2), (5, 3)]) [(0x1000, line ws pair 4)])

/-- `Ready`, decided. -/
def readyB (s : State) : Bool :=
  decide (s.cur < Config.coreCount) && s.agenda.isEmpty && s.self.thread == .running && !s.self.halted
    && !s.stairHalted s.cur && !s.self.preempted && !s.self.diverting && !s.memberAway s.self && !s.heldPart s.cur
    && !s.self.wdogPending && s.self.request.isNone && !s.frozen s.cur && !s.self.follower

theorem ready_of {s : State} (h : readyB s = true) : Ready s := by
  simp only [readyB, Bool.and_eq_true, Bool.not_eq_true', decide_eq_true_eq, List.isEmpty_iff, Option.isNone_iff_eq_none,
    beq_iff_eq] at h
  obtain ⟨⟨⟨⟨⟨⟨⟨⟨⟨⟨⟨⟨h1, h2⟩, h3⟩, h4⟩, h5⟩, h6⟩, h7⟩, h8⟩, h9⟩, h10⟩, h11⟩, h12⟩, h13⟩ := h
  exact ⟨h1, h2, h3, ⟨h4, h5⟩, ⟨h6, h7, h8⟩, h9, ⟨h10, h11⟩, h12, h13⟩

theorem test_ready : readyB (atLine [addW, brW] 0) = true ∧ readyB (atLine [addW, brW] 1) = true ∧
    readyB (atLine [0, brW] 0) = true ∧ readyB (atLine [nopW, brW] 1) = true ∧ readyB (oneCore thread) = true := by
  decide +kernel

/-- A slot alone, and a pair; witnesses of StepRunsDecoded. -/
theorem fetched_single : Fetched (atLine [addW, brW] 0) { addr := 0x1000, bytes := line [addW, brW] 0 4 } :=
  ⟨rfl, rfl, by decide +kernel⟩

theorem fetched_pair : Fetched (atLine [addW, brW] 1) { addr := 0x1000, bytes := line [addW, brW] 1 4 } :=
  ⟨rfl, rfl, by decide +kernel⟩

/-- R43, R46: the ADD alone, and the ADD and the branch of one pair. -/
theorem test_step_runs :
    decodeTableWord 96 addW.toNat = some (.add { ty := .i64, d := .g 7, s1 := .g 4, s2 := .g 5 }) ∧
      gives (step (atLine [addW, brW] 0)) (fun t => t.self.pc == 0x1001 && t.self.g[7] == 5) = true ∧
      gives (step (atLine [addW, brW] 1)) (fun t => t.self.pc == 0x1002 && t.self.g[7] == 5) = true := by decide +kernel

/-- R44, R60, R108: a zero word, a pair whose first is a NOP, a line not cached; witnesses of LineTraps. -/
theorem test_line_traps :
    gives (step (atLine [0, brW] 0)) (fun t => t.self.kcause == 0x0101 && t.self.kepc == 0x1000) = true ∧
      lineDetail (line [nopW, brW] 1 4) = some 0x06 ∧
      gives (step (atLine [nopW, brW] 1)) (fun t => t.self.kcause == 0x0602 && t.self.ktval == 0x1000) = true ∧
      (oneCore thread).self.cached? 0x1000 = none := by decide +kernel

theorem fetched_zero : Fetched (atLine [0, brW] 0) { addr := 0x1000, bytes := line [0, brW] 0 4 } :=
  ⟨rfl, rfl, by decide +kernel⟩

/-- R108, R398: issue from a line that is not the one before asks for the next; a single-bit error is corrected; witnesses of
LineTraps. -/
theorem test_line_begun :
    (atLine [addW, brW] 0).self.fromLine = none ∧
      (atLine [addW, brW] 0).beginLine.agenda = [.event (.lineFill 0 0x1040)] ∧
      (atLine [addW, brW] 0).beginLine.self.fromLine = some 0x1000 ∧
      (atLine [addW, brW] 0).beginLine.beginLine.agenda = [.event (.lineFill 0 0x1040)] := by decide +kernel

/-- The head of the agenda comes first; a witness of StepRunsDecoded. -/
theorem test_step_event :
    isEvent (.thermalThrottle 2 800) = true ∧
      gives (step { atLine [addW, brW] 0 with agenda := [.event (.thermalThrottle 2 800)] }) (fun t =>
        t.self.pc == 0x1000 && t.agenda.isEmpty && t.board.temp[2] == 800) = true := by decide +kernel

/-- An instruction placed where the machine fetches is the one it runs (log 7), from reset too. -/
theorem test_with_fetch_word :
    gives (step (State.reset.withFetchWord 96 nopW.toNat)) (fun t => t.self.pc == 1) = true ∧
      gives (step ((s456 2 3 0).withFetchWord 96 addW.toNat)) (fun t => t.self.g[7] == 5) = true := by decide +kernel

/-- R30, R35, R34: values after reset. -/
theorem test_reset :
    State.reset.self.cr 0x01A = 0x100000 ∧ State.reset.self.isFreed (.g 5) = true ∧ State.reset.self.isFreed (.g 0) = false ∧
      State.reset.board.plim = 12000 ∧ Memory.wf State.reset.mem = true := by decide +kernel

end Sys2Proof.Tests
end

/-! PROOFS. The scalar instructions of family 0 (R76 to R89): what a well-formed one encodes, the integers and patterns
of their operands, and the results of their rules. -/
namespace Sys2Proof.Machine
open Sys2Proof.Claims

/-! ## What a well-formed instruction of format A meets (R60) -/

/-- The fields of an instruction of format A meet its form (R57 to R60). -/
structure MeetsForm (f : Form) (op : Nat) (o : OpA) : Prop where
  ty : tyCode o.ty ∈ f.tys
  d : fieldBad f.d (opndCode o.d) 0 = []
  s2 : fieldBad f.s2 (opndCode o.s2) (bit o.l2) = []
  extra : Machine.extra (rawA op o) = []

theorem bad_eq_nil {b : Bool} {d : Nat} : bad b d = [] ↔ b = false := by cases b <;> simp [bad]

theorem leastDetail_isNone {l : List Nat} : (leastDetail l).isNone = true ↔ l = [] := by
  cases l <;> simp [leastDetail]

/-- A well-formed instruction of format A meets its form. -/
theorem meetsForm_of_wellFormed {i : Instr} {op : Nat} {o : OpA} {f : Form} (hi : WellFormed i)
    (hv : view i = .a op o) (hf : formOf op o.sub.toNat = some f) : MeetsForm f op o := by
  have hc : conditions f (rawA op o) = [] := by
    have hd : (illegalDetail (rawA op o)).isNone = true := by
      simp only [WellFormed, Instr.wf, hv, viewRaw, Bool.and_eq_true] at hi
      exact hi.1
    have hf' : formOf (rawA op o).op (rawA op o).sub = some f := hf
    simpa only [illegalDetail, hf', leastDetail_isNone] using hd
  simp only [conditions, List.append_eq_nil_iff, and_assoc, bad_eq_nil, Bool.not_eq_false',
    List.contains_iff_mem] at hc
  obtain ⟨-, hty, -, hd, -, hs2, -, -, -, -, -, -, -, hx⟩ := hc
  exact ⟨hty, hd, hs2, hx⟩

/-- The type of a well-formed instruction is one that its integer form takes. -/
theorem tyCode_mem_of_wellFormed {i : Instr} {op : Nat} {o : OpA} {tys : List Nat} {sat : Bool} (hi : WellFormed i)
    (hv : view i = .a op o) (hf : formOf op o.sub.toNat = some (intForm tys sat)) : tyCode o.ty ∈ tys :=
  (meetsForm_of_wellFormed hi hv hf).ty

/-- Codes 0 to 3 are signed types (R55). -/
theorem tySigned_of_code {ty : Ty} (h : tyCode ty ∈ upTo 0 3) : tySigned ty = true := by
  revert h; cases ty <;> decide

/-- Codes 4 to 7 are unsigned ones. -/
theorem not_tySigned_of_code {ty : Ty} (h : tyCode ty ∈ upTo 4 7) : tySigned ty = false := by
  revert h; cases ty <;> decide

/-! ## Patterns and their integers (R76) -/

theorem tyBits_pos (ty : Ty) : 0 < tyBits ty := by cases ty <;> decide

theorem tyBits_le (ty : Ty) : tyBits ty ≤ 64 := by cases ty <;> decide

/-- The integer of a pattern narrows to the pattern. -/
@[simp] theorem ofInt_valueOf (ty : Ty) {w : Nat} (y : BitVec w) : BitVec.ofInt w (valueOf ty y) = y := by
  unfold valueOf
  split <;> simp

theorem valueOf_of_signed {ty : Ty} (h : tySigned ty = true) {w : Nat} (y : BitVec w) : valueOf ty y = y.toInt := by
  simp [valueOf, h]

theorem valueOf_of_unsigned {ty : Ty} (h : tySigned ty = false) {w : Nat} (y : BitVec w) : valueOf ty y = y.toNat := by
  simp [valueOf, h]

/-- The low bits of an integer are those of its pattern. -/
theorem lowBits_eq (w : Nat) (z : Int) : lowBits w z = (BitVec.ofInt w z).toNat := by
  simp [lowBits]

/-- A source is read as the integer of its low bits (R76). -/
theorem readInt_eq (ty : Ty) (x : Word) : readInt ty x = valueOf ty (x.setWidth (tyBits ty)) := by
  simp only [readInt, valueOf, signedOf, BitVec.ofNat_toNat, BitVec.toNat_setWidth]

/-- An immediate extended to 64 bits and narrowed is the immediate extended to the narrow width. -/
theorem setWidth_signExtend_64 {w : Nat} (h : w ≤ 64) (y : BitVec 32) :
    (y.signExtend 64).setWidth w = y.signExtend w := by
  ext i hi
  simp [BitVec.getElem_signExtend, show i < 64 by omega]

/-- Operand B is read as the integer of the pattern that R77 gives it. -/
theorem operandB_eq (o : OpA) (x : Srcs) : operandB o x.s2 = valueOf o.ty (lowB (tyBits o.ty) o x) := by
  have hw := tyBits_le o.ty
  unfold operandB lowB
  by_cases hs : o.s2 = .none
  · by_cases ht : tySigned o.ty = true
    · simp [hs, ht, readInt_eq, sext32, setWidth_signExtend_64 hw]
    · simp [hs, ht, readInt_eq, BitVec.setWidth_setWidth_of_le _ hw]
  · simp [hs, readInt_eq]

/-- Extending the number of a pattern is extending the pattern (R76). -/
theorem extendTy_toNat (ty : Ty) (y : BitVec (tyBits ty)) : extendTy ty y.toNat = extended ty y := by
  unfold extendTy extended signedOf
  split
  · simp [BitVec.signExtend]
  · rw [Nat.mod_eq_of_lt y.isLt, word, BitVec.ofNat_toNat]

/-- A result that is not limited is its narrowed integer, extended (R76). -/
theorem resultOf_false (ty : Ty) (z : Int) : resultOf ty false z = extended ty (BitVec.ofInt (tyBits ty) z) := by
  simp only [resultOf, lowBits_eq, extendTy_toNat, Bool.false_eq_true, if_false]

/-- Under SAT a result is its limited integer (R76). -/
theorem resultOf_true (ty : Ty) (z : Int) : resultOf ty true z = limited ty (tyBits ty) z := by
  simp only [resultOf, lowBits_eq, extendTy_toNat, if_true, clampTy, tyMin, tyMax, limited, extended]
  split <;> simp

theorem resultOf_eq_saturating (o : OpA) {z : Int} {y : BitVec (tyBits o.ty)} (h : BitVec.ofInt _ z = y) :
    resultOf o.ty o.sat z = saturating o _ y z := by
  unfold saturating
  cases o.sat
  · simp [resultOf_false, h]
  · simp [resultOf_true]

theorem patternOf_eq (ty : Ty) (x : Word) : patternOf ty x = (x.setWidth (tyBits ty)).toNat := by
  simp [patternOf]

theorem amount_eq (o : OpA) (x : Srcs) : amount o x.s2 = shiftBy o x := by
  unfold amount shiftBy
  by_cases h : o.s2 = .none <;> simp [h]

/-! ## Products, quotients and remainders (R80, R81) -/

/-- The high half of a product of w-bit patterns is its integer without its low w bits. -/
theorem ofInt_high (w : Nat) (z : Int) :
    ((BitVec.ofInt (2 * w) z) >>> w).setWidth w = BitVec.ofInt w (z.fdiv (2 ^ w : Nat)) := by
  have hw (n : Nat) : ((2 ^ n : Nat) : Int) ≠ 0 := Int.natCast_ne_zero.mpr (Nat.ne_of_gt (Nat.two_pow_pos n))
  have hz := Int.emod_add_mul_ediv z ((2 ^ (2 * w) : Nat) : Int)
  have hp : (((BitVec.ofInt (2 * w) z).toNat : Nat) : Int) = z % ((2 ^ (2 * w) : Nat) : Int) := by
    rw [BitVec.toNat_ofInt, Int.toNat_of_nonneg (Int.emod_nonneg _ (hw _))]
  have hq : z / ((2 ^ w : Nat) : Int) =
      (((BitVec.ofInt (2 * w) z).toNat / 2 ^ w : Nat) : Int) +
        ((2 ^ w : Nat) : Int) * (z / ((2 ^ (2 * w) : Nat) : Int)) := by
    rw [Int.natCast_ediv, ← Int.add_mul_ediv_left _ _ (hw _), hp, ← Int.mul_assoc, ← Int.natCast_mul,
      ← Nat.pow_add, ← Nat.two_mul, hz]
  apply BitVec.eq_of_toNat_eq
  rw [Int.fdiv_eq_ediv_of_nonneg _ (Int.natCast_nonneg _), hq, BitVec.toNat_ofInt, Int.add_mul_emod_self_left,
    BitVec.toNat_setWidth, BitVec.toNat_ushiftRight, Nat.shiftRight_eq_div_pow]
  rfl

theorem ofInt_mulh {ty : Ty} (h : tySigned ty = true) {w : Nat} (a b : BitVec w) :
    BitVec.ofInt w ((valueOf ty a * valueOf ty b).fdiv (2 ^ w : Nat)) =
      ((a.signExtend (2 * w) * b.signExtend (2 * w)) >>> w).setWidth w := by
  rw [← ofInt_high, BitVec.ofInt_mul, valueOf_of_signed h, valueOf_of_signed h]
  rfl

theorem ofInt_mulhn {ty : Ty} (h : tySigned ty = false) {w : Nat} (a b : BitVec w) :
    BitVec.ofInt w ((valueOf ty a * valueOf ty b).fdiv (2 ^ w : Nat)) =
      ((a.setWidth (2 * w) * b.setWidth (2 * w)) >>> w).setWidth w := by
  rw [← ofInt_high, BitVec.ofInt_mul, valueOf_of_unsigned h, valueOf_of_unsigned h]
  simp

theorem ofInt_tdiv {w : Nat} (a b : BitVec w) : BitVec.ofInt w (a.toInt.tdiv b.toInt) = a.sdiv b :=
  BitVec.eq_of_toInt_eq (by rw [BitVec.toInt_sdiv, BitVec.toInt_ofInt])

theorem ofInt_tmod {w : Nat} (a b : BitVec w) : BitVec.ofInt w (a.toInt.tmod b.toInt) = a.srem b := by
  rw [← BitVec.toInt_srem, BitVec.ofInt_toInt]

theorem ofInt_tdiv_toNat {w : Nat} (a b : BitVec w) : BitVec.ofInt w ((a.toNat : Int).tdiv b.toNat) = a / b := by
  rw [← Int.ofNat_tdiv, BitVec.ofInt_natCast, ← BitVec.toNat_udiv, BitVec.ofNat_toNat, BitVec.setWidth_eq]

theorem ofInt_tmod_toNat {w : Nat} (a b : BitVec w) : BitVec.ofInt w ((a.toNat : Int).tmod b.toNat) = a % b := by
  rw [← Int.ofNat_tmod, BitVec.ofInt_natCast, ← BitVec.toNat_umod, BitVec.ofNat_toNat, BitVec.setWidth_eq]

/-- The integer of a pattern is zero for the zero pattern alone. -/
theorem valueOf_eq_zero (ty : Ty) {w : Nat} (y : BitVec w) : valueOf ty y = 0 ↔ y = 0 := by
  constructor
  · intro h
    rw [← ofInt_valueOf ty y, h, BitVec.ofInt_ofNat, BitVec.ofNat_eq_ofNat]
  · rintro rfl
    simp [valueOf]

/-- −1 narrows to all ones, as R81 has it of a signed division by zero. -/
theorem ofInt_neg_one (w : Nat) : BitVec.ofInt w (-1) = BitVec.allOnes w := by
  rw [← BitVec.neg_one_eq_allOnes, BitVec.ofInt_neg, BitVec.ofInt_ofNat]

/-- So does the greatest unsigned integer. -/
theorem ofInt_two_pow_sub_one (w : Nat) : BitVec.ofInt w (((2 ^ w : Nat) : Int) - 1) = BitVec.allOnes w := by
  rw [← ofInt_neg_one]
  apply BitVec.eq_of_toInt_eq
  rw [BitVec.toInt_ofInt, BitVec.toInt_ofInt, Int.sub_eq_add_neg, Int.add_comm, Int.add_bmod_right]

/-! ## The integer operations -/

/-- Operand a: the low bits of S1 (R76). -/
abbrev lowA (o : OpA) (x : Srcs) : BitVec (tyBits o.ty) := x.s1.setWidth _

/-- The integer of operand a. -/
abbrev valueA (o : OpA) (x : Srcs) : Int := valueOf o.ty (lowA o x)

/-- The integer of operand b (R77). -/
abbrev valueB (o : OpA) (x : Srcs) : Int := valueOf o.ty (lowB (tyBits o.ty) o x)

/-- The value of a binary integer operation, narrowed and extended (R76, R77). -/
theorem intValue_eq (o : OpA) (x : Srcs) (f : Int → Int → Int) {y : BitVec (tyBits o.ty)}
    (h : BitVec.ofInt _ (f (valueA o x) (valueB o x)) = y) :
    resultOf o.ty false (f (readInt o.ty x.s1) (operandB o x.s2)) = extended o.ty y := by
  rw [resultOf_false, readInt_eq, operandB_eq, h]

/-- The same, limited under SAT. -/
theorem intValue_sat (o : OpA) (x : Srcs) (f : Int → Int → Int) {y : BitVec (tyBits o.ty)}
    (h : BitVec.ofInt _ (f (valueA o x) (valueB o x)) = y) :
    resultOf o.ty o.sat (f (readInt o.ty x.s1) (operandB o x.s2)) = saturating o _ y (f (valueA o x) (valueB o x)) := by
  rw [readInt_eq, operandB_eq, resultOf_eq_saturating o h]

section
variable (ty : Ty) {w : Nat} (a b : BitVec w)

theorem ofInt_valueOf_add : BitVec.ofInt w (valueOf ty a + valueOf ty b) = a + b := by
  rw [BitVec.ofInt_add, ofInt_valueOf, ofInt_valueOf]

theorem ofInt_valueOf_sub : BitVec.ofInt w (valueOf ty a - valueOf ty b) = a - b := by
  rw [Int.sub_eq_add_neg, BitVec.ofInt_add, BitVec.ofInt_neg, ofInt_valueOf, ofInt_valueOf, BitVec.sub_eq_add_neg]

theorem ofInt_valueOf_mul : BitVec.ofInt w (valueOf ty a * valueOf ty b) = a * b := by
  rw [BitVec.ofInt_mul, ofInt_valueOf, ofInt_valueOf]

/-- The order of the integers is that of the patterns, signed or not. -/
theorem valueOf_lt : valueOf ty a < valueOf ty b ↔ (if tySigned ty then a.slt b else a.ult b) = true := by
  unfold valueOf
  split
  · rw [BitVec.slt_iff_toInt_lt]
  · rw [Int.ofNat_lt, BitVec.ult_iff_toNat_lt]

theorem ofInt_valueOf_min : BitVec.ofInt w (min (valueOf ty a) (valueOf ty b)) =
    if (if tySigned ty then a.slt b else a.ult b) then a else b := by
  by_cases h : valueOf ty a < valueOf ty b
  · rw [if_pos ((valueOf_lt ty a b).mp h), Int.min_eq_left (Int.le_of_lt h), ofInt_valueOf]
  · rw [if_neg (mt (valueOf_lt ty a b).mpr h), Int.min_eq_right (Int.not_lt.mp h), ofInt_valueOf]

theorem ofInt_valueOf_max : BitVec.ofInt w (max (valueOf ty a) (valueOf ty b)) =
    if (if tySigned ty then a.slt b else a.ult b) then b else a := by
  by_cases h : valueOf ty a < valueOf ty b
  · rw [if_pos ((valueOf_lt ty a b).mp h), Int.max_eq_right (Int.le_of_lt h), ofInt_valueOf]
  · rw [if_neg (mt (valueOf_lt ty a b).mpr h), Int.max_eq_left (Int.not_lt.mp h), ofInt_valueOf]

end

/-- R81's quotient of two signed patterns: all ones where the divisor is zero. -/
theorem ofInt_divInt_signed {ty : Ty} (h : tySigned ty = true) (a b : BitVec (tyBits ty)) :
    BitVec.ofInt (tyBits ty) (divInt ty (valueOf ty a) (valueOf ty b)) =
      if b = 0 then BitVec.allOnes (tyBits ty) else a.sdiv b := by
  simp only [divInt, valueOf_eq_zero, h, if_true]
  split
  · exact ofInt_neg_one _
  · rw [valueOf_of_signed h, valueOf_of_signed h, ofInt_tdiv]

theorem ofInt_divInt_unsigned {ty : Ty} (h : tySigned ty = false) (a b : BitVec (tyBits ty)) :
    BitVec.ofInt (tyBits ty) (divInt ty (valueOf ty a) (valueOf ty b)) =
      if b = 0 then BitVec.allOnes (tyBits ty) else a / b := by
  simp only [divInt, valueOf_eq_zero, h, Bool.false_eq_true, if_false]
  split
  · exact ofInt_two_pow_sub_one _
  · rw [valueOf_of_unsigned h, valueOf_of_unsigned h, ofInt_tdiv_toNat]

/-- R81's remainder is the truncating one, and the dividend where the divisor is zero. -/
theorem remInt_eq_tmod (a b : Int) : remInt a b = a.tmod b := by
  unfold remInt
  split
  · next h => rw [h, Int.tmod_zero]
  · rw [Int.tmod_def]

theorem ofInt_remInt_signed {ty : Ty} (h : tySigned ty = true) {w : Nat} (a b : BitVec w) :
    BitVec.ofInt w (remInt (valueOf ty a) (valueOf ty b)) = if b = 0 then a else a.srem b := by
  rw [remInt_eq_tmod, valueOf_of_signed h, valueOf_of_signed h, ofInt_tmod]
  split
  · next hb => simp [hb]
  · rfl

theorem ofInt_remInt_unsigned {ty : Ty} (h : tySigned ty = false) {w : Nat} (a b : BitVec w) :
    BitVec.ofInt w (remInt (valueOf ty a) (valueOf ty b)) = if b = 0 then a else a % b := by
  rw [remInt_eq_tmod, valueOf_of_unsigned h, valueOf_of_unsigned h, ofInt_tmod_toNat]
  split
  · next hb => simp [hb]
  · rfl

/-- The −1 that a signed division by zero gives is within every range, so that SAT does not change it (R81). -/
theorem resultOf_neg_one {ty : Ty} (h : tySigned ty = true) (sat : Bool) :
    resultOf ty sat (-1) = extended ty (BitVec.allOnes (tyBits ty)) := by
  have hc : clampTy ty (-1) = -1 := by
    revert h; cases ty <;> decide
  rw [← ofInt_neg_one, ← resultOf_false]
  cases sat <;> simp [resultOf, hc]

theorem div_value {o : OpA} (h : tySigned o.ty = true) (x : Srcs) :
    resultOf o.ty o.sat (divInt o.ty (readInt o.ty x.s1) (operandB o x.s2)) =
      if lowB (tyBits o.ty) o x = 0 then extended o.ty (BitVec.allOnes (tyBits o.ty))
      else saturating o _ ((lowA o x).sdiv (lowB _ o x)) ((valueA o x).tdiv (valueB o x)) := by
  rw [readInt_eq, operandB_eq]
  split
  · next hb => rw [divInt, if_pos ((valueOf_eq_zero _ _).mpr hb), h, if_pos rfl, resultOf_neg_one h]
  · next hb =>
    have hv : valueB o x ≠ 0 := fun hv => hb ((valueOf_eq_zero _ _).mp hv)
    rw [divInt, if_neg hv]
    exact resultOf_eq_saturating o (by rw [valueOf_of_signed h, valueOf_of_signed h, ofInt_tdiv])

theorem addi_value (o : OpA) (x : Srcs) :
    resultOf o.ty o.sat (readInt o.ty x.s1 + readInt o.ty x.s2 + o.imm.toInt) =
      saturating o _ (lowA o x + x.s2.setWidth _ + o.imm.signExtend _)
        (valueA o x + valueOf o.ty (x.s2.setWidth (tyBits o.ty)) + o.imm.toInt) := by
  rw [readInt_eq, readInt_eq]
  exact resultOf_eq_saturating o (by rw [BitVec.ofInt_add, ofInt_valueOf_add]; rfl)

theorem sel_value (o : OpA) (x : Srcs) (c : Bool) :
    resultOf o.ty false (if c then readInt o.ty x.s1 else operandB o x.s2) =
      extended o.ty (if c then lowA o x else lowB _ o x) := by
  rw [resultOf_false, readInt_eq, operandB_eq]
  cases c <;> simp

/-! ## Logic, shifts and counts (R82) -/

theorem bitValue_eq (o : OpA) (x : Srcs) (f : Nat → Nat → Nat) {y : BitVec (tyBits o.ty)}
    (h : f (lowA o x).toNat (lowB (tyBits o.ty) o x).toNat = y.toNat) :
    extendTy o.ty (f (patternOf o.ty x.s1) (lowBits (tyBits o.ty) (operandB o x.s2))) = extended o.ty y := by
  rw [patternOf_eq, lowBits_eq, operandB_eq, ofInt_valueOf, h, extendTy_toNat]

theorem shiftValue_eq (o : OpA) (x : Srcs) (f : Nat → Nat → Nat → Nat) {y : BitVec (tyBits o.ty)}
    (h : f (tyBits o.ty) (lowA o x).toNat (shiftBy o x) = y.toNat) :
    extendTy o.ty (f (tyBits o.ty) (patternOf o.ty x.s1) (amount o x.s2)) = extended o.ty y := by
  rw [patternOf_eq, amount_eq, h, extendTy_toNat]

theorem ofInt_valueOf_shiftLeft (ty : Ty) {w : Nat} (a : BitVec w) (n : Nat) :
    BitVec.ofInt w (valueOf ty a * (2 ^ n : Nat)) = a <<< n := by
  rw [BitVec.ofInt_mul, ofInt_valueOf, BitVec.ofInt_natCast, BitVec.shiftLeft_eq_mul_twoPow]
  congr 1
  exact BitVec.eq_of_toNat_eq (by rw [BitVec.toNat_ofNat, BitVec.toNat_twoPow])

theorem shl_value (o : OpA) (x : Srcs) :
    resultOf o.ty o.sat (readInt o.ty x.s1 * (2 ^ min (amount o x.s2) (tyBits o.ty) : Nat)) =
      saturating o _ (lowA o x <<< min (shiftBy o x) (tyBits o.ty))
        (valueA o x * 2 ^ min (shiftBy o x) (tyBits o.ty)) := by
  rw [readInt_eq, amount_eq, resultOf_eq_saturating o (ofInt_valueOf_shiftLeft _ _ _), Int.natCast_pow]
  rfl

theorem lowBits_fdiv {w : Nat} (a : BitVec w) (n : Nat) :
    lowBits w (Int.fdiv (signedOf w a.toNat) (2 ^ n : Nat)) = (a.sshiftRight n).toNat := by
  rw [lowBits_eq, signedOf, BitVec.ofNat_toNat, BitVec.setWidth_eq, Int.fdiv_eq_ediv_of_nonneg _ (Int.natCast_nonneg _)]
  congr 1
  apply BitVec.eq_of_toInt_eq
  rw [← Int.shiftRight_eq_div_pow, ← BitVec.toInt_sshiftRight, BitVec.ofInt_toInt]

/-- A rotation is the disjunction of the two shifts. -/
theorem rotlNat_eq {w n : Nat} (p : Nat) (hn : n ≤ w) (hp : p < 2 ^ w) :
    rotlNat w p n = (p <<< n) % 2 ^ w ||| p >>> (w - n) := by
  have hlow : p / 2 ^ (w - n) < 2 ^ n := by
    rw [Nat.div_lt_iff_lt_mul (Nat.two_pow_pos _), ← Nat.pow_add, Nat.add_sub_cancel' hn]
    exact hp
  have hhigh : p * 2 ^ n % 2 ^ w = (p % 2 ^ (w - n)) <<< n := by
    rw [Nat.shiftLeft_eq, ← Nat.mul_mod_mul_right, ← Nat.pow_add, Nat.sub_add_cancel hn]
  rw [rotlNat, hhigh, Nat.shiftLeft_add_eq_or_of_lt hlow, ← hhigh, Nat.shiftLeft_eq, Nat.shiftRight_eq_div_pow]

theorem rotlNat_rotateLeft {w : Nat} (hw : 0 < w) (a : BitVec w) (n : Nat) :
    rotlNat w a.toNat (n % w) = (a.rotateLeft n).toNat := by
  rw [rotlNat_eq _ (Nat.le_of_lt (Nat.mod_lt n hw)) a.isLt, BitVec.toNat_rotateLeft]

theorem rotlNat_rotateRight {w : Nat} (hw : 0 < w) (a : BitVec w) (n : Nat) :
    rotlNat w a.toNat ((w - n % w) % w) = (a.rotateRight n).toNat := by
  have hn := Nat.mod_lt n hw
  rw [rotlNat_eq _ (Nat.le_of_lt (Nat.mod_lt _ hw)) a.isLt, BitVec.toNat_rotateRight]
  by_cases h0 : n % w = 0
  · simp [h0, Nat.mod_eq_of_lt a.isLt, Nat.shiftRight_eq_div_pow, Nat.div_eq_of_lt a.isLt, Nat.shiftLeft_eq]
  · rw [Nat.mod_eq_of_lt (show w - n % w < w by omega), Nat.sub_sub_self (Nat.le_of_lt hn), Nat.or_comm]

/-! ### Counts -/

theorem field_one (p i : Nat) : field p i 1 = (p.testBit i).toNat := by
  rw [field, Nat.pow_one, Nat.toNat_testBit]

/-- The scan from bit w − 1 down counts the clear bits before the first set one. -/
theorem clzNat_eq (p : Nat) :
    ∀ w, clzNat w p = ((List.range w).takeWhile fun k => !(decide (k < w) && p.testBit (w - 1 - k))).length
  | 0 => rfl
  | w + 1 => by
    rw [clzNat, field_one, clzNat_eq p w, List.range_succ_eq_map, List.takeWhile_cons]
    by_cases h : p.testBit w
    · simp [h]
    · simp [h, List.takeWhile_map, Function.comp_def, Nat.sub_sub, Nat.add_comm]

/-- The scan from bit 0 up. -/
theorem ctzNat_eq : ∀ w p, ctzNat w p = ((List.range w).takeWhile fun k => !p.testBit k).length
  | 0, _ => rfl
  | w + 1, p => by
    rw [ctzNat, ctzNat_eq w (p / 2), List.range_succ_eq_map, List.takeWhile_cons]
    by_cases h : p % 2 = 1
    · simp [h, Nat.testBit_zero]
    · simp [h, Nat.testBit_zero, List.takeWhile_map, Function.comp_def, Nat.testBit_succ, Nat.add_comm]

theorem onesOf_eq (w p : Nat) : onesOf w p = (List.range w).countP fun k => p.testBit k := by
  simp only [onesOf, field_one]
  induction List.range w with
  | nil => rfl
  | cons k l ih => cases h : p.testBit k <;> simp [h, ih, Nat.add_comm]

theorem clz_value (o : OpA) (x : Srcs) : clzNat (tyBits o.ty) (patternOf o.ty x.s1) =
    ((List.range (tyBits o.ty)).takeWhile fun k => !(lowA o x).getMsbD k).length := by
  rw [patternOf_eq, clzNat_eq]
  rfl

theorem ctz_value (o : OpA) (x : Srcs) : ctzNat (tyBits o.ty) (patternOf o.ty x.s1) =
    ((List.range (tyBits o.ty)).takeWhile fun k => !(lowA o x).getLsbD k).length := by
  rw [patternOf_eq, ctzNat_eq]
  rfl

theorem popc_value (o : OpA) (x : Srcs) : onesOf (tyBits o.ty) (patternOf o.ty x.s1) =
    (List.range (tyBits o.ty)).countP fun k => (lowA o x).getLsbD k := by
  rw [patternOf_eq, onesOf_eq]
  rfl

/-! ## Moves, bit fields and extensions (R84 to R87) -/

theorem movi_value (o : OpA) :
    resultOf o.ty false (readInt o.ty (if tySigned o.ty then sext32 o.imm else o.imm.zeroExtend 64)) =
      extended o.ty
        (if tySigned o.ty then o.imm.signExtend (tyBits o.ty) else o.imm.setWidth (tyBits o.ty)) := by
  rw [resultOf_false, readInt_eq, ofInt_valueOf]
  split
  · rw [sext32, setWidth_signExtend_64 (tyBits_le _)]
  · rw [BitVec.setWidth_setWidth_of_le _ (tyBits_le _)]

theorem movhi_value (imm : BitVec 32) (a : Word) :
    word (imm.toNat * 2 ^ 32 + a.toNat % 2 ^ 32) = imm ++ a.setWidth 32 := by
  apply BitVec.eq_of_toNat_eq
  have hi := imm.isLt
  rw [BitVec.toNat_append, BitVec.toNat_setWidth, ← Nat.shiftLeft_add_eq_or_of_lt (Nat.mod_lt _ (by decide)),
    Nat.shiftLeft_eq, word, BitVec.toNat_ofNat, Nat.mod_eq_of_lt (by omega)]

/-- A field of bits as a number is that of the extracted pattern. -/
theorem bits_eq (w : Word) (lo n : Nat) : bits w lo n = (w.extractLsb' lo n).toNat := by
  rw [bits, field, BitVec.extractLsb'_toNat, Nat.shiftRight_eq_div_pow]

/-- POS and LEN of R84. -/
theorem bitField_eq (imm : BitVec 32) :
    bitField imm = ((imm.extractLsb' 0 6).toNat, (imm.extractLsb' 8 7).toNat) := by
  simp only [bitField, field, BitVec.extractLsb'_toNat, Nat.shiftRight_eq_div_pow]

/-- A pattern's number sign-extended from its width. -/
theorem ofInt_signedOf_toNat {n : Nat} (y : BitVec n) : BitVec.ofInt 64 (signedOf n y.toNat) = y.signExtend 64 := by
  rw [signedOf, BitVec.ofNat_toNat, BitVec.setWidth_eq]
  rfl

theorem word_toNat {n : Nat} (y : BitVec n) : word y.toNat = y.setWidth 64 := BitVec.ofNat_toNat ..

/-- n ones in the low bits. -/
abbrev lowMask (n : Nat) : Word := (BitVec.allOnes n).setWidth 64

theorem word_add (x y : Nat) : word (x + y) = word x + word y := BitVec.ofNat_add ..

theorem word_shiftLeft (x n : Nat) : word (x * 2 ^ n) = word x <<< n := by
  rw [BitVec.shiftLeft_eq_mul_twoPow]
  exact (BitVec.ofNat_mul ..).trans (congrArg _ (BitVec.eq_of_toNat_eq (by simp)))

theorem word_mod_two_pow (x n : Nat) : word (x % 2 ^ n) = word x &&& lowMask n := by
  ext i hi
  simp [word, ← BitVec.getLsbD_eq_getElem, BitVec.getLsbD_ofNat, Nat.testBit_mod_two_pow, hi, Bool.and_comm]

/-- A field left in place is the word under the field's mask. -/
theorem word_bits_in_place (a : Word) (lo n : Nat) : word (bits a lo n * 2 ^ lo) = a &&& (lowMask n <<< lo) := by
  rw [word_shiftLeft, bits, field, word_mod_two_pow, ← Nat.shiftRight_eq_div_pow, ← BitVec.toNat_ushiftRight,
    word_toNat, BitVec.setWidth_eq, BitVec.shiftLeft_and_distrib]
  ext i hi
  by_cases h : i < lo
  · simp [h]
  · simp [h, Nat.add_sub_cancel' (Nat.le_of_not_lt h), BitVec.getLsbD_eq_getElem hi]

theorem bits_mul_le (a : Word) (lo n : Nat) : bits a lo n * 2 ^ lo ≤ a.toNat :=
  Nat.le_trans (Nat.mul_le_mul_right _ (Nat.mod_le ..)) (Nat.div_mul_le_self ..)

/-- A pattern is its part outside a mask plus its part inside it. -/
theorem and_not_add_and (a m : Word) : (a &&& ~~~m) + (a &&& m) = a := by
  rw [BitVec.add_eq_or_of_and_eq_zero]
  · ext i hi
    by_cases h : m[i] <;> simp [h]
  · ext i hi
    by_cases h : m[i] <;> simp [h]

/-- Replacing a field clears it and inserts the low bits of the new value there. -/
theorem setBits_eq (a : Word) (lo n x : Nat) :
    setBits a lo n x = (a &&& ~~~(lowMask n <<< lo)) ||| ((word x &&& lowMask n) <<< lo) := by
  have hout : word (a.toNat - bits a lo n * 2 ^ lo) = a &&& ~~~(lowMask n <<< lo) := by
    have hsum : word (a.toNat - bits a lo n * 2 ^ lo) + (a &&& (lowMask n <<< lo)) = a := by
      rw [← word_bits_in_place, ← word_add, Nat.sub_add_cancel (bits_mul_le a lo n), word_toNat, BitVec.setWidth_eq]
    rw [← BitVec.add_sub_cancel (word _) (a &&& (lowMask n <<< lo)), hsum,
      ← BitVec.add_sub_cancel (a &&& ~~~(lowMask n <<< lo)) (a &&& (lowMask n <<< lo)), and_not_add_and]
  have hin : word (x % 2 ^ n * 2 ^ lo) = (word x &&& lowMask n) <<< lo := by
    rw [word_shiftLeft, word_mod_two_pow]
  have hdisjoint : (a &&& ~~~(lowMask n <<< lo)) &&& ((word x &&& lowMask n) <<< lo) = 0#64 := by
    rw [BitVec.shiftLeft_and_distrib]
    ext i hi
    by_cases h : (lowMask n <<< lo)[i] <;> simp [h]
  change word (a.toNat - bits a lo n * 2 ^ lo + x % 2 ^ n * 2 ^ lo) = _
  rw [word_add, hout, hin, BitVec.add_eq_or_of_and_eq_zero _ _ hdisjoint]

theorem bfi_value (a b : Word) (pos len : Nat) :
    setBits b pos len (bits a 0 len) =
      (b &&& ~~~(lowMask len <<< pos)) ||| ((a &&& lowMask len) <<< pos) := by
  have ha := word_bits_in_place a 0 len
  rw [Nat.pow_zero, Nat.mul_one, BitVec.shiftLeft_zero] at ha
  rw [setBits_eq, ha, BitVec.and_assoc, BitVec.and_self]

/-! ## The instructions -/

/-- Where an instruction is a scalar one of its own fields, and its value is that of a rule. -/
theorem scalar_of_value {i : Instr} {o p : OpA} {s : State} {x : Srcs} {r y : Word} {val : Srcs → Word}
    (h : some (p, y) = some (o, r)) (he : exec i s = scalarOp p s val) (hv : val x = y) :
    ∃ val, exec i s = scalarOp o s val ∧ val x = r := by
  obtain ⟨rfl, rfl⟩ := Prod.mk.inj (Option.some.inj h)
  exact ⟨val, he, hv⟩

/-- R80, R81, R83: an arithmetic instruction is a scalar one whose value is that of its rule. -/
theorem exec_arithmetic {i : Instr} {o : OpA} {x : Srcs} {r : Word} (hw : WellFormed i)
    (h : arithmetic i x = some (o, r)) (s : State) : ∃ val, exec i s = scalarOp o s val ∧ val x = r := by
  cases i with
  | add o => exact scalar_of_value h rfl (intValue_sat o x (· + ·) (ofInt_valueOf_add ..))
  | sub o => exact scalar_of_value h rfl (intValue_sat o x (· - ·) (ofInt_valueOf_sub ..))
  | addi o => exact scalar_of_value h rfl (addi_value o x)
  | mul o => exact scalar_of_value h rfl (intValue_sat o x (· * ·) (ofInt_valueOf_mul ..))
  | mulh o =>
    have ht := tySigned_of_code (tyCode_mem_of_wellFormed hw rfl rfl)
    exact scalar_of_value h rfl (intValue_eq o x (fun a b => (a * b).fdiv (2 ^ tyBits o.ty : Nat)) (ofInt_mulh ht ..))
  | mulhn o =>
    have ht := not_tySigned_of_code (tyCode_mem_of_wellFormed hw rfl rfl)
    exact scalar_of_value h rfl (intValue_eq o x (fun a b => (a * b).fdiv (2 ^ tyBits o.ty : Nat)) (ofInt_mulhn ht ..))
  | div o =>
    have ht := tySigned_of_code (tyCode_mem_of_wellFormed hw rfl rfl)
    exact scalar_of_value h rfl (div_value ht x)
  | divn o =>
    have ht := not_tySigned_of_code (tyCode_mem_of_wellFormed hw rfl rfl)
    exact scalar_of_value h rfl (intValue_eq o x (divInt o.ty) (ofInt_divInt_unsigned ht ..))
  | rem o =>
    have ht := tySigned_of_code (tyCode_mem_of_wellFormed hw rfl rfl)
    exact scalar_of_value h rfl (intValue_eq o x remInt (ofInt_remInt_signed ht ..))
  | remn o =>
    have ht := not_tySigned_of_code (tyCode_mem_of_wellFormed hw rfl rfl)
    exact scalar_of_value h rfl (intValue_eq o x remInt (ofInt_remInt_unsigned ht ..))
  | min o =>
    have ht := tySigned_of_code (tyCode_mem_of_wellFormed hw rfl rfl)
    exact scalar_of_value h rfl (intValue_eq o x min (by rw [ofInt_valueOf_min, if_pos ht]))
  | max o =>
    have ht := tySigned_of_code (tyCode_mem_of_wellFormed hw rfl rfl)
    exact scalar_of_value h rfl (intValue_eq o x max (by rw [ofInt_valueOf_max, if_pos ht]))
  | minn o =>
    have ht := not_tySigned_of_code (tyCode_mem_of_wellFormed hw rfl rfl)
    exact scalar_of_value h rfl (intValue_eq o x min (by rw [ofInt_valueOf_min, if_neg (ne_true_of_eq_false ht)]))
  | maxn o =>
    have ht := not_tySigned_of_code (tyCode_mem_of_wellFormed hw rfl rfl)
    exact scalar_of_value h rfl (intValue_eq o x max (by rw [ofInt_valueOf_max, if_neg (ne_true_of_eq_false ht)]))
  | sel o => exact scalar_of_value h rfl (sel_value o x _)
  | _ => cases h

/-- R82: a bitwise, shift, rotate or count instruction is a scalar one whose value is that of its rule. -/
theorem exec_bitwise {i : Instr} {o : OpA} {x : Srcs} {r : Word}
    (h : bitwise i x = some (o, r)) (s : State) : ∃ val, exec i s = scalarOp o s val ∧ val x = r := by
  cases i with
  | and o => exact scalar_of_value h rfl (bitValue_eq o x (· &&& ·) (BitVec.toNat_and ..).symm)
  | or o => exact scalar_of_value h rfl (bitValue_eq o x (· ||| ·) (BitVec.toNat_or ..).symm)
  | xor o => exact scalar_of_value h rfl (bitValue_eq o x (· ^^^ ·) (BitVec.toNat_xor ..).symm)
  | andn o =>
    exact scalar_of_value h rfl (bitValue_eq o x (fun a b => a &&& (2 ^ tyBits o.ty - 1 - b))
      (by rw [BitVec.toNat_and, BitVec.toNat_not]))
  | orn o =>
    exact scalar_of_value h rfl (bitValue_eq o x (fun a b => a ||| (2 ^ tyBits o.ty - 1 - b))
      (by rw [BitVec.toNat_or, BitVec.toNat_not]))
  | shl o => exact scalar_of_value h rfl (shl_value o x)
  | shr o =>
    exact scalar_of_value h rfl (shiftValue_eq o x (fun w p n => p / 2 ^ min n w)
      (by rw [BitVec.toNat_ushiftRight, Nat.shiftRight_eq_div_pow]))
  | shra o =>
    exact scalar_of_value h rfl
      (shiftValue_eq o x (fun w p n => lowBits w (Int.fdiv (signedOf w p) (2 ^ min n w : Nat))) (lowBits_fdiv ..))
  | rotl o =>
    exact scalar_of_value h rfl
      (shiftValue_eq o x (fun w p n => rotlNat w p (n % w)) (rotlNat_rotateLeft (tyBits_pos _) ..))
  | rotr o =>
    exact scalar_of_value h rfl
      (shiftValue_eq o x (fun w p n => rotlNat w p ((w - n % w) % w)) (rotlNat_rotateRight (tyBits_pos _) ..))
  | clz o => exact scalar_of_value h rfl (congrArg word (clz_value o x))
  | ctz o => exact scalar_of_value h rfl (congrArg word (ctz_value o x))
  | popc o => exact scalar_of_value h rfl (congrArg word (popc_value o x))
  | _ => cases h

/-- R80, R84 to R87, R89: so is a move, an address, a bit field, an extension or a logic of predicates. -/
theorem exec_moved {i : Instr} {o : OpA} {x : Srcs} {r : Word} (h : moved i x = some (o, r)) (s : State) :
    ∃ val, exec i s = scalarOp o s val ∧ val x = r := by
  cases i with
  | mov o => exact scalar_of_value h rfl rfl
  | movi o => exact scalar_of_value h rfl (movi_value o)
  | movhi o => exact scalar_of_value h rfl (movhi_value ..)
  | lea o => exact scalar_of_value h rfl rfl
  | bfx o => exact scalar_of_value h rfl (by simp only [bitField_eq, bits_eq, ofInt_signedOf_toNat, word_toNat])
  | bfi o => exact scalar_of_value h rfl (by simp only [bitField_eq, bfi_value])
  | exts o => exact scalar_of_value h rfl (by rw [signedOf, BitVec.ofNat_toNat]; rfl)
  | extz o => exact scalar_of_value h rfl (by rw [patternOf_eq, word_toNat])
  | qand o => exact scalar_of_value h rfl rfl
  | qor o => exact scalar_of_value h rfl rfl
  | qxor o => exact scalar_of_value h rfl rfl
  | qnot o => exact scalar_of_value h rfl rfl
  | _ => cases h

/-- A scalar instruction that issues completes with its value in D. -/
theorem next_wrote_of_scalar {i : Instr} {o : OpA} {s u : State} {x : Srcs} {r : Word}
    (h : ∃ val, exec i s = scalarOp o s val ∧ val x = r) (hi : Issues (fieldsA o) anyLevel [] s x u) :
    exec i s = .next (wrote u (fieldsA o) o.d r) := by
  obtain ⟨val, he, rfl⟩ := h
  rw [he, scalarOp_of_issues hi]

/-! ## Comparisons (R59, R88) -/

/-- Two patterns of an integer type are equal where their integers are. -/
theorem valueOf_inj (ty : Ty) {w : Nat} {a b : BitVec w} : valueOf ty a = valueOf ty b ↔ a = b :=
  ⟨fun h => by rw [← ofInt_valueOf ty a, h, ofInt_valueOf], fun h => by rw [h]⟩

theorem isSignedTy_eq (ty : Ty) : isSignedTy ty = tySigned ty := by cases ty <;> rfl

/-- The integer that a pattern holds is the one of R76. -/
theorem intOf_toNat (ty : Ty) (a : BitVec (tyBits ty)) : intOf ty a.toNat = valueOf ty a := by
  have hw : 2 ^ tyBits ty = 2 * 2 ^ (tyBits ty - 1) := by
    obtain ⟨n, hn⟩ := Nat.exists_eq_succ_of_ne_zero (Nat.ne_of_gt (tyBits_pos ty))
    rw [hn]
    exact Nat.pow_succ'
  simp only [intOf, isSignedTy_eq, Nat.mod_eq_of_lt a.isLt, valueOf, BitVec.toInt_eq_toNat_cond]
  cases tySigned ty
  · rfl
  · simp only [Bool.true_and, decide_eq_true_eq, if_true, hw]
    split <;> split <;> omega

section
variable (a b : Int)

/-- The order of two integers, case by case. -/
theorem cmpInt_cases :
    a < b ∧ cmpInt a b = -1 ∨ a = b ∧ cmpInt a b = 0 ∨ b < a ∧ cmpInt a b = 1 := by
  unfold cmpInt
  split
  · next h => exact .inl ⟨h, rfl⟩
  · split
    · next h => exact .inr (.inr ⟨h, rfl⟩)
    · exact .inr (.inl ⟨by omega, rfl⟩)

theorem cmpInt_beq_zero : (cmpInt a b == 0) = decide (a = b) := by
  have h := cmpInt_cases a b
  rw [Bool.eq_iff_iff, beq_iff_eq, decide_eq_true_iff]
  omega

theorem cmpInt_neg : cmpInt a b < 0 ↔ a < b := by
  have h := cmpInt_cases a b
  omega

theorem cmpInt_pos : 0 < cmpInt a b ↔ b < a := by
  have h := cmpInt_cases a b
  omega

end

/-- A condition on the order of two integers is the condition on their patterns; 6 and 7 are none of integers (R59). -/
theorem condOf_cmpInt (ty : Ty) {sub : Nat} (hs : sub < 6) {w : Nat} (a b : BitVec w) :
    condOf sub (cmpInt (valueOf ty a) (valueOf ty b)) = holdsInt ty sub a b := by
  have hlt (c d : BitVec w) : (if tySigned ty then c.slt d else c.ult d) = decide (valueOf ty c < valueOf ty d) := by
    rw [Bool.eq_iff_iff, decide_eq_true_iff, valueOf_lt]
  have heq : (a == b) = decide (valueOf ty a = valueOf ty b) := by
    rw [Bool.eq_iff_iff, decide_eq_true_iff, valueOf_inj, beq_iff_eq]
  obtain rfl | rfl | rfl | rfl | rfl | rfl : sub = 0 ∨ sub = 1 ∨ sub = 2 ∨ sub = 3 ∨ sub = 4 ∨ sub = 5 := by omega
  all_goals
    simp only [condOf, holdsInt, hlt, heq, bne, cmpInt_beq_zero, cmpInt_neg, cmpInt_pos,
      ← Int.not_lt (a := cmpInt _ _), ← Int.not_lt (b := cmpInt _ _), decide_not]

@[simp] theorem getLsbD_ev_zero (b : Bool) (k : Nat) : (ev 0 b).getLsbD k = (b && decide (k = 0)) := by
  cases b <;> simp [ev]

theorem getLsbD_ev_pos {j : Nat} (h : j ≠ 0) (b : Bool) : (ev j b).getLsbD 0 = false := by
  cases b <;> simp [ev, Nat.pos_of_ne_zero h]

/-- A floating condition holds and counts its invalid event as R88 has it. -/
theorem fCond_eq (ty : Ty) (sub a b : Nat) :
    (fCond ty sub a b).1 = holdsFloat ty sub a b ∧ (fCond ty sub a b).2.getLsbD 0 = cmpInvalid ty sub a b := by
  have ht : (ev 14 (isSubnormal ty a || isSubnormal ty b)).getLsbD 0 = false := getLsbD_ev_pos (by decide) _
  simp only [fCond, holdsFloat, cmpInvalid]
  split
  · next hn => exact ⟨rfl, by rw [BitVec.getLsbD_or, ht, getLsbD_ev_zero, hn]; simp⟩
  · next hn =>
    refine ⟨rfl, ht.trans ?_⟩
    revert hn
    cases unpack ty a <;> cases unpack ty b <;> simp [FVal.isNan]

/-- CMP's condition and invalid event, integer or floating (R88). -/
theorem condTy_eq (ty : Ty) {sub : Nat} (hs : isFloat ty = false → sub < 6) (a b : BitVec (tyBits ty)) :
    (condTy ty sub a.toNat b.toNat).1 =
        (if isFloat ty then holdsFloat ty sub a.toNat b.toNat else holdsInt ty sub a b) ∧
      (condTy ty sub a.toNat b.toNat).2.getLsbD 0 = (isFloat ty && cmpInvalid ty sub a.toNat b.toNat) := by
  cases hf : isFloat ty
  · simp [condTy, hf, intOf_toNat, condOf_cmpInt ty (hs hf)]
  · simpa [condTy, hf] using fCond_eq ty sub a.toNat b.toNat

/-- Operand b of CMP: the low bits of S2 with a floating type, and otherwise that of R77 (R88). -/
abbrev cmpB (o : OpA) (x : Srcs) : BitVec (tyBits o.ty) :=
  if isFloat o.ty then x.s2.setWidth _ else lowB _ o x

theorem cmpB_eq (o : OpA) (x : Srcs) :
    (if isFloat o.ty then x.s2.toNat else lowBits (tyBits o.ty) (operandB o x.s2)) % 2 ^ tyBits o.ty =
      (cmpB o x).toNat := by
  unfold cmpB
  split
  · rw [BitVec.toNat_setWidth]
  · rw [operandB_eq, lowBits_eq, ofInt_valueOf, Nat.mod_eq_of_lt (BitVec.isLt _)]

/-! ### What CMP's encoding accepts -/

theorem meetsForm_cmp {o : OpA} (h : WellFormed (.cmp o)) :
    MeetsForm { intForm (upTo 0 11) false with subs := upTo 0 7, d := rd [.q] } 0x021 o :=
  meetsForm_of_wellFormed h rfl rfl

/-- A field that is read accepts the operand that it names. -/
theorem accepts_of_fieldBad {l : List Acc} (hl : l ≠ []) {o : Opnd} {last : Nat}
    (h : fieldBad (rd l) (opndCode o) last = []) : accepts l o = true := by
  have he : l.isEmpty = false := by simpa using hl
  simp only [fieldBad, opndOfCode_opndCode, rd, he, Bool.false_eq_true, if_false, List.append_eq_nil_iff] at h
  cases hc : accepts l o with
  | true => rfl
  | false => simp [hc] at h

theorem cmp_d {o : OpA} (h : WellFormed (.cmp o)) : ∃ q, o.d = .q q := by
  have ha := accepts_of_fieldBad (by simp) (meetsForm_cmp h).d
  cases hd : o.d with
  | q r => exact ⟨r, rfl⟩
  | _ => simp [hd, accepts] at ha

/-- A floating TY needs S2, and the conditions 6 and 7 need a floating TY (R59, R88). -/
theorem cmp_float {o : OpA} (h : WellFormed (.cmp o)) :
    (isFloat o.ty = true → o.s2 ≠ .none) ∧ (isFloat o.ty = false → o.sub.toNat < 6) := by
  have ht := (meetsForm_cmp h).ty
  have hfl : isFloat o.ty = decide (8 ≤ tyCode o.ty) := by
    revert ht; cases o.ty <;> decide
  have hx : bad (6 ≤ o.sub.toNat && tyCode o.ty < 8) 0x02 ++
      bad (8 ≤ tyCode o.ty && opndCode o.s2 == 0xFF) 0x05 = [] := (meetsForm_cmp h).extra
  simp only [List.append_eq_nil_iff, bad_eq_nil, Bool.and_eq_false_iff, decide_eq_false_iff_not,
    beq_eq_false_iff_ne] at hx
  obtain ⟨hsub, hs2⟩ := hx
  simp only [hfl, decide_eq_true_eq, decide_eq_false_iff_not]
  refine ⟨fun hf hs => ?_, fun hf => by omega⟩
  rw [hs] at hs2
  exact hs2.elim (· hf) (· rfl)

theorem cmp_s2 {o : OpA} (h : WellFormed (.cmp o)) (hf : isFloat o.ty = true) :
    ∃ r, o.s2 = .g r ∨ ∃ p f, o.s2 = .port p f := by
  have ha := accepts_of_fieldBad (by simp) (meetsForm_cmp h).s2
  cases hs : o.s2 with
  | g r => exact ⟨r, .inl rfl⟩
  | port p f => exact ⟨0, .inr ⟨p, f, rfl⟩⟩
  | none => exact absurd hs ((cmp_float h).1 hf)
  | _ => simp [hs, accepts] at ha

/-! ### What CMP changes -/

theorem Core.setQ_q_ne (c : Core) {r j : Fin 8} (x : QReg) (h : j ≠ r ∨ j = 0) : (c.setQ r x).q[j] = c.q[j] := by
  unfold Core.setQ
  split
  · rfl
  · next h0 =>
    have hj : r.val ≠ j.val := fun e => h.elim (· (Fin.ext e.symm)) (fun hz => h0 ((Fin.ext e).trans hz))
    simp [Vector.getElem_set_ne _ _ hj]

theorem Core.setQ_q_self (c : Core) {r : Fin 8} (x : QReg) (h : r ≠ 0) :
    (c.setQ r x).q[r] = x ∧ (c.setQ r x).qFreed.getLsbD r.val = false := by
  simp [Core.setQ, h]

/-- A counter counts the elements that raised its event (R249). -/
theorem Core.count_kev (c : Core) (es : List Ev) (k : Fin 16) :
    (c.count es).kev[k] = countUp c.kev[k] (es.filter fun e => e.getLsbD k.val).length := by
  simp [Core.count]

/-- A counter that counts nothing stays, where its high half is zero (R249). -/
theorem countUp_zero {x : Word} (h : bits x 32 32 = 0) : countUp x 0 = x := by
  have hx := x.isLt
  apply BitVec.eq_of_toNat_eq
  simp only [bits, field] at h
  simp only [countUp, word, bits, field, BitVec.toNat_ofNat]
  omega

/-- The low half of a counter that counts, saturating (R249). -/
theorem bits_countUp (x : Word) (n : Nat) : bits (countUp x n) 0 32 = min (bits x 0 32 + n) 0xFFFFFFFF := by
  simp only [countUp, word, bits, field, BitVec.toNat_ofNat]
  omega

/-- What a comparison writes to its q register: all ones where it holds, and otherwise all zeros (R88). -/
def cmpMask (r : Bool) : QReg := if r then BitVec.allOnes 32 else 0

/-- The core after a comparison that holds or not, and is invalid or not: last uses freed, its q register written, the
event counted, at the FallThrough. -/
def Core.compared (c : Core) (f : Fields) (q : Fin 8) (r n : Bool) : Core :=
  { ((c.freeLast f).setQ q (cmpMask r)).count [ev 0 n] with pc := nextAddr c.pc, wait := none }

section
variable (c : Core) (f : Fields) (q : Fin 8) (r n : Bool)

/-- Beside the q registers, the counters, the freed marks, pc and wait, the core is as it was. -/
theorem Core.compared_eq : ∃ qs ks gs vs fs, c.compared f q r n =
    { c with q := qs, kev := ks, gFreed := gs, vFreed := vs, qFreed := fs, pc := nextAddr c.pc, wait := none } := by
  obtain ⟨gs, vs, fs, hf⟩ : ∃ gs vs fs, c.freeLast f = { c with gFreed := gs, vFreed := vs, qFreed := fs } :=
    ⟨_, _, _, c.freeLast_eq f⟩
  obtain ⟨qs, fs', hq⟩ : ∃ qs fs', (c.freeLast f).setQ q (cmpMask r) = { c.freeLast f with q := qs, qFreed := fs' } :=
    ⟨_, _, Core.setQ_eq ..⟩
  exact ⟨_, _, _, _, _, by rw [Core.compared, hq, hf, Core.count]⟩

theorem Core.compared_kev (k : Fin 16) :
    (c.compared f q r n).kev[k] = countUp c.kev[k] (if n && decide (k.val = 0) then 1 else 0) := by
  have hk : ((c.freeLast f).setQ q (cmpMask r)).kev = c.kev := by rw [Core.setQ_eq, Core.freeLast_eq]
  have hn : ([ev 0 n].filter fun e => e.getLsbD k.val).length = if n && decide (k.val = 0) then 1 else 0 := by
    rw [← getLsbD_ev_zero]
    cases h : (ev 0 n).getLsbD k.val <;> simp only [List.filter_cons, List.filter_nil, h] <;> rfl
  rw [← hn, ← hk]
  exact Core.count_kev ..

/-- Counter 0 counts an invalid comparison, saturating. -/
theorem Core.compared_kev_zero :
    bits (c.compared f q r n).kev[0] 0 32 = min (bits c.kev[0] 0 32 + if n then 1 else 0) 0xFFFFFFFF := by
  have h := c.compared_kev f q r n 0
  simp only [Fin.val_zero, decide_true, Bool.and_true] at h
  rw [← bits_countUp]
  exact congrArg (bits · 0 32) h

/-- The other counters stay, where their high halves are zero. -/
theorem Core.compared_kev_ne {k : Fin 16} (h0 : k ≠ 0) (hk : bits c.kev[k] 32 32 = 0) :
    (c.compared f q r n).kev[k] = c.kev[k] := by
  have hv : k.val ≠ 0 := fun e => h0 (Fin.ext e)
  rw [Core.compared_kev, decide_eq_false hv, Bool.and_false]
  exact countUp_zero hk

theorem Core.compared_eps : (c.compared f q r n).eps = c.eps := by
  obtain ⟨qs, ks, gs, vs, fs, h⟩ := c.compared_eq f q r n
  rw [h]

theorem Core.freeLast_q : (c.freeLast f).q = c.q := by rw [Core.freeLast_eq]

theorem Core.compared_q_self (h : q ≠ 0) :
    (c.compared f q r n).q[q] = cmpMask r ∧ (c.compared f q r n).qFreed.getLsbD q.val = false :=
  Core.setQ_q_self _ _ h

theorem Core.compared_q_ne {j : Fin 8} (h : j ≠ q ∨ j = 0) : (c.compared f q r n).q[j] = c.q[j] :=
  (Core.setQ_q_ne _ _ h).trans (by rw [Core.freeLast_q])

/-- The control registers beside the counters do not change. -/
theorem Core.compared_cr {k : Nat} (hk : k ∉ (List.range 16).map (0x020 + ·)) :
    (c.compared f q r n).cr k = c.cr k := by
  have hk' : ¬ (0x020 ≤ k ∧ k ≤ 0x02F) := fun h =>
    hk (List.mem_map.mpr ⟨k - 0x020, List.mem_range.mpr (by omega), by omega⟩)
  obtain ⟨qs, ks, gs, vs, fs, h⟩ := c.compared_eq f q r n
  rw [h]
  simp only [Core.cr, hk', if_false]

end

/-- The state after a comparison. -/
def compared (u : State) (f : Fields) (q : Fin 8) (r n : Bool) : State :=
  { u with free := u.free + 1 }.setSelf (u.self.compared f q r n)

section
variable (u : State) (f : Fields) (q : Fin 8) (r n : Bool)

theorem compared_self : (compared u f q r n).self = u.self.compared f q r n := State.self_setSelf ..

/-- A comparison changes its own core alone. -/
theorem compared_beside : SameBeside u.cur u (compared u f q r n) :=
  ⟨fun j hj => State.core_setCore_ne _ u.cur j _ hj, rfl⟩

/-- A comparison keeps every register but its own, the other control registers and memory. -/
theorem compared_rest : RestKept u (compared u f q r n) [.q q] ((List.range 16).map (0x020 + ·)) := by
  obtain ⟨qs, ks, gs, vs, fs, h⟩ := u.self.compared_eq f q r n
  refine ⟨⟨fun j _ => ?_, fun j _ => ?_, fun j hj => ?_⟩, fun k _ hk => ?_, ?_, fun k => rfl⟩
  · rw [compared_self, h]
  · rw [compared_self, h]
  · rw [compared_self]
    exact Core.compared_q_ne _ _ _ _ _ (hj.imp (fun hn he => hn (by rw [he]; exact List.mem_singleton_self _)) id)
  · rw [compared_self, Core.compared_cr _ _ _ _ _ hk]
  · rw [compared_self, h]

end

/-- An instruction that writes its own core and goes on sets that core, and draws a free value. -/
theorem State.goOn_setSelf_begin (u : State) (f : Fields) (c : Core) (pc : Word) :
    ((u.begin f).setSelf c).goOn pc =
      { u with free := u.free + 1 }.setSelf { c with pc := pc, wait := none } := by
  rw [State.goOn, State.setSelf, State.setCore_cur, State.onCore_setCore, State.begin_cur, State.begin,
    State.setCore_onCore]
  rfl

/-- CMP that issues leaves the state after its comparison: its condition and its invalid event are those of R88. -/
theorem exec_cmp {o : OpA} {s u : State} {x : Srcs} {q : Fin 8} (hw : WellFormed (.cmp o)) (hq : o.d = .q q)
    (h : Issues (fieldsA o) anyLevel [] s x u) :
    exec (.cmp o) s = .next (compared u (fieldsA o) q
      (if isFloat o.ty then holdsFloat o.ty o.sub.toNat (lowA o x).toNat (cmpB o x).toNat
        else holdsInt o.ty o.sub.toNat (lowA o x) (cmpB o x))
      (isFloat o.ty && cmpInvalid o.ty o.sub.toNat (lowA o x).toNat (cmpB o x).toNat)) := by
  obtain ⟨hr, hn⟩ := condTy_eq o.ty (cmp_float hw).2 (lowA o x) (cmpB o x)
  have hpc (y : QReg) (es : List Ev) : (((u.self.freeLast (fieldsA o)).setQ q y).count es).pc = u.self.pc := by
    rw [Core.count, Core.setQ_eq, Core.freeLast_pc]
  have hm (p : Bool) : (if p then word 0xFFFFFFFF else 0).truncate 32 = cmpMask p := by cases p <;> rfl
  rw [← hr, ← hn]
  change execCmp o s = _
  rw [execCmp, issued_of_issues h, hq]
  simp only [Result.state, cmpB_eq, patternOf_eq, State.self_setSelf, State.self_begin, Core.setDst, hpc, hm,
    State.goOn_setSelf_begin]
  rfl

end Sys2Proof.Machine

section
open Sys2Proof Sys2Proof.Machine Sys2Proof.Claims

/-- Settles O1: each instruction is a scalar one whose value, an integer narrowed or a pattern extended, is the result
of its rule (`exec_arithmetic`, `exec_bitwise`, `exec_moved`), and a scalar instruction that issues writes it to D. -/
theorem scalarResults : Obligations.ScalarResults :=
  ⟨fun _ _ s _ _ _ hw hr hi => next_wrote_of_scalar (exec_arithmetic hw hr s) hi,
    fun _ _ s _ _ _ _ hr hi => next_wrote_of_scalar (exec_bitwise hr s) hi,
    fun _ _ s _ _ _ _ hr hi => next_wrote_of_scalar (exec_moved hr s) hi⟩

/-- Settles O2: CMP that issues leaves the state after one comparison of its operands (`exec_cmp`), which changes its q
register, counter 0, the freed marks and pc of its own core alone (`compared_rest`). -/
theorem compareResults : Obligations.CompareResults := by
  refine ⟨fun o hw => ⟨cmp_d hw, cmp_s2 hw⟩, fun o s u x hw hi => ?_⟩
  obtain ⟨q, hq⟩ := cmp_d hw
  have hcur : u.cur = s.cur := (sourcesOf_same hi.sources).1
  refine ⟨_, exec_cmp hw hq hi, ?_, fun p hp h0 => ?_, ?_, fun k h0 hk => ?_, hq ▸ compared_rest .., ?_,
    hcur ▸ compared_beside ..⟩
  · rw [compared_self]
    rfl
  · obtain rfl : q = p := Opnd.q.inj (hq.symm.trans hp)
    rw [compared_self]
    exact Core.compared_q_self _ _ _ _ _ h0
  · rw [compared_self]
    exact Core.compared_kev_zero ..
  · rw [compared_self]
    exact Core.compared_kev_ne _ _ _ _ _ h0 hk
  · rw [compared_self, Core.compared_eps]

end

/-! PROOFS. The combining buffer's entries that leave it (R133, R185) and the fences (R213). -/
namespace Sys2Proof.Machine
open Sys2Proof.Claims

/-! ## The entries that drain (R133) -/

section
variable (p : CombEntry → Bool)

/-- An entry drains where it is meant, or its owner's younger one drains. -/
def Drains (a : CombEntry) (r : List CombEntry) : Prop := p a = true ∨ ∃ b ∈ (splitDrain p r).1, b.owner = a.owner

theorem splitDrain_cons_drains {a : CombEntry} {r : List CombEntry} (h : Drains p a r) :
    splitDrain p (a :: r) = (a :: (splitDrain p r).1, (splitDrain p r).2) :=
  if_pos (by simpa [Drains] using h)

theorem splitDrain_cons_stays {a : CombEntry} {r : List CombEntry} (h : ¬ Drains p a r) :
    splitDrain p (a :: r) = ((splitDrain p r).1, a :: (splitDrain p r).2) :=
  if_neg (by simpa [Drains] using h)

/-- The entries that stay are none of those meant. -/
theorem splitDrain_kept (l : List CombEntry) : ∀ e ∈ (splitDrain p l).2, p e = false := by
  induction l with
  | nil => simp [splitDrain]
  | cons a r ih =>
    by_cases h : Drains p a r
    · rwa [splitDrain_cons_drains p h]
    · have ha : p a = false := Bool.eq_false_iff.mpr fun hp => h (.inl hp)
      simpa [splitDrain_cons_stays p h, ha] using ih

/-- The youngest entry that drains is one of those meant. -/
theorem splitDrain_last (l : List CombEntry) : ∀ e, (splitDrain p l).1.getLast? = some e → p e = true := by
  induction l with
  | nil => simp [splitDrain]
  | cons a r ih =>
    by_cases h : Drains p a r
    · rw [splitDrain_cons_drains p h]
      cases hr : (splitDrain p r).1 with
      | nil => simpa [Drains, hr] using h
      | cons b t => simpa [hr] using ih
    · rwa [splitDrain_cons_stays p h]

/-- Where none is meant, every entry stays. -/
theorem splitDrain_of_none {l : List CombEntry} (h : ∀ e ∈ l, p e = false) : splitDrain p l = ([], l) := by
  induction l with
  | nil => rfl
  | cons a r ih =>
    have hr := ih fun e he => h e (List.mem_cons_of_mem a he)
    have ha : ¬ Drains p a r := by simp [Drains, hr, h a]
    rw [splitDrain_cons_stays p ha, hr]

variable {i : Nat} (hp : ∀ e, p e = true → e.owner = i)
include hp

/-- Where the entries meant are one owner's, so are those that drain. -/
theorem splitDrain_owner (l : List CombEntry) : ∀ e ∈ (splitDrain p l).1, e.owner = i := by
  induction l with
  | nil => simp [splitDrain]
  | cons a r ih =>
    by_cases h : Drains p a r
    · have ha : a.owner = i := h.elim (hp a) fun ⟨b, hb, hba⟩ => hba.symm.trans (ih b hb)
      simpa [splitDrain_cons_drains p h, ha] using ih
    · rwa [splitDrain_cons_stays p h]

/-- The owner's entries are those that drain and, younger than all of them, those that stay. -/
theorem splitDrain_split (l : List CombEntry) :
    l.filter (·.owner == i) = (splitDrain p l).1 ++ (splitDrain p l).2.filter (·.owner == i) := by
  induction l with
  | nil => rfl
  | cons a r ih =>
    have ho := splitDrain_owner p hp
    by_cases h : Drains p a r
    · have ha : a.owner = i := ho (a :: r) a (by simp [splitDrain_cons_drains p h])
      simp [splitDrain_cons_drains p h, ha, ih]
    · rw [splitDrain_cons_stays p h]
      by_cases ha : a.owner = i
      · have hn : (splitDrain p r).1 = [] := List.eq_nil_iff_forall_not_mem.mpr fun b hb =>
          h (.inr ⟨b, hb, (ho r b hb).trans ha.symm⟩)
        simp [ha, hn, ih]
      · simp [ha, ih]

/-- The other owners' entries stay. -/
theorem splitDrain_others (l : List CombEntry) {j : Nat} (hj : j ≠ i) :
    (splitDrain p l).2.filter (·.owner == j) = l.filter (·.owner == j) := by
  induction l with
  | nil => rfl
  | cons a r ih =>
    by_cases h : Drains p a r
    · have ha : a.owner = i := splitDrain_owner p hp (a :: r) a (by simp [splitDrain_cons_drains p h])
      simp [splitDrain_cons_drains p h, ha, ih, hj.symm]
    · simp [splitDrain_cons_stays p h, ih, List.filter_cons]

end

/-- From s to t entries of core i have drained as a condition means them: those sent are its oldest, up to the youngest
meant, and go in flight in their order; those kept are the rest, and nothing else differs. -/
structure Drained (s t : State) (i : Nat) (p : CombEntry → Bool) (sent kept : List CombEntry) : Prop where
  frame : ∃ cs, t = { s with clusters := cs, flight := s.flight ++ sent.map s.drainedAs }
  own : s.ownEntries i = sent ++ kept
  stay : t.ownEntries i = kept
  others : ∀ j, j ≠ i → t.ownEntries j = s.ownEntries j
  last : ∀ e, sent.getLast? = some e → p e = true
  unmeant : ∀ e ∈ kept, p e = false

section
variable {s t : State} {i : Nat} {p : CombEntry → Bool} {sent kept : List CombEntry} (h : Drained s t i p sent kept)
include h

theorem Drained.flight : t.flight = s.flight ++ sent.map s.drainedAs := by obtain ⟨cs, rfl⟩ := h.frame; rfl

theorem Drained.self : t.self = s.self := by obtain ⟨cs, rfl⟩ := h.frame; rfl

theorem Drained.mem : t.mem = s.mem := by obtain ⟨cs, rfl⟩ := h.frame; rfl

end

/-- Where none of core i's entries is meant, nothing drains. -/
theorem State.drainOwn_of_none {s : State} {i : Nat} {p : CombEntry → Bool} (h : ∀ e ∈ s.ownEntries i, p e = false) :
    s.drainOwn i p = s := by
  have hn : ∀ e ∈ (s.cluster (clusterOf i)).comb, (e.owner == i && p e) = false := fun e he => by
    cases ho : e.owner == i with
    | false => rfl
    | true => exact h e (List.mem_filter.mpr ⟨he, ho⟩)
  simp [State.drainOwn, State.drain, splitDrain_of_none _ hn]

/-- What draining a core's own entries does (R133). -/
theorem State.drainOwn_drains (s : State) (i : Nat) (p : CombEntry → Bool) :
    ∃ sent kept, Drained s (s.drainOwn i p) i p sent kept := by
  let q (e : CombEntry) : Bool := e.owner == i && p e
  have hq : ∀ e, q e = true → e.owner = i := fun e h => beq_iff_eq.mp (Bool.and_eq_true _ _ ▸ h).1
  let l := (s.cluster (clusterOf i)).comb
  refine ⟨(splitDrain q l).1, (splitDrain q l).2.filter (·.owner == i), ?_⟩
  have hkept : ∀ e ∈ (splitDrain q l).2.filter (·.owner == i), p e = false := fun e he => by
    obtain ⟨hm, ho⟩ := List.mem_filter.mp he
    simpa [q, ho] using splitDrain_kept q l e hm
  have hlast : ∀ e, (splitDrain q l).1.getLast? = some e → p e = true := fun e he =>
    (Bool.and_eq_true _ _ ▸ splitDrain_last q l e he).2
  have hown : s.ownEntries i = _ := splitDrain_split q hq l
  by_cases hnil : (splitDrain q l).1 = []
  · have hs : s.drainOwn i p = s := by
      simp only [State.drainOwn, State.drain, List.isEmpty_iff]
      exact if_pos hnil
    rw [hs]
    exact ⟨⟨s.clusters, by simp [hnil]⟩, hown, by simpa [hnil] using hown, fun _ _ => rfl, hlast, hkept⟩
  · let k : Cluster := { s.cluster (clusterOf i) with comb := (splitDrain q l).2 }
    have hs : s.drainOwn i p =
        { s.setCluster (clusterOf i) k with flight := s.flight ++ (splitDrain q l).1.map s.drainedAs } := by
      simp only [State.drainOwn, State.drain, List.isEmpty_iff]
      exact if_neg hnil
    have hc (j : Nat) : (s.drainOwn i p).cluster j = (s.setCluster (clusterOf i) k).cluster j := by
      rw [hs]
      rfl
    refine ⟨⟨_, hs⟩, hown, ?_, fun j hj => ?_, hlast, hkept⟩
    · rw [State.ownEntries, hc, State.cluster_setCluster]
    · rw [State.ownEntries, State.ownEntries, hc]
      by_cases hcl : clusterOf j = clusterOf i
      · rw [hcl, State.cluster_setCluster]
        exact splitDrain_others q hq l hj
      · rw [State.cluster_setCluster_ne _ _ _ _ hcl]

@[simp] theorem State.begin_ownEntries (s : State) (f : Fields) (i : Nat) :
    (s.begin f).ownEntries i = s.ownEntries i := rfl

@[simp] theorem State.begin_drainedAs (s : State) (f : Fields) : (s.begin f).drainedAs = s.drainedAs := rfl

/-! ## RFLUSH (R185) -/

/-- An instruction whose effect is that entries of its core drain changes what an instruction of the stream may. -/
theorem Drained.streamFrame {s t : State} {f : Fields} {i : Nat} {p : CombEntry → Bool} {sent kept : List CombEntry}
    (h : Drained (s.begin f) t i p sent kept) : StreamFrame s (t.goOn (nextAddr t.self.pc)) f := by
  obtain ⟨cs, rfl⟩ := h.frame
  have hpc : (s.begin f).self.pc = s.self.pc := by simp
  exact congrArg (fun pc => State.goOn _ (nextAddr pc)) hpc

/-- The entries that an RFLUSH with these source values names: all, or those of the line of S1. -/
def flushed (o : OpM) (x : Srcs) (e : CombEntry) : Bool :=
  o.s1 == .none || (bits x.s1 63 1 == 0 && e.line == lineNo x.s1)

theorem flushed_iff {o : OpM} {x : Srcs} {e : CombEntry} :
    flushed o x e = true ↔ o.s1 = .none ∨ (bits x.s1 63 1 = 0 ∧ e.line = x.s1.toNat / 64) := by
  simp [flushed, lineNo]

/-! ## What a fence awaits (R213) -/

/-- The scope of a fence with these source values (R212). -/
def scopeOf (o : OpM) (x : Srcs) : Option Word := if o.s3 = .none then none else some x.s3

/-- FENCE and FENCEX are one operation, with and without the engines. -/
theorem exec_fence {o : OpM} {i : Instr} (h : i = .fence o ∨ i = .fencex o) (s : State) :
    exec i s = fence o (irOf i) (decide (i = .fencex o)) (if i = .fence o then 0x26 else 0x27) s := by
  rcases h with rfl | rfl
  · rw [decide_eq_false (by simp), if_pos rfl]
    rfl
  · rw [decide_eq_true rfl, if_neg (by simp)]
    rfl

section
variable {o : OpM} {ir : Word} {engines : Bool} {detail : Nat} {s : State} {x : Srcs}
  (h : Issues (fieldsM o) (limitPriv ir o.imm) [] s x s)
include h

/-- A fence whose scope holds its core drains and awaits. -/
theorem fence_of_scope (hs : o.s3 = .none ∨ s.scopeBad s.cur x.s3 = false) :
    fence o ir engines detail s =
      .next (fencing o.sub.toNat (scopeOf o x) engines detail o.imm s (s.begin (fieldsM o))).state := by
  rw [fence, issued_of_issues h, scopeOf]
  by_cases h3 : o.s3 = .none
  · simp only [h3, if_true]
  · simp only [h3, if_false, hs.resolve_left h3, Bool.false_eq_true]

/-- A fence whose scope does not hold its core traps (R212). -/
theorem fence_of_scopeBad (h3 : o.s3 ≠ .none) (hs : s.scopeBad s.cur x.s3 = true) :
    fence o ir engines detail s = .next (s.takeTrap s.cur (guardTrap 0x09 x.s3)) := by
  rw [fence, issued_of_issues h]
  simp only [h3, if_false, hs, if_true, Result.state]

end

/-- The state in which a fence completes: a FENCEX settles what the two ordering domains wrote (R219). -/
def fenceDone (s : State) (f : Fields) (engines : Bool) : State :=
  if engines then (goneOn s f).settled s.cur else goneOn s f

section
variable {s : State} {mask : Nat} {scope : Option Word} {engines : Bool} {detail : Nat} {imm : BitVec 32} {f : Fields}

/-- Where the core has no entry in the classes of the mask, and what the fence awaits has ended, it completes. -/
theorem fencing_completes {ids tls : List Nat} (he : ∀ e ∈ s.ownEntries s.cur, inMask mask e.cls = false)
    (hw : (s.self.fenceStage).getD
      (s.fenced s.cur mask scope, (if engines then s.self.issued else Vector.replicate 4 0).toList) = (ids, tls))
    (ha : s.allAcked s.cur ids = true) (ht : (tls.zipIdx.all fun t => decide (t.1 ≤ s.self.tl[t.2]!)) = true) :
    (fencing mask scope engines detail imm s (s.begin f)).state = fenceDone s f engines := by
  have hd : s.drainOwn s.cur (fun e => inMask mask e.cls) = s := State.drainOwn_of_none he
  have hb : (s.begin f).drainOwn s.cur (fun e => inMask mask e.cls) = s.begin f := State.drainOwn_of_none he
  have hpc : (s.begin f).self.pc = s.self.pc := by simp
  simp only [fencing, hd, hb, hw, ha, ht, Bool.and_self, if_true, Result.state, fenceDone, goneOn, ← hpc]
  cases engines <;> rfl

/-- Where nothing of the classes is outstanding, a fence awaits no access and no command. -/
theorem State.fenced_of_none (hp : ∀ a ∈ s.pending s.cur, inMask mask a.cls = false)
    (hk : ∀ k ∈ s.self.cmds, inMask mask k.cls = true → s.allAcked s.cur k.after = true) :
    s.fenced s.cur mask scope = [] := by
  rw [State.fenced, List.append_eq_nil_iff, List.map_eq_nil_iff, List.map_eq_nil_iff, List.filter_eq_nil_iff,
    List.filter_eq_nil_iff]
  refine ⟨fun a ha => by simp [hp a ha], fun k hm => ?_⟩
  cases hc : inMask mask k.cls with
  | false => simp
  | true => simp [hk k hm hc]

/-- An entry of a core is one of its pending accesses. -/
theorem State.pending_of_entry {i : Nat} {e : CombEntry} (he : e ∈ s.ownEntries i) :
    ∃ a ∈ s.pending i, a.cls = e.cls :=
  ⟨_, List.mem_append_left _ (List.mem_map_of_mem he), rfl⟩

/-- So is an access of its stream in flight that is not acknowledged. -/
theorem State.pending_of_flight {i : Nat} {a : Access} (ha : a ∈ s.flight)
    (hs : (a.core == i && a.stream && !a.acked) = true) :
    ∃ b ∈ s.pending i, b.id = a.id ∧ b.cls = a.cls ∧ b.target = a.kind.target :=
  ⟨_, List.mem_append_right _ (List.mem_map_of_mem (List.mem_filter.mpr ⟨ha, hs⟩)), rfl, rfl, rfl⟩

/-- The timeline values that a fence awaits, one for each context, have been reached where each is at most its
counter. -/
theorem reached_of_le {tl : Vector Nat 4} {tls : List Nat} (hl : tls.length ≤ 4)
    (h : ∀ k : Fin 4, ∀ n, tls[k.val]? = some n → n ≤ tl[k]) :
    (tls.zipIdx.all fun t => decide (t.1 ≤ tl[t.2]!)) = true := by
  refine List.all_eq_true.mpr fun t ht => decide_eq_true ?_
  have hk : tls[t.2]? = some t.1 := List.mem_zipIdx_iff_getElem?.mp ht
  have h4 : t.2 < 4 := Nat.lt_of_lt_of_le (List.getElem?_eq_some_iff.mp hk).1 hl
  rw [getElem!_pos tl t.2 h4]
  exact h ⟨t.2, h4⟩ t.1 hk

end

/-- A fence that awaits no engine, or all of whose commands have finished, awaits no timeline value any more. -/
theorem unissued_reached {tl issued : Vector Nat 4} {engines : Bool} (h : engines = true → tl = issued) :
    ((if engines then issued else Vector.replicate 4 0).toList.zipIdx.all fun t => decide (t.1 ≤ tl[t.2]!)) = true := by
  refine reached_of_le (Nat.le_of_eq Vector.length_toList) fun k n hn => ?_
  rw [Vector.getElem?_toList] at hn
  cases engines with
  | false =>
    have h0 : n = 0 := by simpa using hn.symm
    exact Nat.le_trans (Nat.le_of_eq h0) (Nat.zero_le _)
  | true =>
    rw [h rfl]
    exact Nat.le_of_eq (by simpa using hn : issued[k] = n).symm

/-! ## A fence that waits (R213) -/

section
variable {s t : State} {i : Nat} {p : CombEntry → Bool} {sent kept : List CombEntry} {e : CombEntry}

/-- An entry that is meant drains. -/
theorem Drained.mem_sent (h : Drained s t i p sent kept) (he : e ∈ s.ownEntries i) (hp : p e = true) : e ∈ sent :=
  (List.mem_append.mp (h.own ▸ he)).resolve_right fun hk => by simp [h.unmeant e hk] at hp

/-- An entry that drains is in flight. -/
theorem Drained.mem_flight (h : Drained s t i p sent kept) (he : e ∈ sent) : s.drainedAs e ∈ t.flight :=
  h.flight ▸ List.mem_append_right _ (List.mem_map_of_mem he)

/-- A fence awaits the entries in its classes that it has drained, whatever its scope: they are stores. -/
theorem Drained.mem_fenced (h : Drained s t i p sent kept) (he : e ∈ sent) {mask : Nat} (hm : inMask mask e.cls = true)
    (scope : Option Word) : e.id ∈ t.fenced i mask scope := by
  have ho : e.owner = i :=
    beq_iff_eq.mp (List.mem_filter.mp (h.own ▸ List.mem_append_left kept he : e ∈ s.ownEntries i)).2
  obtain ⟨b, hb, hid, hcls, htgt⟩ := State.pending_of_flight (i := i) (h.mem_flight he)
    (by simp [State.drainedAs, Access.acked, ho])
  have hw : b.cls = e.cls ∧ b.target = none := ⟨hcls, htgt⟩
  exact List.mem_append_left _ (List.mem_map.mpr ⟨b, List.mem_filter.mpr ⟨hb, by simp [hw, hm]⟩, hid⟩)

/-- An entry that has drained is not acknowledged, where no earlier access had its number. -/
theorem Drained.acked_eq_false (h : Drained s t i p sent kept) (he : e ∈ sent) (hn : s.access? e.id = none) :
    t.acked i e.id = false := by
  have hs : ((sent.map s.drainedAs).find? fun a => a.id == e.id).isSome = true :=
    List.find?_isSome.mpr ⟨_, List.mem_map_of_mem he, by simp [State.drainedAs]⟩
  obtain ⟨a, ha⟩ := Option.isSome_iff_exists.mp hs
  obtain ⟨d, -, rfl⟩ := List.mem_map.mp (List.mem_of_find?_eq_some ha)
  have hf : t.access? e.id = some (s.drainedAs d) := by
    rw [State.access?, h.flight, List.find?_append, ha]
    exact congrArg (Option.or · _) hn
  have hd : (s.drainedAs d).acked = false := rfl
  rw [State.acked, hf]
  simp [hd]

end

/-! ## A state that waits -/

section
variable (s : State) (w : Wait)

theorem Result.state_wait : (Result.wait s w).state = waiting s w := rfl

@[simp] theorem waiting_self : (waiting s w).self = { s.self with wait := some { w with pc := s.self.pc } } :=
  State.core_onCore s s.cur _

@[simp] theorem waiting_ownEntries (i : Nat) : (waiting s w).ownEntries i = s.ownEntries i := rfl

/-- An instruction that waits keeps the registers and memory. -/
theorem waiting_rest : RestKept s (waiting s w) [] [] := by
  refine ⟨⟨fun r _ => ?_, fun r _ => ?_, fun r _ => ?_⟩, fun k _ _ => ?_, ?_, fun k => rfl⟩ <;> rw [waiting_self]
  rfl

end

/-- Entries that have drained change neither the registers nor memory. -/
theorem Drained.restKept {s t u : State} {i : Nat} {p : CombEntry → Bool} {sent kept : List CombEntry}
    (h : Drained s t i p sent kept) (hr : RestKept t u [] []) : RestKept s u [] [] := by
  simpa only [RestKept, RegsKept, h.self, h.mem] using hr

/-- A fence that has drained an entry, whose number no earlier access has, waits for it. -/
theorem fencing_waits {s u : State} {mask : Nat} {scope : Option Word} {engines : Bool} {detail : Nat} {imm : BitVec 32}
    {t : State} {sent kept : List CombEntry} (ht : s.drainOwn s.cur (fun e => inMask mask e.cls) = t)
    (h : Drained s t s.cur (fun e => inMask mask e.cls) sent kept) (hf : s.self.fenceStage = none) {e : CombEntry}
    (he : e ∈ s.ownEntries s.cur) (hm : inMask mask e.cls = true) (hn : s.access? e.id = none) :
    ∃ stage, fencing mask scope engines detail imm s u =
      .wait t { detail := detail, left := s.self.waitLeft imm, stage := stage } := by
  have hs : e ∈ sent := h.mem_sent he hm
  have ha : t.allAcked s.cur (t.fenced s.cur mask scope) = false :=
    List.all_eq_false.mpr ⟨e.id, h.mem_fenced hs hm scope, by simp [h.acked_eq_false hs hn]⟩
  refine ⟨.fence (t.fenced s.cur mask scope) (if engines then s.self.issued else Vector.replicate 4 0).toList, ?_⟩
  simp only [fencing, ht, hf, Option.getD_none, ha, Bool.false_and, Bool.false_eq_true, if_false]

/-! ## The claims -/

/-- RFLUSH drains the entries that it names, with the older ones of its core (`State.drainOwn_drains`). -/
theorem flushClaims : Claims.FlushResults := by
  intro o s x _ hi meant
  obtain ⟨sent, kept, hd⟩ := (s.begin (fieldsM o)).drainOwn_drains s.cur (flushed o x)
  exact ⟨_, sent, kept, issued_of_issues hi _, hd.streamFrame, hd.own, hd.stay, hd.flight,
    fun e he hm => by simpa [flushed_iff.mpr hm] using hd.unmeant e he,
    fun e he => flushed_iff.mp (hd.last e he), hd.others⟩

/-- A fence drains its classes and completes where what it awaits has ended (`fencing_completes`), waits where it has
drained an entry (`fencing_waits`), and traps outside its scope. -/
theorem fenceClaims : Claims.Fences := by
  intro o s x i h _ hi
  have hdone : (if i = .fencex o then (goneOn s (fieldsM o)).settled s.cur else goneOn s (fieldsM o)) =
      fenceDone s (fieldsM o) (decide (i = .fencex o)) := by simp [fenceDone]
  simp only [exec_fence h, hdone]
  refine ⟨fun hs => ?_, fun h3 hs => fence_of_scopeBad hi h3 hs⟩
  simp only [fence_of_scope hi hs]
  refine ⟨fun hf hp hk htl => ?_, fun ids tls hf he ha ht hl => ?_, fun hf ⟨e, he, hm, hn⟩ => ?_⟩
  · have he : ∀ e ∈ s.ownEntries s.cur, inMask o.sub.toNat e.cls = false := fun e he => by
      obtain ⟨a, ha, hc⟩ := State.pending_of_entry he
      exact hc ▸ hp a ha
    exact congrArg _ (fencing_completes he (by rw [hf, State.fenced_of_none hp hk]; rfl) rfl
      (unissued_reached fun hx => htl (of_decide_eq_true hx)))
  · exact congrArg _ (fencing_completes he (by rw [hf]; rfl) ha (reached_of_le hl ht))
  · obtain ⟨sent, kept, hd⟩ := s.drainOwn_drains s.cur fun e => inMask o.sub.toNat e.cls
    obtain ⟨stage, hw⟩ := fencing_waits rfl hd hf he hm hn
    rw [hw, Result.state_wait]
    refine ⟨_, _, rfl, congrArg Core.wait (waiting_self ..), rfl, rfl, ?_, hd.restKept (waiting_rest ..), ?_, ?_⟩
    · rw [waiting_self, hd.self]
    · rw [waiting_ownEntries, hd.stay]
      exact hd.unmeant
    · exact fun e he hm => hd.mem_flight (hd.mem_sent he hm)

end Sys2Proof.Machine

section
open Sys2Proof Sys2Proof.Machine Sys2Proof.Claims

/-- Settles O28: what RFLUSH and a fence drain are their core's oldest entries up to the youngest meant
(`State.drainOwn_drains`); a fence then completes (`fencing_completes`), or waits for what it has drained
(`fencing_waits`), and traps outside its scope. -/
theorem fenceResults : Obligations.FenceResults := ⟨flushClaims, fenceClaims⟩

end
